-- ==== Sys2Proof/Word.lean ====
section
/-!
DEFINITION. The word types of the machine (R3) and the type of sparse tables.
-/

namespace Sys2Proof

/-- A byte (R3). -/
abbrev Byte := BitVec 8
/-- A word of 32 bits (R3). -/
abbrev Word := BitVec 32
/-- A doubleword of 64 bits (R3). -/
abbrev Dword := BitVec 64
/-- A cluster-local value: 16 lanes of 32 bits, lane 0 in bits [31:0] (R48, R292). -/
abbrev Line := BitVec 512

/-- A sparse table: pairs of a key and a value, keys strictly rising; a key that is not listed holds the table's default.
(DESIGN CHOICE, log 66.) -/
abbrev Tab (α : Type) := List (Nat × α)

end Sys2Proof
end

