-- ==== Sys2Proof/Machine/Tab.lean ====
section
/-!
DEFINITION. Sparse tables (sorted association lists with a default), bytes of words, and lanes of 512-bit values.
-/

namespace Sys2Proof.Machine

/-- The entry of key k, or the default. (DESIGN CHOICE, log 1.) -/
def tabGet {α : Type} (d : α) : Tab α → Nat → α
  | [], _ => d
  | (k', v) :: t, k => if k' = k then v else tabGet d t k

/-- Writes key k and keeps the entry whatever its value. (DESIGN CHOICE, log 66.) -/
def tabPut {α : Type} : Tab α → Nat → α → Tab α
  | [], k, v => [(k, v)]
  | (k', v') :: t, k, v =>
    if k < k' then (k, v) :: (k', v') :: t
    else if k = k' then (k, v) :: t
    else (k', v') :: tabPut t k v

/-- Removes every entry of key k. (DESIGN CHOICE, log 66.) -/
def tabDel {α : Type} : Tab α → Nat → Tab α
  | [], _ => []
  | (k', v) :: t, k => if k' = k then tabDel t k else (k', v) :: tabDel t k

/-- Writes key k; a value equal to the default removes the entry, so that equal tables are equal lists.
(DESIGN CHOICE, log 66.) -/
def tabSet {α : Type} [DecidableEq α] (d : α) (t : Tab α) (k : Nat) (v : α) : Tab α :=
  if v = d then tabDel t k else tabPut t k v

/-- The entries before key k that a list of writes with rising keys leaves, and the writes from k on. -/
def tabBefore {α : Type} [DecidableEq α] (d : α) (k : Nat) : Tab α → Tab α × Tab α
  | [] => ([], [])
  | (k', v) :: ws =>
    if k' < k then
      let r := tabBefore d k ws
      (if v = d then r.1 else (k', v) :: r.1, r.2)
    else ([], (k', v) :: ws)

/-- Writes a list of keys that rise, as `tabSet` writes each. (DESIGN CHOICE, log 66.) -/
def tabSetAll {α : Type} [DecidableEq α] (d : α) : Tab α → Tab α → Tab α
  | [], ws => ws.filter (fun w => w.2 ≠ d)
  | (k, v) :: t, ws =>
    let r := tabBefore d k ws
    r.1 ++ (match r.2 with
      | (k', w) :: rest =>
        if k' = k then (if w = d then tabSetAll d t rest else (k, w) :: tabSetAll d t rest)
        else (k, v) :: tabSetAll d t r.2
      | [] => (k, v) :: t)

/-- The canonical form: keys strictly rising from a lower bound, no entry equal to the default. -/
def tabWfFrom {α : Type} [DecidableEq α] (d : α) : Nat → Tab α → Bool
  | _, [] => true
  | lo, (k, v) :: t => decide (lo ≤ k) && decide (v ≠ d) && tabWfFrom d (k + 1) t

/-- The canonical form of a table. -/
def tabWf {α : Type} [DecidableEq α] (d : α) (t : Tab α) : Bool := tabWfFrom d 0 t

/-- Drops the keys of a range. -/
def tabClear {α : Type} (t : Tab α) (lo hi : Nat) : Tab α :=
  t.filter (fun p => p.1 < lo || hi ≤ p.1)

/-- The n bytes from address a. (DESIGN CHOICE, log 1.) -/
def readBytes (m : List Host.Cell) (a : Nat) : Nat → List Byte
  | 0 => []
  | n + 1 => tabGet 0 m a :: readBytes m (a + 1) n

/-- Writes bytes from address a upward. -/
def writeBytes (m : List Host.Cell) (a : Nat) : List Byte → List Host.Cell
  | [] => m
  | b :: bs => writeBytes (tabSet 0 m a b) (a + 1) bs

/-- Little-endian value of bytes (R3). -/
def leNat : List Byte → Nat
  | [] => 0
  | b :: bs => b.toNat + 256 * leNat bs

/-- The n low bytes of a value, little-endian (R3). -/
def leBytes (v : Nat) : Nat → List Byte
  | 0 => []
  | n + 1 => BitVec.ofNat 8 v :: leBytes (v / 256) n

/-- Bits [hi:lo] of a value. -/
def bits (v hi lo : Nat) : Nat := v / 2 ^ lo % 2 ^ (hi - lo + 1)

/-- The n-byte field at offset o of a byte list. -/
def fieldAt (bs : List Byte) (o n : Nat) : Nat := leNat ((bs.drop o).take n)

/-- Lane l of a 512-bit value (R48). -/
def lane (v : Line) (l : Nat) : Word := v.extractLsb' (32 * l) 32

/-- Lane 0, zero-extended: a cluster-local value in the shared domain (Table 11.3). -/
def lowWord (v : Line) : Dword := (v.extractLsb' 0 32).zeroExtend 64

/-- The low 64 bits: a scalar value held in a line. -/
def low64 (v : Line) : Dword := v.extractLsb' 0 64

/-- A scalar value held in a line. -/
def ofDword (v : Dword) : Line := v.zeroExtend 512

/-- A line from its lanes, lane 0 first. -/
def ofLanes : List Word → Line
  | [] => 0
  | w :: ws => w.zeroExtend 512 ||| (ofLanes ws <<< 32)

/-- The sixteen lane numbers. -/
def laneIx : List Nat := [0, 1, 2, 3, 4, 5, 6, 7, 8, 9, 10, 11, 12, 13, 14, 15]

/-- A line built lane by lane. -/
def mapLanes (f : Nat → Word) : Line := ofLanes (laneIx.map f)

/-- A word copied to all 16 lanes (Table 11.3). -/
def splat (w : Word) : Line := mapLanes (fun _ => w)

/-- All ones in the lanes of a mask. -/
def laneMask (g : BitVec 16) : Line := mapLanes (fun l => if g.getLsbD l then BitVec.allOnes 32 else 0)

/-- New value in the lanes of the mask, old value in the others (R48, R294). -/
def mergeLanes (g : BitVec 16) (old new : Line) : Line :=
  (new &&& laneMask g) ||| (old &&& ~~~ laneMask g)

/-- The 64 bytes of a line, byte 0 first. -/
def lineBytes (v : Line) : List Byte := leBytes v.toNat 64

/-- A line from its bytes. -/
def lineOf (bs : List Byte) : Line := BitVec.ofNat 512 (leNat bs)

/-- A doubleword from its bytes. -/
def dwordOf (bs : List Byte) : Dword := BitVec.ofNat 64 (leNat bs)

/-- Numbers a, a+1, ..., a+n-1. -/
def rangeFrom (a : Nat) : Nat → List Nat
  | 0 => []
  | n + 1 => a :: rangeFrom (a + 1) n

/-- The bytes of doublewords. -/
def dwordsBytes (ws : List Dword) : List Byte := ws.flatMap (fun w => leBytes w.toNat 8)

/-- The doublewords of bytes. -/
def bytesDwords (bs : List Byte) : Nat → List Dword
  | 0 => []
  | n + 1 => dwordOf (bs.take 8) :: bytesDwords (bs.drop 8) n

/-- Distinct members, first occurrence kept. -/
def distinct (l : List Nat) : List Nat :=
  l.foldl (fun acc x => if acc.contains x then acc else acc ++ [x]) []

/-- Smallest member of a list by a key, the first among equals. -/
def minBy {α : Type} (key : α → Nat) : List α → Option α
  | [] => none
  | a :: t => match minBy key t with
    | none => some a
    | some b => if key a ≤ key b then some a else some b

end Sys2Proof.Machine
end

