-- ==== Sys2Proof/Machine/Crypto.lean ====
section
/-!
DEFINITION. The functions that protect flits and firmware: AES-256 and GCM (R272), SHA-256 (R282). The spec names the
algorithms; their definitions are the published standards (FIPS 197, SP 800-38D, FIPS 180-4).
-/

namespace Sys2Proof.Machine

/-! ## AES-256 -/

/-- The S-box, sixteen entries a row, entry 0 of a row in its lowest byte. -/
def sboxRows : List Nat := [0x76ABD7FE2B670130C56F6BF27B777C63, 0xC072A49CAFA2D4ADF04759FA7DC982CA,
  0x1531D871F1E5A534CCF73F362693FDB7, 0x75B227EBE28012079A059618C323C704,
  0x842FE329B3D63B52A05A6E1B1A2C8309, 0xCF584C4A39BECB6A5BB1FC20ED00D153,
  0xA89F3C507F02F94585334D43FBAAEFD0, 0xD2F3FF1021DAB6BCF5389D928F40A351,
  0x73195D643D7EA7C41744975FEC130CCD, 0xDB0B5EDE14B8EE4688902A22DC4F8160,
  0x79E4959162ACD3C25C2406490A3A32E0, 0x08AE7A65EAF4566CA94ED58D6D37C8E7,
  0x8A8BBD4B1F74DDE8C6B4A61C2E2578BA, 0x9E1DC186B95735610EF6034866B53E70,
  0xDF2855CEE9871E9B948ED9691198F8E1, 0x16BB54B00F2D99416842E6BF0D89A18C]

/-- The S-box. -/
def sbox (b : Byte) : Byte := BitVec.ofNat 8 (sboxRows.getD (b.toNat / 16) 0 / 2 ^ (8 * (b.toNat % 16)))

/-- Multiplication by x in the field of AES. -/
def xtime (b : Byte) : Byte := (b <<< 1) ^^^ (if b.getLsbD 7 then 0x1B else 0)

/-- Bytewise exclusive or. -/
def xorBytes (a b : List Byte) : List Byte := a.zipWith (· ^^^ ·) b

/-- One word of the key schedule after the last eight (FIPS 197, Nk = 8): `ws` holds the words so far, newest first. -/
def keyWord (i : Nat) (rcon : Byte) (ws : List (List Byte)) : List Byte :=
  let prev := ws.getD 0 []
  let t := if i % 8 = 0 then
      match (prev.drop 1 ++ prev.take 1).map sbox with
      | b :: r => (b ^^^ rcon) :: r
      | [] => []
    else if i % 8 = 4 then prev.map sbox
    else prev
  xorBytes (ws.getD 7 []) t

/-- Words i, i+1, ... of the schedule. -/
def keyWords : Nat → Nat → Byte → List (List Byte) → List (List Byte)
  | 0, _, _, ws => ws
  | fuel + 1, i, rcon, ws =>
    keyWords fuel (i + 1) (if i % 8 = 0 then xtime rcon else rcon) (keyWord i rcon ws :: ws)

/-- The four-byte pieces of a byte list. -/
def chunks4 : Nat → List Byte → List (List Byte)
  | 0, _ => []
  | n + 1, bs => bs.take 4 :: chunks4 n (bs.drop 4)

/-- The fifteen round keys of a 32-byte key. -/
def roundKeys (key : List Byte) : List (List Byte) :=
  let ws := (keyWords 52 8 1 (chunks4 8 key).reverse).reverse
  (rangeFrom 0 15).map (fun r => ((ws.drop (4 * r)).take 4).flatten)

/-- Rows shifted: byte 4c + r comes from column c + r. -/
def shiftRows (s : List Byte) : List Byte :=
  (rangeFrom 0 16).map (fun i => s.getD ((i + 4 * (i % 4)) % 16) 0)

/-- One column mixed. -/
def mixColumn (c : List Byte) : List Byte :=
  (rangeFrom 0 4).map (fun i =>
    let b (j : Nat) : Byte := c.getD ((i + j) % 4) 0
    xtime (b 0) ^^^ (xtime (b 1) ^^^ b 1) ^^^ b 2 ^^^ b 3)

/-- The encryption of one block. -/
def aesBlock (ks : List (List Byte)) (block : List Byte) : List Byte :=
  let s := xorBytes block (ks.getD 0 [])
  let s := (rangeFrom 1 13).foldl (fun s r =>
    xorBytes ((chunks4 4 (shiftRows (s.map sbox))).flatMap mixColumn) (ks.getD r [])) s
  xorBytes (shiftRows (s.map sbox)) (ks.getD 14 [])

/-! ## GCM -/

/-- Big-endian value of bytes. -/
def beNat (bs : List Byte) : Nat := leNat bs.reverse

/-- The n low bytes of a value, big-endian. -/
def beBytes (v n : Nat) : List Byte := (leBytes v n).reverse

/-- Product in GF(2^128) of SP 800-38D: bit 127 of a value is its first bit. -/
def ghMul (x y : BitVec 128) : BitVec 128 :=
  ((rangeFrom 0 128).foldl (fun (p : BitVec 128 × BitVec 128) i =>
    let z := if x.getMsbD i then p.1 ^^^ p.2 else p.1
    let v := if p.2.getLsbD 0 then (p.2 >>> 1) ^^^ 0xE1000000000000000000000000000000 else p.2 >>> 1
    (z, v)) ((0 : BitVec 128), y)).1

/-- The sixteen-byte pieces of a byte list, the last one filled with zeros. -/
def blocks16 : Nat → List Byte → List (List Byte)
  | 0, _ => []
  | n + 1, bs => if bs.isEmpty then [] else (bs.take 16 ++ leBytes 0 (16 - bs.length)) :: blocks16 n (bs.drop 16)

/-- GHASH over blocks. -/
def ghash (h : BitVec 128) (bs : List (List Byte)) : BitVec 128 :=
  bs.foldl (fun y b => ghMul (y ^^^ BitVec.ofNat 128 (beNat b)) h) 0

/-- A key as GCM uses it: its round keys, the hash key. -/
structure GcmKey where
  ks : List (List Byte)
  h  : BitVec 128

/-- From the bytes of a key. -/
def gcmKey (key : List Byte) : GcmKey :=
  let ks := roundKeys key
  { ks := ks, h := BitVec.ofNat 128 (beNat (aesBlock ks (leBytes 0 16))) }

/-- Encryption or decryption in counter mode from counter value n. -/
def gcmCtr (k : GcmKey) (iv : List Byte) (n : Nat) (bs : List Byte) : List Byte :=
  let bl := blocks16 bs.length bs
  (((rangeFrom n bl.length).zip bl).flatMap (fun p => xorBytes p.2 (aesBlock k.ks (iv ++ beBytes p.1 4)))).take bs.length

/-- The tag of additional data and a ciphertext. -/
def gcmTag (k : GcmKey) (iv aad ct : List Byte) : List Byte :=
  let g := ghash k.h (blocks16 aad.length aad ++ blocks16 ct.length ct
    ++ [beBytes (8 * aad.length) 8 ++ beBytes (8 * ct.length) 8])
  xorBytes (beBytes g.toNat 16) (aesBlock k.ks (iv ++ beBytes 1 4))

/-! ## SHA-256 -/

/-- Round constants. -/
def shaK : List Word := [0x428A2F98, 0x71374491, 0xB5C0FBCF, 0xE9B5DBA5, 0x3956C25B, 0x59F111F1, 0x923F82A4, 0xAB1C5ED5,
  0xD807AA98, 0x12835B01, 0x243185BE, 0x550C7DC3, 0x72BE5D74, 0x80DEB1FE, 0x9BDC06A7, 0xC19BF174,
  0xE49B69C1, 0xEFBE4786, 0x0FC19DC6, 0x240CA1CC, 0x2DE92C6F, 0x4A7484AA, 0x5CB0A9DC, 0x76F988DA,
  0x983E5152, 0xA831C66D, 0xB00327C8, 0xBF597FC7, 0xC6E00BF3, 0xD5A79147, 0x06CA6351, 0x14292967,
  0x27B70A85, 0x2E1B2138, 0x4D2C6DFC, 0x53380D13, 0x650A7354, 0x766A0ABB, 0x81C2C92E, 0x92722C85,
  0xA2BFE8A1, 0xA81A664B, 0xC24B8B70, 0xC76C51A3, 0xD192E819, 0xD6990624, 0xF40E3585, 0x106AA070,
  0x19A4C116, 0x1E376C08, 0x2748774C, 0x34B0BCB5, 0x391C0CB3, 0x4ED8AA4A, 0x5B9CCA4F, 0x682E6FF3,
  0x748F82EE, 0x78A5636F, 0x84C87814, 0x8CC70208, 0x90BEFFFA, 0xA4506CEB, 0xBEF9A3F7, 0xC67178F2]

/-- Initial hash value. -/
def shaH : List Word := [0x6A09E667, 0xBB67AE85, 0x3C6EF372, 0xA54FF53A, 0x510E527F, 0x9B05688C, 0x1F83D9AB, 0x5BE0CD19]

/-- Message schedule, newest word first. -/
def shaWords : Nat → List Word → List Word
  | 0, ws => ws
  | n + 1, ws =>
    let a := ws.getD 1 0
    let b := ws.getD 14 0
    let s1 := a.rotateRight 17 ^^^ a.rotateRight 19 ^^^ (a >>> 10)
    let s0 := b.rotateRight 7 ^^^ b.rotateRight 18 ^^^ (b >>> 3)
    shaWords n ((s1 + ws.getD 6 0 + s0 + ws.getD 15 0) :: ws)

/-- One round on the eight working variables. -/
def shaRound (v : List Word) (kw : Word) : List Word :=
  match v with
  | [a, b, c, d, e, f, g, h] =>
    let s1 := e.rotateRight 6 ^^^ e.rotateRight 11 ^^^ e.rotateRight 25
    let t1 := h + s1 + ((e &&& f) ^^^ (~~~ e &&& g)) + kw
    let s0 := a.rotateRight 2 ^^^ a.rotateRight 13 ^^^ a.rotateRight 22
    let t2 := s0 + ((a &&& b) ^^^ (a &&& c) ^^^ (b &&& c))
    [t1 + t2, a, b, c, d + t1, e, f, g]
  | v => v

/-- One block of 64 bytes. -/
def shaBlock (h : List Word) (block : List Byte) : List Word :=
  let w0 := (chunks4 16 block).map (fun b => (BitVec.ofNat 32 (beNat b) : Word))
  let ws := (shaWords 48 w0.reverse).reverse
  let v := (shaK.zipWith (· + ·) ws).foldl shaRound h
  h.zipWith (· + ·) v

/-- Blocks of 64 bytes. -/
def blocks64 : Nat → List Byte → List (List Byte)
  | 0, _ => []
  | n + 1, bs => if bs.isEmpty then [] else bs.take 64 :: blocks64 n (bs.drop 64)

/-- SHA-256 of bytes, first byte of the digest first. -/
def sha256 (bs : List Byte) : List Byte :=
  let pad := (119 - bs.length % 64) % 64
  let m := bs ++ [0x80] ++ leBytes 0 pad ++ beBytes (8 * bs.length) 8
  ((blocks64 (m.length / 64) m).foldl shaBlock shaH).flatMap (fun w => beBytes w.toNat 4)

/-! ## RSASSA-PSS (R282: RSA-3072, SHA-256, 32 B salt) -/

/-- b^e modulo n, over the bits of e from its highest (the fuel counts them). -/
def modPow (n b : Nat) : Nat → Nat → Nat
  | 0, _ => 1 % n
  | fuel + 1, e =>
    let h := modPow n b fuel (e / 2)
    if e % 2 = 1 then h * h % n * b % n else h * h % n

/-- MGF1 with SHA-256: k blocks of 32 bytes. -/
def mgf1 (seed : List Byte) : Nat → List Byte
  | 0 => []
  | k + 1 => mgf1 seed k ++ sha256 (seed ++ beBytes k 4)

/-- EMSA-PSS: the encoded message of 384 bytes (3,071 bits) fits the message. -/
def pssFits (em msg : List Byte) : Bool :=
  let masked := em.take 351
  let h := (em.drop 351).take 32
  let db := xorBytes masked ((mgf1 h 11).take 351)
  let db := (db.head?.map (· &&& 0x7F)).toList ++ db.drop 1
  (em.drop 383) == [0xBC] && (masked.head?.map (· &&& 0x80)) == some 0
    && (db.take 318).all (· == 0) && (db.drop 318).take 1 == [0x01]
    && sha256 (leBytes 0 8 ++ sha256 msg ++ db.drop 319) == h

/-- A signature of 384 bytes verifies under a key of modulus n and exponent e. (DESIGN CHOICE, log 11.) -/
def pssVerify (key : Nat × Nat) (msg sig : List Byte) : Bool :=
  let s := leNat sig.reverse
  sig.length == 384 && s < key.1 && pssFits (beBytes (modPow key.1 s 3072 key.2) 384) msg

end Sys2Proof.Machine
end

