-- ==== Sys2Proof/Machine/Flags.lean ====
section
/-!
DEFINITION. The arithmetic flags of ACFLAGS (Table 2.9) and the tests that scalar and vector compares make
(Table 12.5).
-/

namespace Sys2Proof.Machine

/-- ACFLAGS bits (Table 2.9). -/
def flagNX : BitVec 6 := 1
def flagOF : BitVec 6 := 2
def flagUF : BitVec 6 := 4
def flagNV : BitVec 6 := 8
def flagRNG : BitVec 6 := 16
def flagMAL : BitVec 6 := 32

/-- A flag raised under a condition. -/
def flagIf (b : Bool) (f : BitVec 6) : BitVec 6 := if b then f else 0

/-- Integer compare of width w by condition code 0-5 (Table 12.5). -/
def intTest {w : Nat} (code : Nat) (a v : BitVec w) : Bool :=
  match code with
  | 0 => a == v
  | 1 => a != v
  | 2 => a.slt v
  | 3 => a.sle v
  | 4 => a.ult v
  | _ => a.ule v

/-- Clamp of an exact integer to a signed range of w bits (sat_s, R237) with OF when it clamps. -/
def satInt (w : Nat) (i : Int) : Int × BitVec 6 :=
  let hi : Int := 2 ^ (w - 1) - 1
  let lo : Int := -(2 ^ (w - 1))
  if hi < i then (hi, flagOF) else if i < lo then (lo, flagOF) else (i, 0)

end Sys2Proof.Machine
end

