-- ==== Sys2Proof/Machine/Float.lean ====
section
/-!
DEFINITION. Numbers (R223-R238): values of the floating-point formats, exact sums and products, and the one rounding
function every operation uses.
-/

namespace Sys2Proof.Machine

/-- An exact value (R223): NaN, quiet or signalling; an infinity; or the number (-1)^neg * m * 2^e, with signed zeros. -/
inductive FVal where
  | nan (sig : Bool)
  | inf (neg : Bool)
  | fin (neg : Bool) (m : Nat) (e : Int)
  deriving DecidableEq, Repr

/-- A floating-point format (Table 8.1): exponent bits, mantissa bits, bias, largest finite code, which special codes
exist, and the canonical NaN. -/
structure FFmt where
  eb : Nat
  mb : Nat
  bias : Nat
  maxFin : Nat
  hasInf : Bool
  hasNan : Bool
  qnan : Nat
  deriving DecidableEq, Repr

def fp32 : FFmt := { eb := 8, mb := 23, bias := 127, maxFin := 0x7F7FFFFF, hasInf := true, hasNan := true, qnan := 0x7FC00000 }
def bf16 : FFmt := { eb := 8, mb := 7, bias := 127, maxFin := 0x7F7F, hasInf := true, hasNan := true, qnan := 0x7FC0 }
def fp16 : FFmt := { eb := 5, mb := 10, bias := 15, maxFin := 0x7BFF, hasInf := true, hasNan := true, qnan := 0x7E00 }
def e4m3 : FFmt := { eb := 4, mb := 3, bias := 7, maxFin := 0x7E, hasInf := false, hasNan := true, qnan := 0x7F }
def e5m2 : FFmt := { eb := 5, mb := 2, bias := 15, maxFin := 0x7B, hasInf := true, hasNan := true, qnan := 0x7E }
def fp4 : FFmt := { eb := 2, mb := 1, bias := 1, maxFin := 0x7, hasInf := false, hasNan := false, qnan := 0 }

/-- Bits of a code. -/
def FFmt.width (f : FFmt) : Nat := f.eb + f.mb + 1

/-- Value of a code (R224, R225). -/
def FFmt.decode (f : FFmt) (code : Nat) : FVal :=
  let neg := code / 2 ^ (f.eb + f.mb) % 2 == 1
  let e := code / 2 ^ f.mb % 2 ^ f.eb
  let m := code % 2 ^ f.mb
  let top := e == 2 ^ f.eb - 1
  if top && f.hasInf then
    if m = 0 then .inf neg else .nan (m / 2 ^ (f.mb - 1) % 2 == 0)
  else if top && f.hasNan && m == 2 ^ f.mb - 1 then .nan false
  else if e = 0 then .fin neg m (1 - (f.bias : Int) - f.mb)
  else .fin neg (2 ^ f.mb + m) ((e : Int) - f.bias - f.mb)

/-- An integer as an exact value. -/
def FVal.ofInt (i : Int) : FVal := .fin (i < 0) i.natAbs 0

/-- The rounding modes (Table 8.6). -/
inductive RMode where
  | rne | rtz | rdn | rup
  deriving DecidableEq, Repr

/-- The mode of a code (Table 8.6). -/
def rmodeOf (n : Nat) : RMode :=
  match n with
  | 0 => .rne | 1 => .rtz | 2 => .rdn | _ => .rup

/-- m * 2^e at quantum 2^q: the truncated multiple, and the comparison of what is cut off with half a quantum
(0 exact, 1 below, 2 equal, 3 above); `more` says that the exact value lies above m * 2^e by less than one unit of m. -/
def quantize (m : Nat) (e q : Int) (more : Bool) : Nat × Nat :=
  if q ≤ e then (m * 2 ^ (e - q).toNat, if more then 1 else 0)
  else
    let sh := (q - e).toNat
    let r := m % 2 ^ sh
    let half := 2 ^ (sh - 1)
    (m / 2 ^ sh,
      if r = 0 then (if more then 1 else 0)
      else if r < half then 1
      else if r = half then (if more then 3 else 2)
      else 3)

/-- One step up or not, by mode (Table 8.6). -/
def roundUp (mode : RMode) (neg : Bool) (n rest : Nat) : Nat :=
  match mode with
  | .rne => if rest = 3 || (rest = 2 && n % 2 = 1) then n + 1 else n
  | .rtz => n
  | .rdn => if rest ≠ 0 && neg then n + 1 else n
  | .rup => if rest ≠ 0 && !neg then n + 1 else n

/-- Result of an overflow (Table 8.7), as a code without its sign. -/
def FFmt.overflow (f : FFmt) (mode : RMode) (sat neg : Bool) : Nat :=
  if sat || mode == .rtz || (mode == .rdn && !neg) || (mode == .rup && neg) then f.maxFin
  else if f.hasInf then (2 ^ f.eb - 1) * 2 ^ f.mb
  else if f.hasNan then f.qnan
  else f.maxFin

/-- A code with its sign. -/
def FFmt.signed (f : FFmt) (neg : Bool) (c : Nat) : Nat := if neg then c + 2 ^ (f.eb + f.mb) else c

/-- Rounds (-1)^neg * m * 2^e, or a value above it by less than one unit of m, to a code (R233-R235). -/
def FFmt.roundMag (f : FFmt) (mode : RMode) (sat neg : Bool) (m : Nat) (e : Int) (more : Bool) : Nat × BitVec 6 :=
  if m = 0 && !more then (f.signed neg 0, 0)
  else
    let top : Int := e + (Nat.log2 m : Nat)
    let q := top - f.mb
    let emin : Int := 1 - (f.bias : Int)
    let (n0, r0) := quantize m e q more
    let tiny := q + f.mb < emin && (roundUp mode neg n0 r0 < 2 ^ (f.mb + 1) || top + 1 < emin)
    let q' := max q (emin - f.mb)
    let (n, r) := quantize m e q' more
    let n := roundUp mode neg n r
    let code := (if n < 2 ^ f.mb then n
      else ((q' - (emin - f.mb)).toNat) * 2 ^ f.mb + n)
    if f.maxFin < code then (f.signed neg (f.overflow mode sat neg), flagOF ||| flagNX)
    else (f.signed neg code, flagIf (r ≠ 0) flagNX ||| flagIf (r ≠ 0 && tiny) flagUF)

/-- round(x, fmt, mode, sat) of Table 8.8. -/
def FFmt.round (f : FFmt) (mode : RMode) (sat : Bool) : FVal → Nat × BitVec 6
  | .nan sig => if f.hasNan then (f.qnan, flagIf sig flagNV) else (0, flagNV)
  | .inf neg =>
    if f.hasInf then (f.signed neg ((2 ^ f.eb - 1) * 2 ^ f.mb), 0)
    else (f.signed neg (f.overflow mode sat neg), flagOF ||| flagNX)
  | .fin neg m e => f.roundMag mode sat neg m e false

/-- Product of exact values (R236). -/
def FVal.mul : FVal → FVal → FVal × BitVec 6
  | .nan a, .nan b => (.nan false, flagIf (a || b) flagNV)
  | .nan a, _ => (.nan false, flagIf a flagNV)
  | _, .nan b => (.nan false, flagIf b flagNV)
  | .inf a, .inf b => (.inf (a != b), 0)
  | .inf a, .fin b m _ => if m = 0 then (.nan false, flagNV) else (.inf (a != b), 0)
  | .fin a m _, .inf b => if m = 0 then (.nan false, flagNV) else (.inf (a != b), 0)
  | .fin a m e, .fin b n d => (.fin (a != b) (m * n) (e + d), 0)

/-- Sum of exact values (R235, R236): an exact zero sum is +0 unless both terms are -0. -/
def FVal.add : FVal → FVal → FVal × BitVec 6
  | .nan a, .nan b => (.nan false, flagIf (a || b) flagNV)
  | .nan a, _ => (.nan false, flagIf a flagNV)
  | _, .nan b => (.nan false, flagIf b flagNV)
  | .inf a, .inf b => if a == b then (.inf a, 0) else (.nan false, flagNV)
  | .inf a, .fin .. => (.inf a, 0)
  | .fin .., .inf b => (.inf b, 0)
  | .fin a m e, .fin b n d =>
    let q := min e d
    let x : Int := (if a then -1 else 1) * (m * 2 ^ (e - q).toNat : Nat)
    let y : Int := (if b then -1 else 1) * (n * 2 ^ (d - q).toNat : Nat)
    let z := x + y
    if z = 0 then (.fin (a && b && m == 0 && n == 0) 0 0, 0) else (.fin (z < 0) z.natAbs q, 0)

/-- Negation. -/
def FVal.neg : FVal → FVal
  | .nan s => .nan s
  | .inf a => .inf (!a)
  | .fin a m e => .fin (!a) m e

/-- The value is a NaN, and a signalling one. -/
def FVal.isNan : FVal → Bool
  | .nan _ => true
  | _ => false
def FVal.isSig : FVal → Bool
  | .nan s => s
  | _ => false

/-- Order of two numbers that are no NaN: -1, 0 or 1; `zeros` orders -0 below +0 (R223). -/
def FVal.cmp (zeros : Bool) : FVal → FVal → Int
  | .inf a, .inf b => if a == b then 0 else if a then -1 else 1
  | .inf a, _ => if a then -1 else 1
  | _, .inf b => if b then 1 else -1
  | .fin a m e, .fin b n d =>
    let q := min e d
    let x : Int := (if a then -1 else 1) * (m * 2 ^ (e - q).toNat : Nat)
    let y : Int := (if b then -1 else 1) * (n * 2 ^ (d - q).toNat : Nat)
    if x < y then -1 else if y < x then 1
    else if zeros && m == 0 && n == 0 then (if a == b then 0 else if a then -1 else 1)
    else 0
  | _, _ => 0

/-- A word as an FP32 value. -/
def dec32 (w : Word) : FVal := fp32.decode w.toNat

/-- rne32 of a value with the flags of forming it (Table 8.8). -/
def rne32 (p : FVal × BitVec 6) : Word × BitVec 6 :=
  let (c, f) := fp32.round .rne false p.1
  (BitVec.ofNat 32 c, p.2 ||| f)

/-- FP32 sum, product and fused sum a * b + c, each rounded once (R243). -/
def f32Add (a b : Word) : Word × BitVec 6 := rne32 ((dec32 a).add (dec32 b))
def f32Sub (a b : Word) : Word × BitVec 6 :=
  let y := dec32 b
  let (v, f) := (dec32 a).add y.neg
  rne32 (v, f)
def f32Mul (a b : Word) : Word × BitVec 6 := rne32 ((dec32 a).mul (dec32 b))
def f32Fma (negP negC : Bool) (a b c : Word) : Word × BitVec 6 :=
  let (p, f) := (dec32 a).mul (dec32 b)
  let p := if negP then p.neg else p
  let c := if negC then (dec32 c).neg else dec32 c
  let (v, g) := p.add c
  rne32 (v, f ||| g)

/-- Minimum or maximum of two codes of a format (R236): -0 below +0, canonical NaN when either is a NaN. -/
def FFmt.minMax (f : FFmt) (max : Bool) (a b : Nat) : Nat × BitVec 6 :=
  let x := f.decode a
  let y := f.decode b
  if x.isNan || y.isNan then (f.qnan, flagIf (x.isSig || y.isSig) flagNV)
  else
    let c := FVal.cmp true x y
    ((if max then (if c < 0 then b else a) else (if c ≤ 0 then a else b)), 0)

/-- FP32 minimum and maximum. -/
def f32MinMax (max : Bool) (a b : Word) : Word × BitVec 6 :=
  let (c, f) := fp32.minMax max a.toNat b.toNat
  (BitVec.ofNat 32 c, f)

/-- Floating compare of condition code 6-9 (Tables 12.5 and 14.6). -/
def floatTest (code : Nat) (a v : Word) : Bool × BitVec 6 :=
  let x := dec32 a
  let y := dec32 v
  let nan := x.isNan || y.isNan
  let sig := x.isSig || y.isSig
  let c := FVal.cmp false x y
  match code with
  | 6 => (!nan && c == 0, flagIf sig flagNV)
  | 7 => (!nan && c < 0, flagIf nan flagNV)
  | 8 => (!nan && c ≤ 0, flagIf nan flagNV)
  | _ => (nan, flagIf sig flagNV)

/-- cvt_int(x, w, mode) of Table 8.8: rounds, saturates with NV (R237). -/
def cvtInt (w : Nat) (mode : RMode) : FVal → Int × BitVec 6
  | .nan _ => (0, flagNV)
  | .inf neg => (if neg then -(2 ^ (w - 1)) else 2 ^ (w - 1) - 1, flagNV)
  | .fin neg m e =>
    let (n, r) := quantize m e 0 false
    let n := roundUp mode neg n r
    let i : Int := if neg then -(n : Int) else n
    let (j, f) := satInt w i
    if f = 0 then (j, flagIf (r ≠ 0) flagNX) else (j, flagNV)

/-- Sign-extended low w bits. -/
def sextNat (w n : Nat) : Int :=
  let k := n % 2 ^ w
  if 2 ^ (w - 1) ≤ k then (k : Int) - 2 ^ w else k

/-! ## OX4 and block scales (R228-R232) -/

/-- decode_ox4_block over nibbles from index i (R229): the values and whether a marker lay beyond B - 3. -/
def decodeOx4 (B : Nat) : Nat → List Nat → List FVal × Bool
  | _, [] => ([], false)
  | i, n :: t =>
    if n ≠ 8 then
      let (vs, mal) := decodeOx4 B (i + 1) t
      (FVal.ofInt (sextNat 4 n) :: vs, mal)
    else if i + 3 ≤ B then
      match t with
      | a :: b :: u =>
        let (vs, mal) := decodeOx4 B (i + 3) u
        (e4m3.decode (a * 16 + b) :: .fin false 0 0 :: .fin false 0 0 :: vs, mal)
      | _ => ([], false)
    else
      let (vs, _) := decodeOx4 B (i + 1) t
      (.fin false 0 0 :: vs, true)

/-- decode_scale (R230-R232): value, tag, and NV for a word with reserved bits set. -/
def decodeScale (w : Nat) (ue8m1 : Bool) : FVal × Nat × BitVec 6 :=
  let tag := bits w 10 9
  let c := bits w 8 0
  if bits w 15 11 ≠ 0 then (.nan false, tag, flagNV)
  else if ue8m1 then
    let e := c / 2
    let m := c % 2
    if c == 0x1FF then (.nan false, tag, 0)
    else if e = 0 then (.fin false m (-127), tag, 0)
    else (.fin false (2 + m) ((e : Int) - 128), tag, 0)
  else
    let neg := c / 256 == 1
    let e := c / 8 % 32
    let m := c % 8
    if e == 31 then (if m = 0 then .inf neg else .nan false, tag, 0)
    else if e = 0 then (.fin neg m (-17), tag, 0)
    else (.fin neg (8 + m) ((e : Int) - 18), tag, 0)

end Sys2Proof.Machine
end

