-- ==== Sys2Proof/Machine/Special.lean ====
section
/-!
DEFINITION. Special functions (R244): each returns the correctly rounded value. Irrational values are computed in
fixed point with 200 fractional bits; what lies below is carried as "more" into the one rounding function.
-/

namespace Sys2Proof.Machine

/-- Fractional bits of the fixed-point values. (DEDUCED, log 29.) -/
def fxBits : Nat := 200
/-- One, ln 2 and pi in fixed point, rounded down. -/
def fxOne : Int := 2 ^ 200
def fxLn2 : Int := 0xb17217f7d1cf79abc9e3b39803f2f6af40f343267298b62d8a
def fxPi : Int := 0x3243f6a8885a308d313198a2e03707344a4093822299f31d008

/-- Product of fixed-point values, rounded down. -/
def fxMul (a b : Int) : Int := a * b / fxOne

/-- Integer square root by n binary digits: the largest r with r * r ≤ v below 2^n. -/
def isqrtBits (v : Nat) : Nat → Nat → Nat
  | 0, r => r
  | n + 1, r =>
    let r' := r + 2 ^ n
    isqrtBits v n (if r' * r' ≤ v then r' else r)

/-- Integer square root. -/
def isqrt (v : Nat) : Nat := isqrtBits v (Nat.log2 v / 2 + 1) 0

/-- Sum of a Taylor series: the term is multiplied by y and divided by the product of the next `step` integers. -/
def taylor (y : Int) (step : Nat) : Nat → Nat → Int → Int → Int
  | 0, _, _, acc => acc
  | fuel + 1, k, term, acc =>
    let d : Nat := if step = 2 then (k + 1) * (k + 2) else k + 1
    let t := fxMul term y / (d : Int)
    taylor y step fuel (k + step) t (acc + t)

/-- e^y for 0 ≤ y < 1 in fixed point. (DEDUCED, log 29.) -/
def fxExp (y : Int) : Int := taylor y 1 60 0 fxOne fxOne

/-- cos and sin of |r| ≤ 1 in fixed point. (DEDUCED, log 29.) -/
def fxCos (r : Int) : Int := taylor (-(fxMul r r)) 2 30 0 fxOne fxOne
def fxSin (r : Int) : Int := taylor (-(fxMul r r)) 2 30 1 r r

/-- m * 2^e in fixed point, rounded down. -/
def toFx (m : Nat) (e : Int) : Int :=
  if 0 ≤ e + 200 then (m : Int) * 2 ^ (e + 200).toNat else (m : Int) / 2 ^ (-(e + 200)).toNat

/-- FP32 code of a fixed-point value that is not exact. -/
def roundFx (neg : Bool) (v : Int) (e : Int) : Nat × BitVec 6 :=
  let neg' := if v < 0 then !neg else neg
  fp32.roundMag .rne false neg' v.natAbs (e - 200) true

/-- The multiple of pi/2 nearest to x, and what remains. -/
def reducePi (x : Int) : Int × Int :=
  let h := fxPi / 2
  let k := (2 * x + h) / (2 * h)
  (k, x - k * fxPi / 2)

/-- sin of (-1)^neg * m * 2^e, or cos, for a non-zero argument within range. (DEDUCED, log 29.) -/
def trig (cosine neg : Bool) (m : Nat) (e : Int) : Nat × BitVec 6 :=
  let (k, r) := reducePi (toFx m e)
  let q := (if cosine then k + 1 else k) % 4
  let v := if q = 0 then fxSin r else if q = 1 then fxCos r else if q = 2 then -(fxSin r) else -(fxCos r)
  roundFx (if cosine then false else neg) v 0

/-- vsin and vcos (Table 8.9). -/
def f32Trig (cosine : Bool) (w : Word) : Word × BitVec 6 :=
  match dec32 w with
  | .nan sig => (0x7FC00000, flagIf sig flagNV)
  | .inf _ => (0x7FC00000, flagRNG)
  | .fin neg m e =>
    if m = 0 then (if cosine then (0x3F800000, 0) else (w, 0))
    else if 0x47800000 < w.toNat % 0x80000000 then (0x7FC00000, flagRNG)
    else
      let (c, f) := trig cosine neg m e
      (BitVec.ofNat 32 c, f)

/-- vexp2 (Table 8.9): 2^i is exact; otherwise 2^i * e^(f ln 2). (DEDUCED, log 29.) -/
def f32Exp2 (w : Word) : Word × BitVec 6 :=
  match dec32 w with
  | .nan sig => (0x7FC00000, flagIf sig flagNV)
  | .inf neg => (if neg then 0 else 0x7F800000, 0)
  | .fin neg m e =>
    let p : Nat × BitVec 6 :=
      if m = 0 then (0x3F800000, 0)
      else if 10 ≤ e + (Nat.log2 m : Nat) then fp32.roundMag .rne false false 1 (if neg then -1000 else 1000) false
      else
        let x := (if neg then -1 else 1) * toFx m e
        let i := x / fxOne
        let f := x % fxOne
        if f = 0 then fp32.roundMag .rne false false 1 i false
        else roundFx false (fxExp (fxMul f fxLn2)) i
    (BitVec.ofNat 32 p.1, p.2)

/-- n binary digits of log2 of a value in [1, 2) with 400 fractional bits. -/
def log2Digits : Nat → Int → Int → Int
  | 0, _, acc => acc
  | n + 1, y, acc =>
    let z := y * y / 2 ^ 400
    if 2 ^ 401 ≤ z then log2Digits n (z / 2) (2 * acc + 1) else log2Digits n z (2 * acc)

/-- vlog2 (Table 8.9): exact for powers of two. (DEDUCED, log 29.) -/
def f32Log2 (w : Word) : Word × BitVec 6 :=
  match dec32 w with
  | .nan sig => (0x7FC00000, flagIf sig flagNV)
  | .inf neg => if neg then (0x7FC00000, flagNV) else (0x7F800000, 0)
  | .fin neg m e =>
    if m = 0 then (0xFF800000, 0)
    else if neg then (0x7FC00000, flagNV)
    else
      let l := Nat.log2 m
      let i : Int := e + (l : Nat)
      let p : Nat × BitVec 6 :=
        if m = 2 ^ l then fp32.round .rne false (FVal.ofInt i)
        else
          let v := i * 2 ^ 160 + log2Digits 160 ((m : Int) * 2 ^ (400 - l)) 0
          let neg' := v < 0
          fp32.roundMag .rne false neg' (if v < 0 then (-v).toNat - 1 else v.toNat) (-160) true
      (BitVec.ofNat 32 p.1, p.2)

/-- vrcp (Table 8.9). (DEDUCED, log 29.) -/
def f32Rcp (w : Word) : Word × BitVec 6 :=
  match dec32 w with
  | .nan sig => (0x7FC00000, flagIf sig flagNV)
  | .inf neg => (if neg then 0x80000000 else 0, 0)
  | .fin neg m e =>
    if m = 0 then (if neg then 0xFF800000 else 0x7F800000, 0)
    else
      let (c, f) := fp32.roundMag .rne false neg (2 ^ 80 / m) (-80 - e) (2 ^ 80 % m ≠ 0)
      (BitVec.ofNat 32 c, f)

/-- vsqrt (Table 8.9): the root of m * 2^e with e made even and m widened. (DEDUCED, log 29.) -/
def f32Sqrt (w : Word) : Word × BitVec 6 :=
  match dec32 w with
  | .nan sig => (0x7FC00000, flagIf sig flagNV)
  | .inf neg => if neg then (0x7FC00000, flagNV) else (0x7F800000, 0)
  | .fin neg m e =>
    if m = 0 then (w, 0)
    else if neg then (0x7FC00000, flagNV)
    else
      let m' := if e % 2 = 0 then m * 2 ^ 60 else m * 2 ^ 61
      let e' := if e % 2 = 0 then e - 60 else e - 61
      let r := isqrt m'
      let (c, f) := fp32.roundMag .rne false false r (e' / 2) (r * r ≠ m')
      (BitVec.ofNat 32 c, f)

/-- vrsqrt (Table 8.9): the root of 2^200 / m, with e made even. (DEDUCED, log 29.) -/
def f32Rsqrt (w : Word) : Word × BitVec 6 :=
  match dec32 w with
  | .nan sig => (0x7FC00000, flagIf sig flagNV)
  | .inf neg => if neg then (0x7FC00000, flagNV) else (0, 0)
  | .fin neg m e =>
    if m = 0 then (if neg then 0xFF800000 else 0x7F800000, 0)
    else if neg then (0x7FC00000, flagNV)
    else
      let m' := if e % 2 = 0 then m else 2 * m
      let e' := if e % 2 = 0 then e else e - 1
      let r := isqrt (2 ^ 200 / m')
      let (c, f) := fp32.roundMag .rne false false r (-100 - e' / 2) (r * r * m' ≠ 2 ^ 200)
      (BitVec.ofNat 32 c, f)

end Sys2Proof.Machine
end

