-- ==== Sys2Proof/Syntax.lean ====
section
/-!
DEFINITION. The syntax of the machine: one constructor of `Instr` for every row of spec/opcode_table.json.
Rows with an encoding are slots of a bundle (R288, Table 11.1); the other rows are whole, indivisible steps of the
machine (95_what_each_step_holds.md), whose arguments name where the step happens or carry what arrives from
outside the device.
-/

namespace Sys2Proof

/-- The fields G, E, H and S that every move slot carries (R288, Table 11.1). -/
structure Mv where
  /-- G: 0 always, 1-6 a guard (7 marks a carrier slot, which is no move). -/
  g : BitVec 3
  /-- E: empty policy of the source read (R51). -/
  e : Bool
  /-- H: hold on an operand-port write (R55). -/
  h : Bool
  /-- S: source port. -/
  s : BitVec 9
  deriving DecidableEq, Repr

/-- A flit as it stands on a link: header in clear, payload and tag (R270). -/
structure Flit where
  header  : BitVec 128
  payload : List Byte
  tag     : BitVec 128
  deriving DecidableEq, Repr

/-- A queue pair of a host port (R261). -/
structure QpId where
  port : BitVec 2
  qpn  : BitVec 24
  deriving DecidableEq, Repr

/-- What the host answers to an RDMA access of the device (R263). -/
inductive HostResponse where
  | readData (data : List Byte)
  | ack
  | nak
  deriving DecidableEq, Repr

/-- What a RECAL command recalibrates (R285, Table 10.7). -/
inductive RecalItem where
  | link (n : Nat)
  | core (c : Nat)
  | hbm (stack : Nat) (channel : Nat)
  deriving DecidableEq, Repr

/-- The counter that a corrected error raises (R218, Table 7.2). -/
inductive CorrectedAt where
  | sram (core : Nat)
  | istore (core : Nat)
  | hbm (stack : Nat)
  deriving DecidableEq, Repr

/-- Where an uncorrectable error is found (R260, Table 9.6). -/
inductive ErrorPlace where
  | istoreFetch (core ctx : Nat)
  | sliceWord (addr : Nat)
  | masRow (core row : Nat)
  | phaseLine (core tag : Nat)
  | imageSave (core : Nat)
  | hbmByte (pa : Nat)
  deriving DecidableEq, Repr

/-- The instructions, one constructor per row of spec/opcode_table.json: first the steps of the machine, then the slots.
(DESIGN CHOICE, log 6.) -/
inductive Instr where
  /-- MODULE_RESET (R281). A module reset puts the Sill in ROM and resets every item to its reset value. -/
  | moduleReset
  /-- SILL_FIRMWARE_VERIFY (R281). The boot ROM finishes verifying the Sill firmware and the Sill enters BRINGUP, or enters RECOVERY and sends FW.ERR. -/
  | sillFirmwareVerify (image : List Byte)
  /-- BRINGUP_COMPLETE (R15). Bring-up ends, the Sill enters READY, the host ports come up and the session state is SCRUBBED. -/
  | bringupComplete (fabid : BitVec 11)
  /-- IDENT (R284). The Sill answers the IDENT management command. -/
  | identCmd
  /-- STATUS (R284). The Sill answers the STATUS management command. -/
  | statusCmd
  /-- OPEN (R264). The Sill checks a session descriptor and opens a session, or answers BUSY or BADOPEN. -/
  | openCmd (desc : List Byte)
  /-- CLOSE (R15). A close command moves the session to CLOSING, halting contexts and discarding engine queues. -/
  | closeCmd
  /-- SCRUB (R16). The scrub command starts clearing the session's state. -/
  | scrubCmd
  /-- RECORDS (R266). The Sill returns the last 256 records it holds. -/
  | recordsCmd
  /-- ATTEST (R283). The Sill returns a report signed by its identity key over a 32 B nonce. -/
  | attestCmd (nonce : List Byte)
  /-- FWUPD (R282). The Sill verifies a firmware image and installs it or refuses it with FW.ERR. -/
  | fwupd (image : List Byte)
  /-- SVNCOMMIT (R282). The fused minimum SVN is raised to the running image's SVN. -/
  | svncommit (ikind : Nat)
  /-- RECAL (R285). A live recalibration of a link or core is started. -/
  | recalCmd (item : RecalItem)
  /-- DRAIN (R177). The Sill drains a core for service, to be taken out of service once its move takes effect. -/
  | drainCmd (core : Nat)
  /-- UNDRAIN (R285). The Sill returns a drained core, clock locked again, to service. -/
  | undrainCmd (core : Nat)
  /-- READCNT (R218). The Sill returns the error counters. -/
  | readcnt
  /-- SESSION_CLOSING_END (R276). Once every sent remote operation has committed, been acknowledged or become unreachable, CLOSING ends and SCRUBBING begins. -/
  | sessionClosingEnd
  /-- SCRUB_COMPLETE (R16). The scrub finishes clearing S-space, tables, TLBs and HBM, and the session state becomes SCRUBBED. -/
  | scrubComplete
  /-- WORK_RING_POLL (R153). Every 32 cy the poller visits the next enabled ring, reads TAIL, takes up to four requests and writes HEAD. -/
  | workRingPoll
  /-- NOP_REQUEST (R155). A NOP work request is taken and completes OK if CQ is set. -/
  | nopRequest (ring : Nat)
  /-- UNKNOWN_REQUEST (R155). A work request of TYPE 0x04-0xFF is taken and completes BADREQ. -/
  | unknownRequest (ring : Nat)
  /-- KLAUNCH (R18). A KLAUNCH request is taken when no kernel is LOADING or RUNNING, and the kernel enters LOADING. -/
  | klaunch (ring : Nat)
  /-- KERNEL_LOAD_COMPLETE (R18). The code image and tables are in every in-service core and the kernel enters RUNNING. -/
  | kernelLoadComplete
  /-- TASK_REQUEST (R155). A TASK request is taken, its TOPB read and judged, and the task posted or refused. -/
  | taskRequest (ring : Nat)
  /-- CLOSE_REQUEST (R21). A CLOSE request marks a source stage CLOSED or completes with an error status. -/
  | closeRequest (ring : Nat)
  /-- TASK_FORM (R27). The dispatcher pops the head entry of a stage's INQ0 and forms, checks and bins a task from the stage's template. -/
  | taskForm (stage : Nat)
  /-- DISPATCHER_BIN_DRAIN (R171). The dispatcher moves the tasks of a bin into their stages' expansion sets as EXPANDED. -/
  | dispatcherBinDrain
  /-- TILE_STEP_PLACE (R172). The dispatcher places a PENDING tile step on an IDLE context of its stage and initialises the context. -/
  | tileStepPlace
  /-- GANG_PLACE (R35). The dispatcher places every member of a gang instance at once when every group fits. -/
  | gangPlace
  /-- TILE_STEP_RETIRE (R32). A tile step whose task.done has issued retires once its engine commands are accepted, and its context becomes IDLE. -/
  | tileStepRetire (core : Nat) (ctx : Nat)
  /-- TRUSS_BALANCE (R177). At each balancing boundary the Truss classes stages and moves up to 8 cores per die. -/
  | trussBalance (die : Nat)
  /-- OCCUPANCY_SAMPLE (R175). Every 256 cy the queue unit adds each queue's clipped occupancy to OCCACC. -/
  | occupancySample
  /-- CORE_MOVE_TAKE_EFFECT (R22). A pending core move takes effect once every context of the core is at a tile-step boundary. -/
  | coreMoveTakeEffect (core : Nat)
  /-- BUNDLE_ISSUE (R56). A bundle reads all sources, writes all destinations, fires its triggers in slot order and advances CCYC. -/
  | bundleIssue (core : Nat) (only : Option Nat)
  /-- DOVETAIL_SEAT (R178). A free Dovetail seat goes to the context READY the longest. -/
  | dovetailSeat (core : Nat)
  /-- DOVETAIL_ROTATION (R179). A context unseated for 1,024 cycles forces the longer-seated context out after its next bundle. -/
  | dovetailRotation (core : Nat)
  /-- DOVETAIL_ROLE_SWAP (R181). After 256 consecutive refusals the secondary issues as primary for one bundle. -/
  | dovetailRoleSwap (core : Nat)
  /-- FREEZE_CYCLE (R78). When the 32-cycle weight sum exceeds PWRLIM.LIMIT the next cycle is a freeze cycle and FRZCNT rises. -/
  | freezeCycle (core : Nat)
  /-- LONG_LATENCY_ARRIVAL (R50). A long-latency value arrives, is written into its register and sets the full/empty bit full. -/
  | longLatencyArrival (core : Nat) (ctx : Nat) (idx : Nat)
  /-- TRAP_DELIVERY (R249). A pending cause is delivered: TRAP registers are written, the user plane freezes and the system plane starts at bundle 0. -/
  | trapDelivery (core : Nat) (ctx : Nat)
  /-- TIMER_EXPIRY (R344). When CYCLE reaches the armed deadline, TIMER becomes pending and the timer disarms. -/
  | timerExpiry (core : Nat) (ctx : Nat)
  /-- K_CHUNK_DRAIN (R410). At a K-chunk boundary after a request the cells drain A into the MAS and mark the rows P. -/
  | kChunkDrain (core : Nat)
  /-- IMAGE_SAVE_COMPLETE (R253). Once the affected contexts have quiesced, the core writes its image and the tile steps become PREEMPTED. -/
  | imageSaveComplete (core : Nat)
  /-- ECC_CORRECTED (R218). A corrected single-bit error raises its counter. -/
  | eccCorrected (unit : CorrectedAt)
  /-- ECC_UNCORRECTABLE (R260). An uncorrectable error poisons data or ends the consuming context with ECC.UNCORR. -/
  | eccUncorrectable (place : ErrorPlace)
  /-- PHASE_OPEN (R122). When every member core has arrived, the group drains its phase write buffers and opens the next phase. -/
  | phaseOpen (core : Nat)
  /-- ENGINE_COMMAND_ACCEPT (R157). A unit accepts the command at the head of a context's queue, round-robin, at most one per cycle. -/
  | engineCommandAccept (core : Nat) (unit : Nat)
  /-- COPY_ELIGIBLE (R160). A copy command becomes eligible when CYCLE reaches its effective time. -/
  | copyEligible (core : Nat) (ch : Nat) (id : BitVec 32)
  /-- COPY_PIECE (R161). A free copy engine performs a piece of up to 4 KiB of the eligible command with the smallest effective time. -/
  | copyPiece (die : Nat) (engine : Nat)
  /-- COPY_COMPLETE (R138). A command completes, TDONE advances and a named barrier word's PEND is reduced. -/
  | copyComplete (core : Nat) (ch : Nat) (id : BitVec 32)
  /-- TLB_WALK (R105). A TLB miss is walked by the walk units and the leaf or a fault returns to the requesting die. -/
  | tlbWalk (die : Nat) (va : BitVec 64)
  /-- STREAM_ARRIVAL (R142). A remote operation whose flits have all arrived is judged by its sequence number and committed, held, refused or discarded. -/
  | streamArrival (idx : Nat)
  /-- REFUSED_RESEND (R168). A refused arrival is resent by its copy engine 256 ns after the refusal. -/
  | refusedResend (idx : Nat)
  /-- COMMIT_ACKNOWLEDGEMENT (R420). A commit acknowledgement reaches the source, completing the command and clearing STRFENCE when last. -/
  | commitAcknowledgement (idx : Nat)
  /-- READ_REQUEST (R427). A remote read request is served at the destination from its translated page. -/
  | readRequest (idx : Nat)
  /-- READ_DATA (R427). Remote read data arrives at the source and is written locally or lands in DST. -/
  | readData (idx : Nat)
  /-- COLLECTIVE_CONTRIBUTION (R170). A ring sequencer judges a collective contribution by its tag and adds, discards or refuses it. -/
  | collectiveContribution (idx : Nat)
  /-- SETUP_CONTRIBUTION (R468). A ring member in SETUP forwards, discards or refuses a setup contribution and leaves SETUP when complete. -/
  | setupContribution (idx : Nat)
  /-- CHANNEL_ELEMENT (R474). A channel element is delivered to the mirroring receive end, written into BUF and RTAIL raised. -/
  | channelElement (idx : Nat)
  /-- CHANNEL_CREDIT (R169). A returned credit reaches the send end and raises CREDIT. -/
  | channelCredit (idx : Nat)
  /-- OPERATION_UNREACHABLE (R276). A remote operation not committed or accepted 50 ms after its first flit ends its context with REMOTE.ERR. -/
  | operationUnreachable (idx : Nat)
  /-- DATA_FLIT_SEND (R273). A DATA flit is sent under the ACTIVE slot when its virtual channel holds an allowance. -/
  | dataFlitSend (link : Nat)
  /-- IDLE_FLIT_SEND (R463). An UP link sends an IDLE flit after 1,024 cy without sending. -/
  | idleFlitSend (link : Nat)
  /-- DATA_FLIT (R273). A received DATA flit is authenticated, its buffer freed and its payload passed to the arrival port. -/
  | dataFlit (link : Nat) (flit : Flit)
  /-- ACK (R273). A cumulative ACK frees covered flits from the retry buffer. -/
  | ack (link : Nat) (flit : Flit)
  /-- RETRYREQ (R273). The sender resends from the requested LSEQ in order, each flit under a new IC. -/
  | retryreq (link : Nat) (flit : Flit)
  /-- CREDIT_FLIT (R273). A CREDIT flit returns freed allowances of one virtual channel. -/
  | creditFlit (link : Nat) (flit : Flit)
  /-- KEYMARK (R278). A receiver accepting a KEYMARK under one slot sets its other receive slot EMPTY. -/
  | keymark (link : Nat) (flit : Flit)
  /-- DRAIN_FLIT (R279). A peer end accepting a DRAIN flit while UP enters DRAINING and sends its own DRAIN. -/
  | drainFlit (link : Nat) (flit : Flit)
  /-- HELLO (R272). A HELLO flit in TRAINING reports the peer's fabric ID and link number. -/
  | hello (link : Nat) (flit : Flit)
  /-- UNKNOWN_FLIT (R270). A flit of KIND 0x08-0xFF is discarded, counted in AUTHFAIL and retried. -/
  | unknownFlit (link : Nat) (flit : Flit)
  /-- LINK_LOCK_LOSS (R274). Loss of lock on an UP or DRAINING link takes it DOWN. -/
  | linkLockLoss (link : Nat)
  /-- LINK_SILENCE_TIMEOUT (R274). No flit arriving for 2 us takes an UP or DRAINING link DOWN. -/
  | linkSilenceTimeout (link : Nat)
  /-- RDMA_WRITE (R262). A host RDMA WRITE is translated, checked and performed in HBM, or NAKed. -/
  | rdmaWrite (q : QpId) (key : BitVec 32) (va : BitVec 64) (data : List Byte)
  /-- RDMA_READ (R262). A host RDMA READ is translated, checked and served, or NAKed. -/
  | rdmaRead (q : QpId) (key : BitVec 32) (va : BitVec 64) (len : Nat)
  /-- RDMA_INVALID_REQUEST (R261). A RoCEv2 request of an unsupported opcode gets a NAK and the queue pair enters the error state. -/
  | rdmaInvalidRequest (q : QpId)
  /-- THERMAL_LIMIT_STEP (R286). Each 1 ms above 100 C the Sill lowers every PWRLIM by 1/8. -/
  | thermalLimitStep
  /-- THERMAL_SHUTDOWN (R286). At 110 C the module shuts down and sends FW.ERR to the management port. -/
  | thermalShutdown
  /-- LOADER_FILL_BEGIN (R201). The loader begins filling the next EMPTY tile of a ring, or clears SUB when its stream is exhausted. -/
  | loaderFillBegin (core : Nat) (ring : Nat)
  /-- TILE_FILL_COMPLETE (R200). A fill completes, the tile becomes READY and EPOCH rises. -/
  | tileFillComplete (core : Nat) (tile : Nat)
  /-- STORER_DRAIN_COMPLETE (R433). The storer finishes draining a tile to its stream position and the tile becomes EMPTY. -/
  | storerDrainComplete (core : Nat) (tile : Nat)
  /-- TILE_RELEASE_EFFECT (R202). A pending tile.rel takes effect when no accepted operation holds the tile. -/
  | tileReleaseEffect (core : Nat) (tile : Nat)
  /-- OVERFLOW_REFILL (R164). The overflow engine copies the oldest ring entry into a free slot. -/
  | overflowRefill (queue : Nat)
  /-- ARRAY_PASS_DUE (R400). An array pass reaches its due point and writes its result into the MAS. -/
  | arrayPassDue (core : Nat)
  /-- MSTART_G_BEGIN (R411). All members' matching mstart.g commands at their queue heads begin together in the next CYCLE. -/
  | mstartGBegin (core : Nat)
  /-- EPILOGUE_COMPLETE (R413). An me command writes its last row and completes. -/
  | epilogueComplete (core : Nat)
  /-- RELEASE_COMPLETE (R131). A waiting release completes once its earlier accesses are performed and the context issues again. -/
  | releaseComplete (core : Nat) (ctx : Nat)
  /-- REFERENCE_CLOCK_CYCLE (R208). Each period of the 3.0 GHz reference clock advances CYCLE and the per-cycle counts and tests that depend on it. -/
  | referenceClockCycle
  /-- MESH_STORE_PERFORMED (R129). A plain store to IMMEDIATE memory of another slice is performed at that slice's bank after its mesh transfer of 20-60 cy. -/
  | meshStorePerformed (core : Nat) (ctx : Nat) (idx : Nat)
  /-- CE_COMMAND_DUE_POINT (R403). A ce command other than mstart (cprog, cflow, cskew, cld, cst, mzero) reaches its due point, writes its effect and lets the ce unit accept the next command. -/
  | ceCommandDuePoint (core : Nat)
  /-- IDLE_FLIT (R274). A received IDLE flit is authenticated under its key slot, advances RXIC and FLITRX and keeps the link alive. -/
  | idleFlit (link : Nat) (flit : Flit)
  /-- HOST_RDMA_RESPONSE (R263). A RoCEv2 read response, acknowledgement or NAK from the host arrives for an engine access to a host window, completing it or ending the issuing context with REMOTE.ERR. -/
  | hostRdmaResponse (q : QpId) (resp : HostResponse)
  /-- SILL_PREEMPTION_REQUEST (R252). The Sill issues a pre-emption request naming a core and image area, raising PREEMPT in its affected contexts. -/
  | sillPreemptionRequest (core : Nat) (areas : List (Nat × BitVec 64))
  /-- NOP (R289). A NOP slot does nothing. -/
  | nop (g : BitVec 3) (e : Bool) (h : Bool)
  /-- IMMEDIATE_CARRIER (R293). A carrier slot holds a 21-bit immediate for the bundle's IMM reads. -/
  | immediateCarrier (i : BitVec 21)
  /-- DISCARD_MOVE (R289). A move to port 0x000 reads its source, pops a queue it names, and drops the value. -/
  | discardMove (m : Mv)
  /-- MOVE (R292). A move copies a source port to a register, latch or guard, converting widths. -/
  | move (m : Mv) (d : BitVec 10)
  /-- QUEUE_PUSH (R436). A cluster-local move pushes a 64 B line with its lane mask into output queue k. -/
  | queuePush (m : Mv) (k : BitVec 2)
  /-- QUEUE_PUSH_SHARED (R436). A shared move pushes a line holding a 64-bit value into output queue k. -/
  | queuePushShared (m : Mv) (k : BitVec 2)
  /-- QUEUE_POP (R437). A cluster-local move pops the next line of input queue k's read entry. -/
  | queuePop (g : BitVec 3) (e : Bool) (h : Bool) (k : BitVec 2) (d : BitVec 10)
  /-- QUEUE_POP_SHARED (R437). A shared move pops the next line of input queue k and returns its bytes 0-7. -/
  | queuePopShared (g : BitVec 3) (e : Bool) (h : Bool) (k : BitVec 2) (d : BitVec 10)
  /-- QUEUE_PEEK (R437). A cluster-local move reads the line at the cursor of input queue k without consuming it. -/
  | queuePeek (g : BitVec 3) (e : Bool) (h : Bool) (k : BitVec 2) (d : BitVec 10)
  /-- QUEUE_PEEK_SHARED (R437). A shared move peeks input queue k's line and returns its bytes 0-7. -/
  | queuePeekShared (g : BitVec 3) (e : Bool) (h : Bool) (k : BitVec 2) (d : BitVec 10)
  /-- VADD (R374). va0 adds lanes modulo 2^32. -/
  | vadd (m : Mv)
  /-- VSUB (R374). va0 subtracts lanes modulo 2^32. -/
  | vsub (m : Mv)
  /-- VADDS (R374). va0 adds lanes with signed saturation. -/
  | vadds (m : Mv)
  /-- VSUBS (R374). va0 subtracts lanes with signed saturation. -/
  | vsubs (m : Mv)
  /-- VMIN (R374). va0 takes the signed lane minimum. -/
  | vmin (m : Mv)
  /-- VMAX (R374). va0 takes the signed lane maximum. -/
  | vmax (m : Mv)
  /-- VMINU (R374). va0 takes the unsigned lane minimum. -/
  | vminu (m : Mv)
  /-- VMAXU (R374). va0 takes the unsigned lane maximum. -/
  | vmaxu (m : Mv)
  /-- VAND (R374). va0 ANDs lanes. -/
  | vand (m : Mv)
  /-- VOR (R374). va0 ORs lanes. -/
  | vor (m : Mv)
  /-- VXOR (R374). va0 XORs lanes. -/
  | vxor (m : Mv)
  /-- VANDN (R374). va0 computes a AND NOT v per lane. -/
  | vandn (m : Mv)
  /-- VSHL (R374). va0 shifts lanes left. -/
  | vshl (m : Mv)
  /-- VSHR (R374). va0 shifts lanes right logically. -/
  | vshr (m : Mv)
  /-- VSRA (R374). va0 shifts lanes right arithmetically. -/
  | vsra (m : Mv)
  /-- VSEL (R374). va0 selects o1 or o2 per lane by the moved value. -/
  | vsel (m : Mv)
  /-- VCLZ (R374). va0 counts leading zeros per lane. -/
  | vclz (m : Mv)
  /-- VPOPC (R374). va0 counts 1 bits per lane. -/
  | vpopc (m : Mv)
  /-- VFADD (R375). va0 adds FP32 lanes with one RNE rounding. -/
  | vfadd (m : Mv)
  /-- VFSUB (R375). va0 subtracts FP32 lanes with one RNE rounding. -/
  | vfsub (m : Mv)
  /-- VFMIN (R375). va0 takes the FP32 lane minimum. -/
  | vfmin (m : Mv)
  /-- VFMAX (R375). va0 takes the FP32 lane maximum. -/
  | vfmax (m : Mv)
  /-- VFABS (R375). va0 clears the sign bit of each lane. -/
  | vfabs (m : Mv)
  /-- VFNEG (R375). va0 inverts the sign bit of each lane. -/
  | vfneg (m : Mv)
  /-- VADD_B (R374). va1 adds lanes modulo 2^32. -/
  | vaddB (m : Mv)
  /-- VSUB_B (R374). va1 subtracts lanes modulo 2^32. -/
  | vsubB (m : Mv)
  /-- VADDS_B (R374). va1 adds lanes with signed saturation. -/
  | vaddsB (m : Mv)
  /-- VSUBS_B (R374). va1 subtracts lanes with signed saturation. -/
  | vsubsB (m : Mv)
  /-- VMIN_B (R374). va1 takes the signed lane minimum. -/
  | vminB (m : Mv)
  /-- VMAX_B (R374). va1 takes the signed lane maximum. -/
  | vmaxB (m : Mv)
  /-- VMINU_B (R374). va1 takes the unsigned lane minimum. -/
  | vminuB (m : Mv)
  /-- VMAXU_B (R374). va1 takes the unsigned lane maximum. -/
  | vmaxuB (m : Mv)
  /-- VAND_B (R374). va1 ANDs lanes. -/
  | vandB (m : Mv)
  /-- VOR_B (R374). va1 ORs lanes. -/
  | vorB (m : Mv)
  /-- VXOR_B (R374). va1 XORs lanes. -/
  | vxorB (m : Mv)
  /-- VANDN_B (R374). va1 computes a AND NOT v per lane. -/
  | vandnB (m : Mv)
  /-- VSHL_B (R374). va1 shifts lanes left. -/
  | vshlB (m : Mv)
  /-- VSHR_B (R374). va1 shifts lanes right logically. -/
  | vshrB (m : Mv)
  /-- VSRA_B (R374). va1 shifts lanes right arithmetically. -/
  | vsraB (m : Mv)
  /-- VSEL_B (R374). va1 selects o1 or o2 per lane by the moved value. -/
  | vselB (m : Mv)
  /-- VCLZ_B (R374). va1 counts leading zeros per lane. -/
  | vclzB (m : Mv)
  /-- VPOPC_B (R374). va1 counts 1 bits per lane. -/
  | vpopcB (m : Mv)
  /-- VFADD_B (R375). va1 adds FP32 lanes with one RNE rounding. -/
  | vfaddB (m : Mv)
  /-- VFSUB_B (R375). va1 subtracts FP32 lanes with one RNE rounding. -/
  | vfsubB (m : Mv)
  /-- VFMIN_B (R375). va1 takes the FP32 lane minimum. -/
  | vfminB (m : Mv)
  /-- VFMAX_B (R375). va1 takes the FP32 lane maximum. -/
  | vfmaxB (m : Mv)
  /-- VFABS_B (R375). va1 clears the sign bit of each lane. -/
  | vfabsB (m : Mv)
  /-- VFNEG_B (R375). va1 inverts the sign bit of each lane. -/
  | vfnegB (m : Mv)
  /-- VCMP_EQ (R376). va0 compares lanes for integer equality into a guard pair. -/
  | vcmpEq (m : Mv) (p : BitVec 2)
  /-- VCMP_NE (R376). va0 compares lanes for integer inequality into a guard pair. -/
  | vcmpNe (m : Mv) (p : BitVec 2)
  /-- VCMP_LT (R376). va0 compares lanes signed less into a guard pair. -/
  | vcmpLt (m : Mv) (p : BitVec 2)
  /-- VCMP_LE (R376). va0 compares lanes signed less-or-equal into a guard pair. -/
  | vcmpLe (m : Mv) (p : BitVec 2)
  /-- VCMP_LTU (R376). va0 compares lanes unsigned less into a guard pair. -/
  | vcmpLtu (m : Mv) (p : BitVec 2)
  /-- VCMP_LEU (R376). va0 compares lanes unsigned less-or-equal into a guard pair. -/
  | vcmpLeu (m : Mv) (p : BitVec 2)
  /-- VCMP_FEQ (R376). va0 compares FP32 lanes for equality into a guard pair. -/
  | vcmpFeq (m : Mv) (p : BitVec 2)
  /-- VCMP_FLT (R376). va0 compares FP32 lanes less into a guard pair. -/
  | vcmpFlt (m : Mv) (p : BitVec 2)
  /-- VCMP_FLE (R376). va0 compares FP32 lanes less-or-equal into a guard pair. -/
  | vcmpFle (m : Mv) (p : BitVec 2)
  /-- VCMP_FUN (R376). va0 tests FP32 lanes for unordered into a guard pair. -/
  | vcmpFun (m : Mv) (p : BitVec 2)
  /-- VMUL (R377). vm gives the low 32 bits of each lane product. -/
  | vmul (m : Mv)
  /-- VMULH (R377). vm gives the signed high 32 bits of each lane product. -/
  | vmulh (m : Mv)
  /-- VMULHU (R377). vm gives the unsigned high 32 bits of each lane product. -/
  | vmulhu (m : Mv)
  /-- VMAD (R377). vm computes a*b+v per lane modulo 2^32. -/
  | vmad (m : Mv)
  /-- VFMUL (R377). vm multiplies FP32 lanes with one rounding. -/
  | vfmul (m : Mv)
  /-- VFFMA (R377). vm computes a*b+v per FP32 lane with one rounding. -/
  | vffma (m : Mv)
  /-- VFFMS (R377). vm computes a*b-v per FP32 lane with one rounding. -/
  | vffms (m : Mv)
  /-- VFNMA (R377). vm computes -(a*b)+v per FP32 lane with one rounding. -/
  | vfnma (m : Mv)
  /-- VSIN (R381). vf returns the correctly rounded sine of each lane. -/
  | vsin (m : Mv)
  /-- VCOS (R381). vf returns the correctly rounded cosine of each lane. -/
  | vcos (m : Mv)
  /-- VEXP2 (R381). vf returns 2^x per lane. -/
  | vexp2 (m : Mv)
  /-- VLOG2 (R381). vf returns log2 x per lane. -/
  | vlog2 (m : Mv)
  /-- VRCP (R381). vf returns the reciprocal per lane. -/
  | vrcp (m : Mv)
  /-- VRSQRT (R381). vf returns the reciprocal square root per lane. -/
  | vrsqrt (m : Mv)
  /-- VSQRT (R381). vf returns the square root per lane. -/
  | vsqrt (m : Mv)
  /-- VCVT_F32_I32 (R378). vf converts signed 32-bit lanes to FP32. -/
  | vcvtF32I32 (m : Mv)
  /-- VCVT_I32_F32 (R378). vf converts FP32 lanes to INT32. -/
  | vcvtI32F32 (m : Mv)
  /-- VCVT_F32_BF16 (R378). vf widens the BF16 field POS of each lane to FP32. -/
  | vcvtF32Bf16 (m : Mv)
  /-- VCVT_BF16_F32 (R378). vf rounds FP32 lanes to BF16 in field POS. -/
  | vcvtBf16F32 (m : Mv)
  /-- VCVT_F32_F16 (R378). vf widens the FP16 field POS of each lane to FP32. -/
  | vcvtF32F16 (m : Mv)
  /-- VCVT_F16_F32 (R378). vf rounds FP32 lanes to FP16 in field POS. -/
  | vcvtF16F32 (m : Mv)
  /-- VCVT_F32_E4M3 (R378). vf widens the E4M3 field POS of each lane to FP32. -/
  | vcvtF32E4m3 (m : Mv)
  /-- VCVT_E4M3_F32 (R378). vf rounds FP32 lanes to E4M3 in field POS. -/
  | vcvtE4m3F32 (m : Mv)
  /-- VCVT_F32_E5M2 (R378). vf widens the E5M2 field POS of each lane to FP32. -/
  | vcvtF32E5m2 (m : Mv)
  /-- VCVT_E5M2_F32 (R378). vf rounds FP32 lanes to E5M2 in field POS. -/
  | vcvtE5m2F32 (m : Mv)
  /-- VCVT_F32_FP4 (R378). vf widens the FP4 field POS of each lane to FP32. -/
  | vcvtF32Fp4 (m : Mv)
  /-- VCVT_FP4_F32 (R378). vf rounds FP32 lanes to FP4 in field POS. -/
  | vcvtFp4F32 (m : Mv)
  /-- VDEC_OX4 (R379). vf decodes OX4 blocks and returns each lane's element as FP32. -/
  | vdecOx4 (m : Mv)
  /-- VFSCALE (R380). vf multiplies each lane by its decoded block scale. -/
  | vfscale (m : Mv)
  /-- VLD (R383). vl loads a 64 B line into the register named by the control word. -/
  | vld (m : Mv)
  /-- VST (R383). vl stores the enabled lanes as a 64 B line. -/
  | vst (m : Mv)
  /-- VGLD (R384). vl gathers one word per lane from base plus lane offset. -/
  | vgld (m : Mv)
  /-- VSCT (R384). vl scatters one word per enabled lane. -/
  | vsct (m : Mv)
  /-- SHUF (R388). vx permutes lanes across the core by an entry of the active shuffle bank. -/
  | shuf (m : Mv)
  /-- SHUF_LD (R389). vx writes an entry of the inactive shuffle bank and may request a bank swap. -/
  | shufLd (m : Mv)
  /-- VREDADD (R390). vx sums lanes in ascending order into every enabled lane. -/
  | vredadd (m : Mv)
  /-- VREDMIN (R390). vx reduces lanes by minimum. -/
  | vredmin (m : Mv)
  /-- VREDMAX (R390). vx reduces lanes by maximum. -/
  | vredmax (m : Mv)
  /-- VBCAST (R387). vx broadcasts one lane of the moved value to every lane. -/
  | vbcast (m : Mv)
  /-- XCL (R386). vx reads a v register of cluster j and lands it in this cluster. -/
  | xcl (m : Mv) (j : BitVec 3)
  /-- ADD (R361). sa0 adds modulo 2^64. -/
  | add (m : Mv)
  /-- SUB (R361). sa0 subtracts modulo 2^64. -/
  | sub (m : Mv)
  /-- AND (R361). sa0 ANDs. -/
  | and (m : Mv)
  /-- OR (R361). sa0 ORs. -/
  | or (m : Mv)
  /-- XOR (R361). sa0 XORs. -/
  | xor (m : Mv)
  /-- ANDN (R361). sa0 computes a AND NOT v. -/
  | andn (m : Mv)
  /-- SHL (R361). sa0 shifts left. -/
  | shl (m : Mv)
  /-- SHR (R361). sa0 shifts right logically. -/
  | shr (m : Mv)
  /-- SRA (R361). sa0 shifts right arithmetically. -/
  | sra (m : Mv)
  /-- MIN (R361). sa0 takes the signed minimum. -/
  | min (m : Mv)
  /-- MAX (R361). sa0 takes the signed maximum. -/
  | max (m : Mv)
  /-- MINU (R361). sa0 takes the unsigned minimum. -/
  | minu (m : Mv)
  /-- MAXU (R361). sa0 takes the unsigned maximum. -/
  | maxu (m : Mv)
  /-- CLZ (R361). sa0 counts leading zeros of v. -/
  | clz (m : Mv)
  /-- CTZ (R361). sa0 counts trailing zeros of v. -/
  | ctz (m : Mv)
  /-- POPC (R361). sa0 counts 1 bits of v. -/
  | popc (m : Mv)
  /-- BFX (R362). sa0 extracts a sign-extended bit field. -/
  | bfx (m : Mv)
  /-- BFXU (R362). sa0 extracts a zero-extended bit field. -/
  | bfxu (m : Mv)
  /-- BFI (R362). sa0 inserts a bit field of o2 into o1. -/
  | bfi (m : Mv)
  /-- SEL (R361). sa0 selects o1 or o2 by the moved value. -/
  | sel (m : Mv)
  /-- LEA (R361). sa0 computes a + (b << v[2:0]). -/
  | lea (m : Mv)
  /-- SEXT (R361). sa0 sign-extends from a bit. -/
  | sext (m : Mv)
  /-- ZEXT (R361). sa0 clears bits above a bit. -/
  | zext (m : Mv)
  /-- SBASE (R361). sa0 forms the S-address of a byte of a core's slice. -/
  | sbase (m : Mv)
  /-- ADD_B (R361). sa1 adds modulo 2^64. -/
  | addB (m : Mv)
  /-- SUB_B (R361). sa1 subtracts modulo 2^64. -/
  | subB (m : Mv)
  /-- AND_B (R361). sa1 ANDs. -/
  | andB (m : Mv)
  /-- OR_B (R361). sa1 ORs. -/
  | orB (m : Mv)
  /-- XOR_B (R361). sa1 XORs. -/
  | xorB (m : Mv)
  /-- ANDN_B (R361). sa1 computes a AND NOT v. -/
  | andnB (m : Mv)
  /-- SHL_B (R361). sa1 shifts left. -/
  | shlB (m : Mv)
  /-- SHR_B (R361). sa1 shifts right logically. -/
  | shrB (m : Mv)
  /-- SRA_B (R361). sa1 shifts right arithmetically. -/
  | sraB (m : Mv)
  /-- MIN_B (R361). sa1 takes the signed minimum. -/
  | minB (m : Mv)
  /-- MAX_B (R361). sa1 takes the signed maximum. -/
  | maxB (m : Mv)
  /-- MINU_B (R361). sa1 takes the unsigned minimum. -/
  | minuB (m : Mv)
  /-- MAXU_B (R361). sa1 takes the unsigned maximum. -/
  | maxuB (m : Mv)
  /-- CLZ_B (R361). sa1 counts leading zeros of v. -/
  | clzB (m : Mv)
  /-- CTZ_B (R361). sa1 counts trailing zeros of v. -/
  | ctzB (m : Mv)
  /-- POPC_B (R361). sa1 counts 1 bits of v. -/
  | popcB (m : Mv)
  /-- BFX_B (R362). sa1 extracts a sign-extended bit field. -/
  | bfxB (m : Mv)
  /-- BFXU_B (R362). sa1 extracts a zero-extended bit field. -/
  | bfxuB (m : Mv)
  /-- BFI_B (R362). sa1 inserts a bit field of o2 into o1. -/
  | bfiB (m : Mv)
  /-- SEL_B (R361). sa1 selects o1 or o2 by the moved value. -/
  | selB (m : Mv)
  /-- LEA_B (R361). sa1 computes a + (b << v[2:0]). -/
  | leaB (m : Mv)
  /-- SEXT_B (R361). sa1 sign-extends from a bit. -/
  | sextB (m : Mv)
  /-- ZEXT_B (R361). sa1 clears bits above a bit. -/
  | zextB (m : Mv)
  /-- SBASE_B (R361). sa1 forms the S-address of a byte of a core's slice. -/
  | sbaseB (m : Mv)
  /-- CMP_EQ (R364). sa0 compares for equality into a q pair. -/
  | cmpEq (m : Mv) (p : BitVec 2)
  /-- CMP_NE (R364). sa0 compares for inequality into a q pair. -/
  | cmpNe (m : Mv) (p : BitVec 2)
  /-- CMP_LT (R364). sa0 compares signed less into a q pair. -/
  | cmpLt (m : Mv) (p : BitVec 2)
  /-- CMP_LE (R364). sa0 compares signed less-or-equal into a q pair. -/
  | cmpLe (m : Mv) (p : BitVec 2)
  /-- CMP_LTU (R364). sa0 compares unsigned less into a q pair. -/
  | cmpLtu (m : Mv) (p : BitVec 2)
  /-- CMP_LEU (R364). sa0 compares unsigned less-or-equal into a q pair. -/
  | cmpLeu (m : Mv) (p : BitVec 2)
  /-- MUL (R363). sm gives the low 64 bits of the product. -/
  | mul (m : Mv)
  /-- MULH (R363). sm gives the signed high 64 bits of the product. -/
  | mulh (m : Mv)
  /-- MULHU (R363). sm gives the unsigned high 64 bits of the product. -/
  | mulhu (m : Mv)
  /-- MAD (R363). sm computes a*b+v modulo 2^64. -/
  | mad (m : Mv)
  /-- DIV (R363). sm divides signed, truncating toward zero. -/
  | div (m : Mv)
  /-- DIVU (R363). sm divides unsigned. -/
  | divu (m : Mv)
  /-- REM (R363). sm gives the signed remainder. -/
  | rem (m : Mv)
  /-- REMU (R363). sm gives the unsigned remainder. -/
  | remu (m : Mv)
  /-- LD_W (R366). sl loads a zero-extended word from S-space. -/
  | ldW (m : Mv)
  /-- LD_D (R366). sl loads a doubleword from S-space. -/
  | ldD (m : Mv)
  /-- ST_W (R369). sl stores a word to S-space. -/
  | stW (m : Mv)
  /-- ST_D (R369). sl stores a doubleword to S-space. -/
  | stD (m : Mv)
  /-- LD_ACQ (R370). sl loads and acts as an acquire at its scope. -/
  | ldAcq (m : Mv)
  /-- ST_REL (R370). sl releases at its scope and then stores. -/
  | stRel (m : Mv)
  /-- AMO_ADD (R371). sl atomically adds in S-space and returns the old value. -/
  | amoAdd (m : Mv)
  /-- AMO_AND (R371). sl atomically ANDs in S-space. -/
  | amoAnd (m : Mv)
  /-- AMO_OR (R371). sl atomically ORs in S-space. -/
  | amoOr (m : Mv)
  /-- AMO_MIN (R371). sl atomically takes the signed minimum. -/
  | amoMin (m : Mv)
  /-- AMO_MAX (R371). sl atomically takes the signed maximum. -/
  | amoMax (m : Mv)
  /-- AMO_SWAP (R371). sl atomically swaps. -/
  | amoSwap (m : Mv)
  /-- AMO_CAS (R371). sl atomically compares and swaps. -/
  | amoCas (m : Mv)
  /-- BAR_INIT (R372). With v[31]=0 a barrier word is initialised with EXP and both words tagged. -/
  | barInit (m : Mv)
  /-- BAR_RELEASE (R372). With v[31]=1 bar.init zeroes the word and clears its tags. -/
  | barRelease (m : Mv)
  /-- BAR_ARR (R372). A release that then adds to PEND and raises ARR of a barrier word. -/
  | barArr (m : Mv)
  /-- BAR_EXP (R372). Adds the moved value to a barrier word's PEND. -/
  | barExp (m : Mv)
  /-- COPY (R421). Pushes a local copy between S-space, V-space or a tile on channel N. -/
  | copy (m : Mv) (n : BitVec 3)
  /-- COPY_TR8 (R422). Pushes a transposing copy of bytes between two descriptors. -/
  | copyTr8 (m : Mv) (n : BitVec 3)
  /-- COPY_TR16 (R422). Pushes a transposing copy of halfwords between two descriptors. -/
  | copyTr16 (m : Mv) (n : BitVec 3)
  /-- COPY_ND (R422). Pushes a copy between two nested-loop descriptors. -/
  | copyNd (m : Mv) (n : BitVec 3)
  /-- RGET (R427). Pushes a remote read into memory or a register. -/
  | rget (m : Mv) (n : BitVec 3)
  /-- VATOM (R426). Pushes one atomic in local V-space through the HBM atomic unit. -/
  | vatom (m : Mv) (n : BitVec 3)
  /-- RPUT_ST (R424). Pushes a remote write on a stream, taking its sequence number. -/
  | rputSt (m : Mv) (t : BitVec 5)
  /-- RRED_ST (R425). Pushes a remote element-wise reduction on a stream. -/
  | rredSt (m : Mv) (t : BitVec 5)
  /-- RATOM_ST (R426). Pushes a remote atomic on a stream. -/
  | ratomSt (m : Mv) (t : BitVec 5)
  /-- GATHER (R429). Pushes an indexed gather of elements. -/
  | gather (m : Mv)
  /-- SCATTER (R429). Pushes an indexed scatter of elements. -/
  | scatter (m : Mv)
  /-- FMT_WR (R416). Pushes a write of one format-table entry. -/
  | fmtWr (m : Mv)
  /-- CPROG (R404). Pushes a load of the cell program into every microcode store. -/
  | cprog (m : Mv)
  /-- CFLOW (R404). Pushes a write of the flow and pass-start settings. -/
  | cflow (m : Mv)
  /-- CSKEW (R404). Pushes a write of the row and column skew. -/
  | cskew (m : Mv)
  /-- CLD (R405). Pushes a load of one cell register of every cell from S-space. -/
  | cld (m : Mv)
  /-- CST (R405). Pushes a store of one cell register of every cell to S-space. -/
  | cst (m : Mv)
  /-- MSTART (R406). Pushes an array operation that computes into a MAS region. -/
  | mstart (m : Mv)
  /-- MSTART_G (R411). Pushes an array operation that begins together with its gang members. -/
  | mstartG (m : Mv)
  /-- MZERO (R412). Pushes a zeroing of a MAS region. -/
  | mzero (m : Mv)
  /-- MDRAIN (R414). Pushes a raw copy of MAS rows to S-space. -/
  | mdrain (m : Mv)
  /-- MEPI (R414). Pushes a converting epilogue of MAS rows to S-space. -/
  | mepi (m : Mv)
  /-- MEPI_ACC (R414). Pushes an epilogue that adds MAS rows into the destination. -/
  | mepiAcc (m : Mv)
  /-- MEPI_RM (R415). Pushes an epilogue that sends each converted row as a remote write. -/
  | mepiRm (m : Mv)
  /-- TILE_DECL (R431). Declares a tile's geometry, EMPTY or READY. -/
  | tileDecl (m : Mv)
  /-- TILE_SUB (R432). Subscribes a ring of tiles to the loader. -/
  | tileSub (m : Mv)
  /-- TILE_REL (R202). Requests release of a READY tile. -/
  | tileRel (m : Mv)
  /-- TILE_STAT (R430). Returns bits [63:0] of a tile-table entry. -/
  | tileStat (m : Mv)
  /-- CH_POST (R439). Pushes a send of one channel element, or starts a ring collective. -/
  | chPost (m : Mv)
  /-- CH_WAIT (R440). Pushes a take of one channel element, or a wait for a collective. -/
  | chWait (m : Mv)
  /-- JMP (R328). Branches to an absolute bundle index. -/
  | jmp (m : Mv)
  /-- JMP_R (R328). Branches by a signed offset. -/
  | jmpR (m : Mv)
  /-- CALL (R328). Branches and writes the return index to br.res. -/
  | call (m : Mv)
  /-- LOOP_SET (R331). Writes a loop level's BOUND and zeroes its counter. -/
  | loopSet (m : Mv)
  /-- LOOP_BODY (R331). Writes a loop level's range and increments. -/
  | loopBody (m : Mv)
  /-- REPEAT (R332). Sets up a short loop over the following bundles. -/
  | repeatOp (m : Mv)
  /-- WAIT_CYCLE (R333). KIND 0: blocks until CYCLE reaches sy.o1. -/
  | waitCycle (m : Mv)
  /-- WAIT_TDONE (R333). KIND 1: blocks until a transfer ID lies below TDONE of a channel. -/
  | waitTdone (m : Mv)
  /-- WAIT_BARRIER (R333). KIND 2: blocks until a barrier word holds the awaited PH, then acquires. -/
  | waitBarrier (m : Mv)
  /-- YIELD (R334). Gives up the seat and becomes READY with a new age. -/
  | yield (m : Mv)
  /-- HALT (R335). Blocks the context with no waking condition and sends a record. -/
  | halt (m : Mv)
  /-- TRAP (R336). Raises TRAP with a code. -/
  | trapOp (m : Mv)
  /-- BREAK (R336). Raises BREAK with a code. -/
  | breakOp (m : Mv)
  /-- ERET (R337). Returns from the system plane to the user plane at TRAPPC. -/
  | eret (m : Mv)
  /-- PHASE (R338). Arrives the context at the current phase and blocks until the next opens. -/
  | phase (m : Mv)
  /-- FENCE (R339). A release and an acquire at a scope. -/
  | fence (m : Mv)
  /-- FENCE_Q (R137). Orders later commands of the named engine queues after earlier ones. -/
  | fenceQ (m : Mv)
  /-- FENCE_ST (R145). Completes when the named streams' STRFENCE bits are zero. -/
  | fenceSt (m : Mv)
  /-- TASK_POST (R340). Reads and checks a TOPB and posts the task, returning a status. -/
  | taskPost (m : Mv)
  /-- TASK_DONE (R341). Ends the tile step once the due buffer is empty and every register is full. -/
  | taskDone (m : Mv)
  /-- CSR_RD (R343). Reads a control and status register, clearing RC fields. -/
  | csrRd (m : Mv)
  /-- CSR_WR (R343). Writes a control and status register field by field. -/
  | csrWr (m : Mv)
  /-- CODE_MARK (R342). Gives the tile step its effect mark. -/
  | codeMark (m : Mv)
  /-- TIMER (R344). Arms or disarms the context's timer. -/
  | timer (m : Mv)
  /-- TLB_INV (R345). Removes TLB entries covering an address and completes when no TLB holds them. -/
  | tlbInv (m : Mv)
  /-- TLB_FIX_MAPPED (R346). Action 0: replays the page's side-log entries and completes held loads. -/
  | tlbFixMapped (m : Mv)
  /-- TLB_FIX_UNMAPPABLE (R346). Action 1: discards the page's logged entries and fails held loads. -/
  | tlbFixUnmappable (m : Mv)
  /-- TLB_FIX_MIGRATED (R346). Action 2: replays logged writes into the page's new frame. -/
  | tlbFixMigrated (m : Mv)
  /-- CORE_SAVE (R347). Requests pre-emption of a core and waits until its images are written. -/
  | coreSave (m : Mv)
  /-- CORE_LOAD (R347). Restores images onto the cores of an area table, all or none. -/
  | coreLoad (m : Mv)
  /-- LNK_KEY (R348). Loads a key and salt into a link slot pair. -/
  | lnkKey (m : Mv)
  /-- LNK_GET (R349). Returns a state word or counter of a link. -/
  | lnkGet (m : Mv)
  /-- LINK_DRAIN (R350). Command 0 moves an UP link to DRAINING and sends a DRAIN flit. -/
  | linkDrain (m : Mv)
  /-- LINK_RELOCK (R350). Command 1 puts a DARK or DOWN link into TRAINING with every slot EMPTY. -/
  | linkRelock (m : Mv)
  /-- LINK_SWITCH (R278). Command 2 sends a KEYMARK and makes the READY slot ACTIVE. -/
  | linkSwitch (m : Mv)
  /-- LINK_KDUE (R215). Command 3 writes KDUE from sy.o1 and arms both transmit slots. -/
  | linkKdue (m : Mv)
  /-- LINK_DOWN_COMMAND (R350). Command 4 takes the link DOWN and raises LINK.DOWN. -/
  | linkDownCommand (m : Mv)
  /-- RT_WR (R351). Writes a route entry of a group on one or both dies. -/
  | rtWr (m : Mv)
  /-- CH_WR (R352). Rewrites a channel-table entry from a 64 B image, or is refused. -/
  | chWr (m : Mv)
  /-- LNK_SVC (R353). Names or clears the link-service context of a die. -/
  | lnkSvc (m : Mv)
  /-- PERF_CLR (R354). Zeroes selected PMCs and optionally the capture unit. -/
  | perfClr (m : Mv)
  deriving DecidableEq, Repr

end Sys2Proof
end

