-- ==== Sys2Proof/WellFormed.lean ====
section
/-!
DEFINITION. Well-formed instructions: fields an encoding admits, and names of parts the device has.
-/

namespace Sys2Proof

/-- Registers and operand latches among the destinations, and discard (Tables 12.1, 12.6, 12.10, 12.11). -/
def isPlainDest (d : BitVec 10) : Bool :=
  let n := d.toNat
  n ≤ 0x00C || (0x040 ≤ n && n ≤ 0x07F) || (0x0F1 ≤ n && n ≤ 0x0F6)
    || (0x100 ≤ n && n ≤ 0x13F) || (0x141 ≤ n && n ≤ 0x146) || (0x150 ≤ n && n ≤ 0x158)
    || (0x240 ≤ n && n ≤ 0x242) || (0x248 ≤ n && n ≤ 0x24A) || n == 0x258
    || (0x2C0 ≤ n && n ≤ 0x2C2) || (0x2D0 ≤ n && n ≤ 0x2D2) || n == 0x2E0 || n == 0x2E1
    || n == 0x2E8 || n == 0x2E9 || (0x308 ≤ n && n ≤ 0x30A) || n == 0x310 || n == 0x311

/-- Queue pop and peek ports (Tables 12.2 and 12.8). -/
def isQueueSource (s : BitVec 9) : Bool :=
  let n := s.toNat
  (0x080 ≤ n && n ≤ 0x087) || (0x150 ≤ n && n ≤ 0x157)

/-- A move slot: G names a guard or none. -/
def Mv.wf (m : Mv) : Bool := m.g != 7

/-- Cores, contexts, links, dies, rings and stages that exist (R8, R9, R11, R268). -/
def coreOk (c : Nat) : Bool := decide (c < 128)
/-- A context of a core. -/
def ctxOk (c x : Nat) : Bool := decide (c < 128) && decide (x < 4)
/-- A fabric link. -/
def linkOk (l : Nat) : Bool := decide (l < 47)
/-- A work ring. -/
def ringOk (r : Nat) : Bool := decide (r < 64)

/-- What an encoding admits, and for a step of the machine, that the parts it names exist. -/
def WellFormed : Instr → Bool
  | .moduleReset => true
  | .sillFirmwareVerify _ => true
  | .bringupComplete _ => true
  | .identCmd => true
  | .statusCmd => true
  | .openCmd _ => true
  | .closeCmd => true
  | .scrubCmd => true
  | .recordsCmd => true
  | .attestCmd _ => true
  | .fwupd _ => true
  | .svncommit _ => true
  | .recalCmd _ => true
  | .drainCmd core => coreOk core
  | .undrainCmd core => coreOk core
  | .readcnt => true
  | .sessionClosingEnd => true
  | .scrubComplete => true
  | .workRingPoll => true
  | .nopRequest ring => ringOk ring
  | .unknownRequest ring => ringOk ring
  | .klaunch ring => ringOk ring
  | .kernelLoadComplete => true
  | .taskRequest ring => ringOk ring
  | .closeRequest ring => ringOk ring
  | .taskForm stage => decide (stage < 16)
  | .dispatcherBinDrain => true
  | .tileStepPlace => true
  | .gangPlace => true
  | .tileStepRetire core ctx => ctxOk core ctx
  | .trussBalance die => decide (die < 2)
  | .occupancySample => true
  | .coreMoveTakeEffect core => coreOk core
  | .bundleIssue core _ => coreOk core
  | .dovetailSeat core => coreOk core
  | .dovetailRotation core => coreOk core
  | .dovetailRoleSwap core => coreOk core
  | .freezeCycle core => coreOk core
  | .longLatencyArrival core ctx _ => ctxOk core ctx
  | .trapDelivery core ctx => ctxOk core ctx
  | .timerExpiry core ctx => ctxOk core ctx
  | .kChunkDrain core => coreOk core
  | .imageSaveComplete core => coreOk core
  | .eccCorrected _ => true
  | .eccUncorrectable _ => true
  | .phaseOpen core => coreOk core
  | .engineCommandAccept core unit => coreOk core && decide (unit < 15)
  | .copyEligible core ch _ => coreOk core && decide (ch < 8)
  | .copyPiece die engine => decide (die < 2) && decide (engine < 16)
  | .copyComplete core ch _ => coreOk core && decide (ch < 8)
  | .tlbWalk die _ => decide (die < 2)
  | .streamArrival _ => true
  | .refusedResend _ => true
  | .commitAcknowledgement _ => true
  | .readRequest _ => true
  | .readData _ => true
  | .collectiveContribution _ => true
  | .setupContribution _ => true
  | .channelElement _ => true
  | .channelCredit _ => true
  | .operationUnreachable _ => true
  | .dataFlitSend link => linkOk link
  | .idleFlitSend link => linkOk link
  | .dataFlit link _ => linkOk link
  | .ack link _ => linkOk link
  | .retryreq link _ => linkOk link
  | .creditFlit link _ => linkOk link
  | .keymark link _ => linkOk link
  | .drainFlit link _ => linkOk link
  | .hello link _ => linkOk link
  | .unknownFlit link _ => linkOk link
  | .linkLockLoss link => linkOk link
  | .linkSilenceTimeout link => linkOk link
  | .rdmaWrite _ _ _ _ => true
  | .rdmaRead _ _ _ _ => true
  | .rdmaInvalidRequest _ => true
  | .thermalLimitStep => true
  | .thermalShutdown => true
  | .loaderFillBegin core ring => coreOk core && ringOk ring
  | .tileFillComplete core tile => coreOk core && decide (tile < 256)
  | .storerDrainComplete core tile => coreOk core && decide (tile < 256)
  | .tileReleaseEffect core tile => coreOk core && decide (tile < 256)
  | .overflowRefill queue => decide (queue < 128)
  | .arrayPassDue core => coreOk core
  | .mstartGBegin core => coreOk core
  | .epilogueComplete core => coreOk core
  | .releaseComplete core ctx => ctxOk core ctx
  | .nop g _ _ => g != 7
  | .immediateCarrier _ => true
  | .discardMove m => m.wf && m.s != 0 && !isQueueSource m.s
  | .move m d => m.wf && d != 0 && isPlainDest d && !isQueueSource m.s
  | .queuePush m _ => m.wf
  | .queuePushShared m _ => m.wf
  | .queuePop g _ _ _ d => g != 7 && isPlainDest d
  | .queuePopShared g _ _ _ d => g != 7 && isPlainDest d
  | .queuePeek g _ _ _ d => g != 7 && isPlainDest d
  | .queuePeekShared g _ _ _ d => g != 7 && isPlainDest d
  | .vadd m => m.wf
  | .vsub m => m.wf
  | .vadds m => m.wf
  | .vsubs m => m.wf
  | .vmin m => m.wf
  | .vmax m => m.wf
  | .vminu m => m.wf
  | .vmaxu m => m.wf
  | .vand m => m.wf
  | .vor m => m.wf
  | .vxor m => m.wf
  | .vandn m => m.wf
  | .vshl m => m.wf
  | .vshr m => m.wf
  | .vsra m => m.wf
  | .vsel m => m.wf
  | .vclz m => m.wf
  | .vpopc m => m.wf
  | .vfadd m => m.wf
  | .vfsub m => m.wf
  | .vfmin m => m.wf
  | .vfmax m => m.wf
  | .vfabs m => m.wf
  | .vfneg m => m.wf
  | .vaddB m => m.wf
  | .vsubB m => m.wf
  | .vaddsB m => m.wf
  | .vsubsB m => m.wf
  | .vminB m => m.wf
  | .vmaxB m => m.wf
  | .vminuB m => m.wf
  | .vmaxuB m => m.wf
  | .vandB m => m.wf
  | .vorB m => m.wf
  | .vxorB m => m.wf
  | .vandnB m => m.wf
  | .vshlB m => m.wf
  | .vshrB m => m.wf
  | .vsraB m => m.wf
  | .vselB m => m.wf
  | .vclzB m => m.wf
  | .vpopcB m => m.wf
  | .vfaddB m => m.wf
  | .vfsubB m => m.wf
  | .vfminB m => m.wf
  | .vfmaxB m => m.wf
  | .vfabsB m => m.wf
  | .vfnegB m => m.wf
  | .vcmpEq m p => m.wf && p != 3
  | .vcmpNe m p => m.wf && p != 3
  | .vcmpLt m p => m.wf && p != 3
  | .vcmpLe m p => m.wf && p != 3
  | .vcmpLtu m p => m.wf && p != 3
  | .vcmpLeu m p => m.wf && p != 3
  | .vcmpFeq m p => m.wf && p != 3
  | .vcmpFlt m p => m.wf && p != 3
  | .vcmpFle m p => m.wf && p != 3
  | .vcmpFun m p => m.wf && p != 3
  | .vmul m => m.wf
  | .vmulh m => m.wf
  | .vmulhu m => m.wf
  | .vmad m => m.wf
  | .vfmul m => m.wf
  | .vffma m => m.wf
  | .vffms m => m.wf
  | .vfnma m => m.wf
  | .vsin m => m.wf
  | .vcos m => m.wf
  | .vexp2 m => m.wf
  | .vlog2 m => m.wf
  | .vrcp m => m.wf
  | .vrsqrt m => m.wf
  | .vsqrt m => m.wf
  | .vcvtF32I32 m => m.wf
  | .vcvtI32F32 m => m.wf
  | .vcvtF32Bf16 m => m.wf
  | .vcvtBf16F32 m => m.wf
  | .vcvtF32F16 m => m.wf
  | .vcvtF16F32 m => m.wf
  | .vcvtF32E4m3 m => m.wf
  | .vcvtE4m3F32 m => m.wf
  | .vcvtF32E5m2 m => m.wf
  | .vcvtE5m2F32 m => m.wf
  | .vcvtF32Fp4 m => m.wf
  | .vcvtFp4F32 m => m.wf
  | .vdecOx4 m => m.wf
  | .vfscale m => m.wf
  | .vld m => m.wf
  | .vst m => m.wf
  | .vgld m => m.wf
  | .vsct m => m.wf
  | .shuf m => m.wf
  | .shufLd m => m.wf
  | .vredadd m => m.wf
  | .vredmin m => m.wf
  | .vredmax m => m.wf
  | .vbcast m => m.wf
  | .xcl m _ => m.wf
  | .add m => m.wf
  | .sub m => m.wf
  | .and m => m.wf
  | .or m => m.wf
  | .xor m => m.wf
  | .andn m => m.wf
  | .shl m => m.wf
  | .shr m => m.wf
  | .sra m => m.wf
  | .min m => m.wf
  | .max m => m.wf
  | .minu m => m.wf
  | .maxu m => m.wf
  | .clz m => m.wf
  | .ctz m => m.wf
  | .popc m => m.wf
  | .bfx m => m.wf
  | .bfxu m => m.wf
  | .bfi m => m.wf
  | .sel m => m.wf
  | .lea m => m.wf
  | .sext m => m.wf
  | .zext m => m.wf
  | .sbase m => m.wf
  | .addB m => m.wf
  | .subB m => m.wf
  | .andB m => m.wf
  | .orB m => m.wf
  | .xorB m => m.wf
  | .andnB m => m.wf
  | .shlB m => m.wf
  | .shrB m => m.wf
  | .sraB m => m.wf
  | .minB m => m.wf
  | .maxB m => m.wf
  | .minuB m => m.wf
  | .maxuB m => m.wf
  | .clzB m => m.wf
  | .ctzB m => m.wf
  | .popcB m => m.wf
  | .bfxB m => m.wf
  | .bfxuB m => m.wf
  | .bfiB m => m.wf
  | .selB m => m.wf
  | .leaB m => m.wf
  | .sextB m => m.wf
  | .zextB m => m.wf
  | .sbaseB m => m.wf
  | .cmpEq m p => m.wf && p != 3
  | .cmpNe m p => m.wf && p != 3
  | .cmpLt m p => m.wf && p != 3
  | .cmpLe m p => m.wf && p != 3
  | .cmpLtu m p => m.wf && p != 3
  | .cmpLeu m p => m.wf && p != 3
  | .mul m => m.wf
  | .mulh m => m.wf
  | .mulhu m => m.wf
  | .mad m => m.wf
  | .div m => m.wf
  | .divu m => m.wf
  | .rem m => m.wf
  | .remu m => m.wf
  | .ldW m => m.wf
  | .ldD m => m.wf
  | .stW m => m.wf
  | .stD m => m.wf
  | .ldAcq m => m.wf
  | .stRel m => m.wf
  | .amoAdd m => m.wf
  | .amoAnd m => m.wf
  | .amoOr m => m.wf
  | .amoMin m => m.wf
  | .amoMax m => m.wf
  | .amoSwap m => m.wf
  | .amoCas m => m.wf
  | .barInit m => m.wf
  | .barRelease m => m.wf
  | .barArr m => m.wf
  | .barExp m => m.wf
  | .copy m _ => m.wf
  | .copyTr8 m _ => m.wf
  | .copyTr16 m _ => m.wf
  | .copyNd m _ => m.wf
  | .rget m _ => m.wf
  | .vatom m _ => m.wf
  | .rputSt m _ => m.wf
  | .rredSt m _ => m.wf
  | .ratomSt m _ => m.wf
  | .gather m => m.wf
  | .scatter m => m.wf
  | .fmtWr m => m.wf
  | .cprog m => m.wf
  | .cflow m => m.wf
  | .cskew m => m.wf
  | .cld m => m.wf
  | .cst m => m.wf
  | .mstart m => m.wf
  | .mstartG m => m.wf
  | .mzero m => m.wf
  | .mdrain m => m.wf
  | .mepi m => m.wf
  | .mepiAcc m => m.wf
  | .mepiRm m => m.wf
  | .tileDecl m => m.wf
  | .tileSub m => m.wf
  | .tileRel m => m.wf
  | .tileStat m => m.wf
  | .chPost m => m.wf
  | .chWait m => m.wf
  | .jmp m => m.wf
  | .jmpR m => m.wf
  | .call m => m.wf
  | .loopSet m => m.wf
  | .loopBody m => m.wf
  | .repeatOp m => m.wf
  | .waitCycle m => m.wf
  | .waitTdone m => m.wf
  | .waitBarrier m => m.wf
  | .yield m => m.wf
  | .halt m => m.wf
  | .trapOp m => m.wf
  | .breakOp m => m.wf
  | .eret m => m.wf
  | .phase m => m.wf
  | .fence m => m.wf
  | .fenceQ m => m.wf
  | .fenceSt m => m.wf
  | .taskPost m => m.wf
  | .taskDone m => m.wf
  | .csrRd m => m.wf
  | .csrWr m => m.wf
  | .codeMark m => m.wf
  | .timer m => m.wf
  | .tlbInv m => m.wf
  | .tlbFixMapped m => m.wf
  | .tlbFixUnmappable m => m.wf
  | .tlbFixMigrated m => m.wf
  | .coreSave m => m.wf
  | .coreLoad m => m.wf
  | .lnkKey m => m.wf
  | .lnkGet m => m.wf
  | .linkDrain m => m.wf
  | .linkRelock m => m.wf
  | .linkSwitch m => m.wf
  | .linkKdue m => m.wf
  | .linkDownCommand m => m.wf
  | .rtWr m => m.wf
  | .chWr m => m.wf
  | .lnkSvc m => m.wf
  | .perfClr m => m.wf
  | .referenceClockCycle => true
  | .meshStorePerformed core ctx _ => ctxOk core ctx
  | .ceCommandDuePoint core => coreOk core
  | .idleFlit link _ => linkOk link
  | .hostRdmaResponse _ _ => true
  | .sillPreemptionRequest core _ => coreOk core

end Sys2Proof
end

