-- ==== Sys2Proof/Decode.lean ====
section
/-!
DEFINITION. Decoding of the 24-bit slots of a bundle (R287-R289, R310-R324) and, after it, the encoder.
Rows that share one word differ in the value that the move carries; the decoder takes that value as an argument,
and `decodeWord` supplies it where the source is a constant port (0 otherwise).
The definitions that build instructions are noncomputable because Lean's runtime admits fewer constructors with
fields than the opcode table has rows; the kernel evaluates them, and Machine/Step.lean proves the compiled form of
the step equal to the one written with them.
-/

namespace Sys2Proof

/-- Field G of a slot (Table 11.1). -/
def slotG (w : BitVec 24) : BitVec 3 := w.extractLsb' 21 3
/-- Field E of a slot. -/
def slotE (w : BitVec 24) : Bool := w.getLsbD 20
/-- Field H of a slot. -/
def slotH (w : BitVec 24) : Bool := w.getLsbD 19
/-- Field S of a slot. -/
def slotS (w : BitVec 24) : BitVec 9 := w.extractLsb' 10 9
/-- Field D of a slot. -/
def slotD (w : BitVec 24) : BitVec 10 := w.extractLsb' 0 10
/-- The fields of a move slot besides D. -/
def slotMv (w : BitVec 24) : Mv := { g := slotG w, e := slotE w, h := slotH w, s := slotS w }

/-- Trigger ports that name one operation each, with its constructor (Tables 12.3, 12.4, 12.7, 12.10, 12.11). (part 0) -/
noncomputable def triggers0 : List (Nat × (Mv → Instr)) :=
  [(0x010, .vmul), (0x011, .vmulh), (0x012, .vmulhu), (0x013, .vmad),
   (0x014, .vfmul), (0x015, .vffma), (0x016, .vffms), (0x017, .vfnma),
   (0x018, .vsin), (0x019, .vcos), (0x01A, .vexp2), (0x01B, .vlog2),
   (0x01C, .vrcp), (0x01D, .vrsqrt), (0x01E, .vsqrt), (0x020, .vcvtF32I32)]

/-- Trigger ports that name one operation each, with its constructor (Tables 12.3, 12.4, 12.7, 12.10, 12.11). (part 1) -/
noncomputable def triggers1 : List (Nat × (Mv → Instr)) :=
  [(0x021, .vcvtI32F32), (0x022, .vcvtF32Bf16), (0x023, .vcvtBf16F32), (0x024, .vcvtF32F16),
   (0x025, .vcvtF16F32), (0x026, .vcvtF32E4m3), (0x027, .vcvtE4m3F32), (0x028, .vcvtF32E5m2),
   (0x029, .vcvtE5m2F32), (0x02A, .vcvtF32Fp4), (0x02B, .vcvtFp4F32), (0x02C, .vdecOx4),
   (0x02D, .vfscale), (0x030, .vld), (0x031, .vst), (0x032, .vgld)]

/-- Trigger ports that name one operation each, with its constructor (Tables 12.3, 12.4, 12.7, 12.10, 12.11). (part 2) -/
noncomputable def triggers2 : List (Nat × (Mv → Instr)) :=
  [(0x033, .vsct), (0x038, .shuf), (0x039, .shufLd), (0x03A, .vredadd),
   (0x03B, .vredmin), (0x03C, .vredmax), (0x03D, .vbcast), (0x080, .vadd),
   (0x081, .vsub), (0x082, .vadds), (0x083, .vsubs), (0x084, .vmin),
   (0x085, .vmax), (0x086, .vminu), (0x087, .vmaxu), (0x088, .vand)]

/-- Trigger ports that name one operation each, with its constructor (Tables 12.3, 12.4, 12.7, 12.10, 12.11). (part 3) -/
noncomputable def triggers3 : List (Nat × (Mv → Instr)) :=
  [(0x089, .vor), (0x08A, .vxor), (0x08B, .vandn), (0x08C, .vshl),
   (0x08D, .vshr), (0x08E, .vsra), (0x08F, .vsel), (0x090, .vclz),
   (0x091, .vpopc), (0x092, .vfadd), (0x093, .vfsub), (0x094, .vfmin),
   (0x095, .vfmax), (0x096, .vfabs), (0x097, .vfneg), (0x098, .vaddB)]

/-- Trigger ports that name one operation each, with its constructor (Tables 12.3, 12.4, 12.7, 12.10, 12.11). (part 4) -/
noncomputable def triggers4 : List (Nat × (Mv → Instr)) :=
  [(0x099, .vsubB), (0x09A, .vaddsB), (0x09B, .vsubsB), (0x09C, .vminB),
   (0x09D, .vmaxB), (0x09E, .vminuB), (0x09F, .vmaxuB), (0x0A0, .vandB),
   (0x0A1, .vorB), (0x0A2, .vxorB), (0x0A3, .vandnB), (0x0A4, .vshlB),
   (0x0A5, .vshrB), (0x0A6, .vsraB), (0x0A7, .vselB), (0x0A8, .vclzB)]

/-- Trigger ports that name one operation each, with its constructor (Tables 12.3, 12.4, 12.7, 12.10, 12.11). (part 5) -/
noncomputable def triggers5 : List (Nat × (Mv → Instr)) :=
  [(0x0A9, .vpopcB), (0x0AA, .vfaddB), (0x0AB, .vfsubB), (0x0AC, .vfminB),
   (0x0AD, .vfmaxB), (0x0AE, .vfabsB), (0x0AF, .vfnegB), (0x160, .add),
   (0x161, .sub), (0x162, .and), (0x163, .or), (0x164, .xor),
   (0x165, .andn), (0x166, .shl), (0x167, .shr), (0x168, .sra)]

/-- Trigger ports that name one operation each, with its constructor (Tables 12.3, 12.4, 12.7, 12.10, 12.11). (part 6) -/
noncomputable def triggers6 : List (Nat × (Mv → Instr)) :=
  [(0x169, .min), (0x16A, .max), (0x16B, .minu), (0x16C, .maxu),
   (0x16D, .clz), (0x16E, .ctz), (0x16F, .popc), (0x170, .bfx),
   (0x171, .bfxu), (0x172, .bfi), (0x173, .sel), (0x174, .lea),
   (0x175, .sext), (0x176, .zext), (0x177, .sbase), (0x180, .addB)]

/-- Trigger ports that name one operation each, with its constructor (Tables 12.3, 12.4, 12.7, 12.10, 12.11). (part 7) -/
noncomputable def triggers7 : List (Nat × (Mv → Instr)) :=
  [(0x181, .subB), (0x182, .andB), (0x183, .orB), (0x184, .xorB),
   (0x185, .andnB), (0x186, .shlB), (0x187, .shrB), (0x188, .sraB),
   (0x189, .minB), (0x18A, .maxB), (0x18B, .minuB), (0x18C, .maxuB),
   (0x18D, .clzB), (0x18E, .ctzB), (0x18F, .popcB), (0x190, .bfxB)]

/-- Trigger ports that name one operation each, with its constructor (Tables 12.3, 12.4, 12.7, 12.10, 12.11). (part 8) -/
noncomputable def triggers8 : List (Nat × (Mv → Instr)) :=
  [(0x191, .bfxuB), (0x192, .bfiB), (0x193, .selB), (0x194, .leaB),
   (0x195, .sextB), (0x196, .zextB), (0x197, .sbaseB), (0x1A0, .mul),
   (0x1A1, .mulh), (0x1A2, .mulhu), (0x1A3, .mad), (0x1A4, .div),
   (0x1A5, .divu), (0x1A6, .rem), (0x1A7, .remu), (0x1B0, .ldW)]

/-- Trigger ports that name one operation each, with its constructor (Tables 12.3, 12.4, 12.7, 12.10, 12.11). (part 9) -/
noncomputable def triggers9 : List (Nat × (Mv → Instr)) :=
  [(0x1B1, .ldD), (0x1B2, .stW), (0x1B3, .stD), (0x1B4, .ldAcq),
   (0x1B5, .stRel), (0x1B6, .amoAdd), (0x1B7, .amoAnd), (0x1B8, .amoOr),
   (0x1B9, .amoMin), (0x1BA, .amoMax), (0x1BB, .amoSwap), (0x1BC, .amoCas),
   (0x1BD, .barInit), (0x1BE, .barArr), (0x1BF, .barExp), (0x24B, .gather)]

/-- Trigger ports that name one operation each, with its constructor (Tables 12.3, 12.4, 12.7, 12.10, 12.11). (part 10) -/
noncomputable def triggers10 : List (Nat × (Mv → Instr)) :=
  [(0x24C, .scatter), (0x259, .fmtWr), (0x2C4, .cprog), (0x2C5, .cflow),
   (0x2C6, .cskew), (0x2C7, .cld), (0x2C8, .cst), (0x2C9, .mstart),
   (0x2CA, .mstartG), (0x2CB, .mzero), (0x2D4, .mdrain), (0x2D5, .mepi),
   (0x2D6, .mepiAcc), (0x2D7, .mepiRm), (0x2E2, .tileDecl), (0x2E3, .tileSub)]

/-- Trigger ports that name one operation each, with its constructor (Tables 12.3, 12.4, 12.7, 12.10, 12.11). (part 11) -/
noncomputable def triggers11 : List (Nat × (Mv → Instr)) :=
  [(0x2E4, .tileRel), (0x2E5, .tileStat), (0x2EA, .chPost), (0x2EB, .chWait),
   (0x301, .jmp), (0x302, .jmpR), (0x303, .call), (0x30B, .loopSet),
   (0x30C, .loopBody), (0x30D, .repeatOp), (0x312, .waitCycle), (0x313, .yield),
   (0x314, .halt), (0x315, .trapOp), (0x316, .breakOp), (0x317, .eret)]

/-- Trigger ports that name one operation each, with its constructor (Tables 12.3, 12.4, 12.7, 12.10, 12.11). (part 12) -/
noncomputable def triggers12 : List (Nat × (Mv → Instr)) :=
  [(0x318, .phase), (0x319, .fence), (0x31A, .fenceQ), (0x31B, .fenceSt),
   (0x31C, .taskPost), (0x31D, .taskDone), (0x31E, .csrRd), (0x31F, .csrWr),
   (0x320, .codeMark), (0x321, .timer), (0x322, .tlbInv), (0x323, .tlbFixMapped),
   (0x324, .coreSave), (0x325, .coreLoad), (0x326, .lnkKey), (0x327, .lnkGet)]

/-- Trigger ports that name one operation each, with its constructor (Tables 12.3, 12.4, 12.7, 12.10, 12.11). (part 13) -/
noncomputable def triggers13 : List (Nat × (Mv → Instr)) :=
  [(0x328, .linkDrain), (0x329, .rtWr), (0x32A, .chWr), (0x32B, .lnkSvc),
   (0x32C, .perfClr)]

/-- Trigger ports that name one operation each, with its constructor (Tables 12.3, 12.4, 12.7, 12.10, 12.11). -/
noncomputable def triggers : List (Nat × (Mv → Instr)) :=
  triggers0 ++ triggers1 ++ triggers2 ++ triggers3 ++ triggers4 ++ triggers5 ++ triggers6 ++ triggers7 ++ triggers8 ++ triggers9 ++ triggers10 ++ triggers11 ++ triggers12 ++ triggers13

/-- The constructor of a trigger port of `triggers`. -/
def lookupTrigger (n : Nat) : List (Nat × (Mv → Instr)) → Option (Mv → Instr)
  | [] => none
  | (d, f) :: t => if d = n then some f else lookupTrigger n t

/-- Copy-channel triggers of channel n (Table 12.10): code t of port 0x200 + 8n + t. -/
noncomputable def copyTrigger (m : Mv) (n : BitVec 3) : Nat → Option Instr
  | 0 => some (.copy m n)
  | 1 => some (.copyTr8 m n)
  | 2 => some (.copyTr16 m n)
  | 3 => some (.copyNd m n)
  | 4 => some (.rget m n)
  | 5 => some (.vatom m n)
  | _ => none

/-- Vector compare of condition c and pair field p (Table 12.5). -/
noncomputable def vecCompare (m : Mv) (p : BitVec 2) : Nat → Option Instr
  | 0 => some (.vcmpEq m p)
  | 1 => some (.vcmpNe m p)
  | 2 => some (.vcmpLt m p)
  | 3 => some (.vcmpLe m p)
  | 4 => some (.vcmpLtu m p)
  | 5 => some (.vcmpLeu m p)
  | 6 => some (.vcmpFeq m p)
  | 7 => some (.vcmpFlt m p)
  | 8 => some (.vcmpFle m p)
  | 9 => some (.vcmpFun m p)
  | _ => none

/-- Scalar compare of condition c and pair field p (Table 12.5). -/
noncomputable def scalCompare (m : Mv) (p : BitVec 2) : Nat → Option Instr
  | 0 => some (.cmpEq m p)
  | 1 => some (.cmpNe m p)
  | 2 => some (.cmpLt m p)
  | 3 => some (.cmpLe m p)
  | 4 => some (.cmpLtu m p)
  | 5 => some (.cmpLeu m p)
  | _ => none

/-- The rows that share a trigger port, told apart by the moved value (R333, R346, R350, R372). (DEDUCED, log 19.) -/
noncomputable def refine (v : Dword) : Instr → Instr
  | .barInit m => if v.getLsbD 31 then .barRelease m else .barInit m
  | .waitCycle m => match v.toNat % 16 with | 1 => .waitTdone m | 2 => .waitBarrier m | _ => .waitCycle m
  | .tlbFixMapped m => match v.toNat % 4 with | 1 => .tlbFixUnmappable m | 2 => .tlbFixMigrated m | _ => .tlbFixMapped m
  | .linkDrain m => match v.toNat / 256 % 16 with | 1 => .linkRelock m | 2 => .linkSwitch m | 3 => .linkKdue m | 4 => .linkDownCommand m | _ => .linkDrain m
  | i => i

/-- The trigger or queue push that a destination port names, or nothing (R310). -/
noncomputable def decodeTrigger (m : Mv) (d : BitVec 10) : Option Instr :=
  let n := d.toNat
  if 0x0B0 ≤ n ∧ n ≤ 0x0B7 then some (.xcl m (d.extractLsb' 0 3))
  else if 0x0C0 ≤ n ∧ n ≤ 0x0EF then vecCompare m (d.extractLsb' 4 2) (n % 16)
  else if 0x0F8 ≤ n ∧ n ≤ 0x0FB then some (.queuePush m (d.extractLsb' 0 2))
  else if 0x1C0 ≤ n ∧ n ≤ 0x1EF then scalCompare m (d.extractLsb' 4 2) (n % 16)
  else if 0x200 ≤ n ∧ n ≤ 0x23F then copyTrigger m (d.extractLsb' 3 3) (n % 8)
  else if 0x250 ≤ n ∧ n ≤ 0x253 then some (.queuePushShared m (d.extractLsb' 0 2))
  else if 0x260 ≤ n ∧ n ≤ 0x27F then some (.rputSt m (d.extractLsb' 0 5))
  else if 0x280 ≤ n ∧ n ≤ 0x29F then some (.rredSt m (d.extractLsb' 0 5))
  else if 0x2A0 ≤ n ∧ n ≤ 0x2BF then some (.ratomSt m (d.extractLsb' 0 5))
  else (lookupTrigger n triggers).map (fun f => f m)

/-- A slot whose destination is a register, an operand latch or discard, by its source (R289, Tables 12.2 and 12.8). -/
def decodeSource (m : Mv) (d : BitVec 10) : Instr :=
  let n := m.s.toNat
  let k := m.s.extractLsb' 0 2
  if 0x080 ≤ n ∧ n ≤ 0x083 then .queuePop m.g m.e m.h k d
  else if 0x084 ≤ n ∧ n ≤ 0x087 then .queuePeek m.g m.e m.h k d
  else if 0x150 ≤ n ∧ n ≤ 0x153 then .queuePopShared m.g m.e m.h k d
  else if 0x154 ≤ n ∧ n ≤ 0x157 then .queuePeekShared m.g m.e m.h k d
  else if d = 0 then .discardMove m
  else .move m d

/-- The instruction of a slot whose move carries v; none for a reserved destination (R310). (DEDUCED, log 19.) -/
noncomputable def decodeSlot (w : BitVec 24) (v : Dword) : Option Instr :=
  if slotG w = 7 then some (.immediateCarrier (w.extractLsb' 0 21))
  else if slotS w = 0 ∧ slotD w = 0 then some (.nop (slotG w) (slotE w) (slotH w))
  else match decodeTrigger (slotMv w) (slotD w) with
    | some i => some (refine v i)
    | none =>
      if isPlainDest (slotD w) then some (decodeSource (slotMv w) (slotD w)) else none

/-- The value of a source port whose value is fixed by its number (Tables 11.4 and 12.9). -/
def constPort (s : BitVec 9) : Option Dword :=
  let n := s.toNat
  if 0x1C0 ≤ n ∧ n ≤ 0x1CF then some (BitVec.ofNat 64 (n - 0x1C0))
  else if 0x1D0 ≤ n ∧ n ≤ 0x1DF then some (BitVec.ofInt 64 ((n : Int) - 0x1E0))
  else if n = 0x1F0 then some 0
  else if n = 0x1F1 then some 1
  else if n = 0x1F9 then some 0x3F800000
  else if n = 0x1FA then some (BitVec.allOnes 64)
  else none

/-- The instruction of a slot as far as the slot alone tells it. -/
noncomputable def decodeWord (w : BitVec 24) : Option Instr :=
  decodeSlot w ((constPort (slotS w)).getD 0)

/-- A slot from its fields (Table 11.1). -/
def slotWord (g : BitVec 3) (e h : Bool) (s : BitVec 9) (d : BitVec 10) : BitVec 24 :=
  g ++ (BitVec.ofBool e ++ (BitVec.ofBool h ++ (s ++ d)))

/-- A move slot into port d. -/
def mvWord (m : Mv) (d : BitVec 10) : BitVec 24 := slotWord m.g m.e m.h m.s d

/-- A word of the opcode table as the hardware stores it: a slot of 24 bits; none for a step of the machine. -/
noncomputable def decodeTableWord (nbits w : Nat) : Option Instr :=
  if nbits = 24 then decodeWord (BitVec.ofNat 24 w) else none

/-- The slot of a well-formed instruction; none for a step of the machine, which has no encoding. -/
def encode : Instr → Option (BitVec 24)
  | .moduleReset => none
  | .sillFirmwareVerify _ => none
  | .bringupComplete _ => none
  | .identCmd => none
  | .statusCmd => none
  | .openCmd _ => none
  | .closeCmd => none
  | .scrubCmd => none
  | .recordsCmd => none
  | .attestCmd _ => none
  | .fwupd _ => none
  | .svncommit _ => none
  | .recalCmd _ => none
  | .drainCmd _ => none
  | .undrainCmd _ => none
  | .readcnt => none
  | .sessionClosingEnd => none
  | .scrubComplete => none
  | .workRingPoll => none
  | .nopRequest _ => none
  | .unknownRequest _ => none
  | .klaunch _ => none
  | .kernelLoadComplete => none
  | .taskRequest _ => none
  | .closeRequest _ => none
  | .taskForm _ => none
  | .dispatcherBinDrain => none
  | .tileStepPlace => none
  | .gangPlace => none
  | .tileStepRetire _ _ => none
  | .trussBalance _ => none
  | .occupancySample => none
  | .coreMoveTakeEffect _ => none
  | .bundleIssue _ _ => none
  | .dovetailSeat _ => none
  | .dovetailRotation _ => none
  | .dovetailRoleSwap _ => none
  | .freezeCycle _ => none
  | .longLatencyArrival _ _ _ => none
  | .trapDelivery _ _ => none
  | .timerExpiry _ _ => none
  | .kChunkDrain _ => none
  | .imageSaveComplete _ => none
  | .eccCorrected _ => none
  | .eccUncorrectable _ => none
  | .phaseOpen _ => none
  | .engineCommandAccept _ _ => none
  | .copyEligible _ _ _ => none
  | .copyPiece _ _ => none
  | .copyComplete _ _ _ => none
  | .tlbWalk _ _ => none
  | .streamArrival _ => none
  | .refusedResend _ => none
  | .commitAcknowledgement _ => none
  | .readRequest _ => none
  | .readData _ => none
  | .collectiveContribution _ => none
  | .setupContribution _ => none
  | .channelElement _ => none
  | .channelCredit _ => none
  | .operationUnreachable _ => none
  | .dataFlitSend _ => none
  | .idleFlitSend _ => none
  | .dataFlit _ _ => none
  | .ack _ _ => none
  | .retryreq _ _ => none
  | .creditFlit _ _ => none
  | .keymark _ _ => none
  | .drainFlit _ _ => none
  | .hello _ _ => none
  | .unknownFlit _ _ => none
  | .linkLockLoss _ => none
  | .linkSilenceTimeout _ => none
  | .rdmaWrite _ _ _ _ => none
  | .rdmaRead _ _ _ _ => none
  | .rdmaInvalidRequest _ => none
  | .thermalLimitStep => none
  | .thermalShutdown => none
  | .loaderFillBegin _ _ => none
  | .tileFillComplete _ _ => none
  | .storerDrainComplete _ _ => none
  | .tileReleaseEffect _ _ => none
  | .overflowRefill _ => none
  | .arrayPassDue _ => none
  | .mstartGBegin _ => none
  | .epilogueComplete _ => none
  | .releaseComplete _ _ => none
  | .nop g e h => some (slotWord g e h 0 0)
  | .immediateCarrier i => some ((7 : BitVec 3) ++ i)
  | .discardMove m => some (mvWord m 0)
  | .move m d => some (mvWord m d)
  | .queuePush m k => some (mvWord m ((0x3E : BitVec 8) ++ k))
  | .queuePushShared m k => some (mvWord m ((0x94 : BitVec 8) ++ k))
  | .queuePop g e h k d => some (slotWord g e h ((0x20 : BitVec 7) ++ k) d)
  | .queuePopShared g e h k d => some (slotWord g e h ((0x54 : BitVec 7) ++ k) d)
  | .queuePeek g e h k d => some (slotWord g e h ((0x21 : BitVec 7) ++ k) d)
  | .queuePeekShared g e h k d => some (slotWord g e h ((0x55 : BitVec 7) ++ k) d)
  | .vadd m => some (mvWord m 0x080)
  | .vsub m => some (mvWord m 0x081)
  | .vadds m => some (mvWord m 0x082)
  | .vsubs m => some (mvWord m 0x083)
  | .vmin m => some (mvWord m 0x084)
  | .vmax m => some (mvWord m 0x085)
  | .vminu m => some (mvWord m 0x086)
  | .vmaxu m => some (mvWord m 0x087)
  | .vand m => some (mvWord m 0x088)
  | .vor m => some (mvWord m 0x089)
  | .vxor m => some (mvWord m 0x08A)
  | .vandn m => some (mvWord m 0x08B)
  | .vshl m => some (mvWord m 0x08C)
  | .vshr m => some (mvWord m 0x08D)
  | .vsra m => some (mvWord m 0x08E)
  | .vsel m => some (mvWord m 0x08F)
  | .vclz m => some (mvWord m 0x090)
  | .vpopc m => some (mvWord m 0x091)
  | .vfadd m => some (mvWord m 0x092)
  | .vfsub m => some (mvWord m 0x093)
  | .vfmin m => some (mvWord m 0x094)
  | .vfmax m => some (mvWord m 0x095)
  | .vfabs m => some (mvWord m 0x096)
  | .vfneg m => some (mvWord m 0x097)
  | .vaddB m => some (mvWord m 0x098)
  | .vsubB m => some (mvWord m 0x099)
  | .vaddsB m => some (mvWord m 0x09A)
  | .vsubsB m => some (mvWord m 0x09B)
  | .vminB m => some (mvWord m 0x09C)
  | .vmaxB m => some (mvWord m 0x09D)
  | .vminuB m => some (mvWord m 0x09E)
  | .vmaxuB m => some (mvWord m 0x09F)
  | .vandB m => some (mvWord m 0x0A0)
  | .vorB m => some (mvWord m 0x0A1)
  | .vxorB m => some (mvWord m 0x0A2)
  | .vandnB m => some (mvWord m 0x0A3)
  | .vshlB m => some (mvWord m 0x0A4)
  | .vshrB m => some (mvWord m 0x0A5)
  | .vsraB m => some (mvWord m 0x0A6)
  | .vselB m => some (mvWord m 0x0A7)
  | .vclzB m => some (mvWord m 0x0A8)
  | .vpopcB m => some (mvWord m 0x0A9)
  | .vfaddB m => some (mvWord m 0x0AA)
  | .vfsubB m => some (mvWord m 0x0AB)
  | .vfminB m => some (mvWord m 0x0AC)
  | .vfmaxB m => some (mvWord m 0x0AD)
  | .vfabsB m => some (mvWord m 0x0AE)
  | .vfnegB m => some (mvWord m 0x0AF)
  | .vcmpEq m p => some (mvWord m ((3 : BitVec 4) ++ (p ++ (0 : BitVec 4))))
  | .vcmpNe m p => some (mvWord m ((3 : BitVec 4) ++ (p ++ (1 : BitVec 4))))
  | .vcmpLt m p => some (mvWord m ((3 : BitVec 4) ++ (p ++ (2 : BitVec 4))))
  | .vcmpLe m p => some (mvWord m ((3 : BitVec 4) ++ (p ++ (3 : BitVec 4))))
  | .vcmpLtu m p => some (mvWord m ((3 : BitVec 4) ++ (p ++ (4 : BitVec 4))))
  | .vcmpLeu m p => some (mvWord m ((3 : BitVec 4) ++ (p ++ (5 : BitVec 4))))
  | .vcmpFeq m p => some (mvWord m ((3 : BitVec 4) ++ (p ++ (6 : BitVec 4))))
  | .vcmpFlt m p => some (mvWord m ((3 : BitVec 4) ++ (p ++ (7 : BitVec 4))))
  | .vcmpFle m p => some (mvWord m ((3 : BitVec 4) ++ (p ++ (8 : BitVec 4))))
  | .vcmpFun m p => some (mvWord m ((3 : BitVec 4) ++ (p ++ (9 : BitVec 4))))
  | .vmul m => some (mvWord m 0x010)
  | .vmulh m => some (mvWord m 0x011)
  | .vmulhu m => some (mvWord m 0x012)
  | .vmad m => some (mvWord m 0x013)
  | .vfmul m => some (mvWord m 0x014)
  | .vffma m => some (mvWord m 0x015)
  | .vffms m => some (mvWord m 0x016)
  | .vfnma m => some (mvWord m 0x017)
  | .vsin m => some (mvWord m 0x018)
  | .vcos m => some (mvWord m 0x019)
  | .vexp2 m => some (mvWord m 0x01A)
  | .vlog2 m => some (mvWord m 0x01B)
  | .vrcp m => some (mvWord m 0x01C)
  | .vrsqrt m => some (mvWord m 0x01D)
  | .vsqrt m => some (mvWord m 0x01E)
  | .vcvtF32I32 m => some (mvWord m 0x020)
  | .vcvtI32F32 m => some (mvWord m 0x021)
  | .vcvtF32Bf16 m => some (mvWord m 0x022)
  | .vcvtBf16F32 m => some (mvWord m 0x023)
  | .vcvtF32F16 m => some (mvWord m 0x024)
  | .vcvtF16F32 m => some (mvWord m 0x025)
  | .vcvtF32E4m3 m => some (mvWord m 0x026)
  | .vcvtE4m3F32 m => some (mvWord m 0x027)
  | .vcvtF32E5m2 m => some (mvWord m 0x028)
  | .vcvtE5m2F32 m => some (mvWord m 0x029)
  | .vcvtF32Fp4 m => some (mvWord m 0x02A)
  | .vcvtFp4F32 m => some (mvWord m 0x02B)
  | .vdecOx4 m => some (mvWord m 0x02C)
  | .vfscale m => some (mvWord m 0x02D)
  | .vld m => some (mvWord m 0x030)
  | .vst m => some (mvWord m 0x031)
  | .vgld m => some (mvWord m 0x032)
  | .vsct m => some (mvWord m 0x033)
  | .shuf m => some (mvWord m 0x038)
  | .shufLd m => some (mvWord m 0x039)
  | .vredadd m => some (mvWord m 0x03A)
  | .vredmin m => some (mvWord m 0x03B)
  | .vredmax m => some (mvWord m 0x03C)
  | .vbcast m => some (mvWord m 0x03D)
  | .xcl m j => some (mvWord m ((0x16 : BitVec 7) ++ j))
  | .add m => some (mvWord m 0x160)
  | .sub m => some (mvWord m 0x161)
  | .and m => some (mvWord m 0x162)
  | .or m => some (mvWord m 0x163)
  | .xor m => some (mvWord m 0x164)
  | .andn m => some (mvWord m 0x165)
  | .shl m => some (mvWord m 0x166)
  | .shr m => some (mvWord m 0x167)
  | .sra m => some (mvWord m 0x168)
  | .min m => some (mvWord m 0x169)
  | .max m => some (mvWord m 0x16A)
  | .minu m => some (mvWord m 0x16B)
  | .maxu m => some (mvWord m 0x16C)
  | .clz m => some (mvWord m 0x16D)
  | .ctz m => some (mvWord m 0x16E)
  | .popc m => some (mvWord m 0x16F)
  | .bfx m => some (mvWord m 0x170)
  | .bfxu m => some (mvWord m 0x171)
  | .bfi m => some (mvWord m 0x172)
  | .sel m => some (mvWord m 0x173)
  | .lea m => some (mvWord m 0x174)
  | .sext m => some (mvWord m 0x175)
  | .zext m => some (mvWord m 0x176)
  | .sbase m => some (mvWord m 0x177)
  | .addB m => some (mvWord m 0x180)
  | .subB m => some (mvWord m 0x181)
  | .andB m => some (mvWord m 0x182)
  | .orB m => some (mvWord m 0x183)
  | .xorB m => some (mvWord m 0x184)
  | .andnB m => some (mvWord m 0x185)
  | .shlB m => some (mvWord m 0x186)
  | .shrB m => some (mvWord m 0x187)
  | .sraB m => some (mvWord m 0x188)
  | .minB m => some (mvWord m 0x189)
  | .maxB m => some (mvWord m 0x18A)
  | .minuB m => some (mvWord m 0x18B)
  | .maxuB m => some (mvWord m 0x18C)
  | .clzB m => some (mvWord m 0x18D)
  | .ctzB m => some (mvWord m 0x18E)
  | .popcB m => some (mvWord m 0x18F)
  | .bfxB m => some (mvWord m 0x190)
  | .bfxuB m => some (mvWord m 0x191)
  | .bfiB m => some (mvWord m 0x192)
  | .selB m => some (mvWord m 0x193)
  | .leaB m => some (mvWord m 0x194)
  | .sextB m => some (mvWord m 0x195)
  | .zextB m => some (mvWord m 0x196)
  | .sbaseB m => some (mvWord m 0x197)
  | .cmpEq m p => some (mvWord m ((7 : BitVec 4) ++ (p ++ (0 : BitVec 4))))
  | .cmpNe m p => some (mvWord m ((7 : BitVec 4) ++ (p ++ (1 : BitVec 4))))
  | .cmpLt m p => some (mvWord m ((7 : BitVec 4) ++ (p ++ (2 : BitVec 4))))
  | .cmpLe m p => some (mvWord m ((7 : BitVec 4) ++ (p ++ (3 : BitVec 4))))
  | .cmpLtu m p => some (mvWord m ((7 : BitVec 4) ++ (p ++ (4 : BitVec 4))))
  | .cmpLeu m p => some (mvWord m ((7 : BitVec 4) ++ (p ++ (5 : BitVec 4))))
  | .mul m => some (mvWord m 0x1A0)
  | .mulh m => some (mvWord m 0x1A1)
  | .mulhu m => some (mvWord m 0x1A2)
  | .mad m => some (mvWord m 0x1A3)
  | .div m => some (mvWord m 0x1A4)
  | .divu m => some (mvWord m 0x1A5)
  | .rem m => some (mvWord m 0x1A6)
  | .remu m => some (mvWord m 0x1A7)
  | .ldW m => some (mvWord m 0x1B0)
  | .ldD m => some (mvWord m 0x1B1)
  | .stW m => some (mvWord m 0x1B2)
  | .stD m => some (mvWord m 0x1B3)
  | .ldAcq m => some (mvWord m 0x1B4)
  | .stRel m => some (mvWord m 0x1B5)
  | .amoAdd m => some (mvWord m 0x1B6)
  | .amoAnd m => some (mvWord m 0x1B7)
  | .amoOr m => some (mvWord m 0x1B8)
  | .amoMin m => some (mvWord m 0x1B9)
  | .amoMax m => some (mvWord m 0x1BA)
  | .amoSwap m => some (mvWord m 0x1BB)
  | .amoCas m => some (mvWord m 0x1BC)
  | .barInit m => some (mvWord m 0x1BD)
  | .barRelease m => some (mvWord m 0x1BD)
  | .barArr m => some (mvWord m 0x1BE)
  | .barExp m => some (mvWord m 0x1BF)
  | .copy m n => some (mvWord m ((8 : BitVec 4) ++ (n ++ (0 : BitVec 3))))
  | .copyTr8 m n => some (mvWord m ((8 : BitVec 4) ++ (n ++ (1 : BitVec 3))))
  | .copyTr16 m n => some (mvWord m ((8 : BitVec 4) ++ (n ++ (2 : BitVec 3))))
  | .copyNd m n => some (mvWord m ((8 : BitVec 4) ++ (n ++ (3 : BitVec 3))))
  | .rget m n => some (mvWord m ((8 : BitVec 4) ++ (n ++ (4 : BitVec 3))))
  | .vatom m n => some (mvWord m ((8 : BitVec 4) ++ (n ++ (5 : BitVec 3))))
  | .rputSt m t => some (mvWord m ((0x13 : BitVec 5) ++ t))
  | .rredSt m t => some (mvWord m ((0x14 : BitVec 5) ++ t))
  | .ratomSt m t => some (mvWord m ((0x15 : BitVec 5) ++ t))
  | .gather m => some (mvWord m 0x24B)
  | .scatter m => some (mvWord m 0x24C)
  | .fmtWr m => some (mvWord m 0x259)
  | .cprog m => some (mvWord m 0x2C4)
  | .cflow m => some (mvWord m 0x2C5)
  | .cskew m => some (mvWord m 0x2C6)
  | .cld m => some (mvWord m 0x2C7)
  | .cst m => some (mvWord m 0x2C8)
  | .mstart m => some (mvWord m 0x2C9)
  | .mstartG m => some (mvWord m 0x2CA)
  | .mzero m => some (mvWord m 0x2CB)
  | .mdrain m => some (mvWord m 0x2D4)
  | .mepi m => some (mvWord m 0x2D5)
  | .mepiAcc m => some (mvWord m 0x2D6)
  | .mepiRm m => some (mvWord m 0x2D7)
  | .tileDecl m => some (mvWord m 0x2E2)
  | .tileSub m => some (mvWord m 0x2E3)
  | .tileRel m => some (mvWord m 0x2E4)
  | .tileStat m => some (mvWord m 0x2E5)
  | .chPost m => some (mvWord m 0x2EA)
  | .chWait m => some (mvWord m 0x2EB)
  | .jmp m => some (mvWord m 0x301)
  | .jmpR m => some (mvWord m 0x302)
  | .call m => some (mvWord m 0x303)
  | .loopSet m => some (mvWord m 0x30B)
  | .loopBody m => some (mvWord m 0x30C)
  | .repeatOp m => some (mvWord m 0x30D)
  | .waitCycle m => some (mvWord m 0x312)
  | .waitTdone m => some (mvWord m 0x312)
  | .waitBarrier m => some (mvWord m 0x312)
  | .yield m => some (mvWord m 0x313)
  | .halt m => some (mvWord m 0x314)
  | .trapOp m => some (mvWord m 0x315)
  | .breakOp m => some (mvWord m 0x316)
  | .eret m => some (mvWord m 0x317)
  | .phase m => some (mvWord m 0x318)
  | .fence m => some (mvWord m 0x319)
  | .fenceQ m => some (mvWord m 0x31A)
  | .fenceSt m => some (mvWord m 0x31B)
  | .taskPost m => some (mvWord m 0x31C)
  | .taskDone m => some (mvWord m 0x31D)
  | .csrRd m => some (mvWord m 0x31E)
  | .csrWr m => some (mvWord m 0x31F)
  | .codeMark m => some (mvWord m 0x320)
  | .timer m => some (mvWord m 0x321)
  | .tlbInv m => some (mvWord m 0x322)
  | .tlbFixMapped m => some (mvWord m 0x323)
  | .tlbFixUnmappable m => some (mvWord m 0x323)
  | .tlbFixMigrated m => some (mvWord m 0x323)
  | .coreSave m => some (mvWord m 0x324)
  | .coreLoad m => some (mvWord m 0x325)
  | .lnkKey m => some (mvWord m 0x326)
  | .lnkGet m => some (mvWord m 0x327)
  | .linkDrain m => some (mvWord m 0x328)
  | .linkRelock m => some (mvWord m 0x328)
  | .linkSwitch m => some (mvWord m 0x328)
  | .linkKdue m => some (mvWord m 0x328)
  | .linkDownCommand m => some (mvWord m 0x328)
  | .rtWr m => some (mvWord m 0x329)
  | .chWr m => some (mvWord m 0x32A)
  | .lnkSvc m => some (mvWord m 0x32B)
  | .perfClr m => some (mvWord m 0x32C)
  | .referenceClockCycle => none
  | .meshStorePerformed _ _ _ => none
  | .ceCommandDuePoint _ => none
  | .idleFlit _ _ => none
  | .hostRdmaResponse _ _ => none
  | .sillPreemptionRequest _ _ => none

/-- The port that a move of this instruction writes, and its guard, empty, hold and source fields; none for a NOP, a
carrier and the steps of the machine. -/
def moveOf (i : Instr) : Option (Mv × BitVec 10) :=
  match i with
  | .nop .. => none
  | .immediateCarrier _ => none
  | i => (encode i).map (fun w => (slotMv w, slotD w))

end Sys2Proof
end

