-- ==== Sys2Proof/Config.lean ====
section
/-!
DEFINITION. What an implementation fixes and the spec does not: constants without a body, so that nothing can be
proved about their values.
-/

namespace Sys2Proof.Config

/-- Set of the main TLB array that holds a page, from its level and base (R106 fixes 512 sets of 8, not the hash).
(DESIGN CHOICE, log 9.) -/
opaque tlbSet : Nat → Dword → Nat
/-- Remote key of a session, by the value of the fresh counter (R262). (DESIGN CHOICE, log 10.) -/
opaque sessionKey : Nat → BitVec 32
/-- Nonzero start of the serial and key material in fuses: the certificate serial number (R283). (DESIGN CHOICE, log 11.) -/
opaque certificateSerial : Dword
/-- Signature of an attestation report (R283): of the report's bytes. (DESIGN CHOICE, log 11.) -/
opaque attestSignature : List Byte → BitVec 3072
/-- Fused minimum SVN of an image kind at module reset (R282). (DESIGN CHOICE, log 15.) -/
opaque fusedMinSvn : Nat → Word
/-- The vendor key whose SHA-256 is fused into the module (R282): modulus and public exponent. (DESIGN CHOICE, log 11.) -/
opaque firmwareKey : Nat × Nat
/-- Cycles that a live service takes, by its item (0 Sill firmware, 1 walk-unit microcode, 2 link tables, 3 HBM retraining)
and the value of the fresh counter; Table 10.7 gives bounds only. (DESIGN CHOICE, log 62.) -/
opaque serviceCycles : Nat → Nat → Nat
/-- What the Sill writes to the PWRLIM of a core at a step of its power control, by the value of the fresh counter and the
core; nothing where it leaves PWRLIM alone (R286 gives no rule for the value). (DESIGN CHOICE, log 62.) -/
opaque powerLimit : Nat → Nat → Option (BitVec 16)

/-- CODE of the error record of a tile step whose image is lost and cannot be replayed (R259, R20 give none), by the value of
the fresh counter. (DESIGN CHOICE, log 82.) -/
opaque lostImageCode : Nat → BitVec 8
/-- AUX of an ECC.UNCORR record: the code of a memory kind, which Table 10.2 names and gives no values, by the number of
`Machine.MemKind` (DESIGN CHOICE, log 11). -/
opaque memoryKind : Nat → BitVec 8

/-- CR of a firing in format-table mode (R394, R395: Table 15.2 gives the combine result for TY 0 and TY 1 only), by the
format-table entry and the words that SX and SY select. (DESIGN CHOICE, log 69.) -/
opaque formatCr : Dword → Word → Word → Word

/-- AUX of an address trap whose access size is no power of two (Table 2.8 gives log2 of the size), by the size.
(DESIGN CHOICE, log 17.) -/
opaque oddSizeAux : Nat → BitVec 8

/-- Value of a shift of an assembly expression by a negative count (R299 gives none): right shift, value, count.
(DESIGN CHOICE, log 68.) -/
opaque negativeShift : Bool → Dword → Dword → Dword
/-- Value field of the SYMBOL entry of an external symbol (Table 11.11 gives none), by its name. (DESIGN CHOICE, log 68.) -/
opaque symbolValue : List Char → Dword

end Sys2Proof.Config
end

