-- ==== Sys2Proof/Machine/State.lean ====
section
/-!
DEFINITION. The state of the machine as plain data: everything the spec gives the device (INVENTORY.md, ## State),
and the model's own bookkeeping fields, each marked with its log entry.
-/

namespace Sys2Proof.Machine

/-! ## What a context owns (02_registers.md) -/

/-- An operand latch: value, valid bit and hold bit (R55). Scalar values stand in bits [63:0].
(DESIGN CHOICE, log 13.) -/
structure Latch where
  val   : Line := 0
  valid : Bool := false
  hold  : Bool := false
  deriving DecidableEq, Repr

/-- Where a due-buffer record lands (R58, R59, R360). -/
inductive DueDst where
  /-- A result latch, by its key (source port + 1024 * cluster for a cluster-local port). -/
  | latch (key : Nat)
  /-- An s register (a load of the own slice). -/
  | sreg (n : Nat)
  /-- A v register of a cluster (a `vld` or `vgld` of the own slice). -/
  | vreg (cluster n : Nat)
  /-- The scalar guard pair p (a compare). -/
  | qpair (p : Nat)
  /-- The vector guard pair p of a cluster (a compare). -/
  | gpair (cluster p : Nat)
  deriving DecidableEq, Repr

/-- A due-buffer record (Table 2.3): tag, destination, value, lane mask and ACFLAGS bits. -/
structure DueRec where
  due   : Dword
  dst   : DueDst
  val   : Line
  mask  : BitVec 16
  flags : BitVec 6
  deriving DecidableEq, Repr

/-- Atomic operations (Table 16.4; the S-space atomics of R371 are the first seven). -/
inductive AtomicOp where
  | add | and | or | min | max | swap | cas | fadd | minu | maxu
  deriving DecidableEq, Repr

/-- Where a long-latency value lands (R50). -/
inductive LateDst where
  | sreg (n : Nat) (sys : Bool)
  | vreg (cluster n : Nat) (mask : BitVec 16)
  deriving DecidableEq, Repr

/-- What a long-latency access still has to do (R50, R82, R129). -/
inductive LateKind where
  /-- A load of another slice: bytes at an address; `overlay` holds the phase-buffer bytes taken at issue (R368). -/
  | load (addr bytes : Nat) (overlay : List Host.Cell)
  /-- A vector load with a lane in another slice: lane and address pairs; `overlay` holds the bytes taken at issue, those of
  the phase write buffer and of the own slice. -/
  | vload (lanes : List (Nat × Nat)) (overlay : List Host.Cell)
  /-- A plain store to IMMEDIATE memory of another slice (R129). -/
  | store (cells : List Host.Cell)
  /-- An atomic of another slice (R371). -/
  | amo (op : AtomicOp) (addr : Nat) (word : Bool) (x e : Dword)
  /-- A change of a barrier word of another slice (R372): 0 init, 1 release, 2 expectation, 3 arrival. -/
  | bar (op addr : Nat) (v : Word)
  /-- A value already fixed that waits to land. -/
  | value (v : Line)
  /-- A value that an engine or a channel will bring; `serial` names the command. -/
  | engine (serial : Nat)
  deriving DecidableEq, Repr

/-- A long-latency access under way. -/
structure Late where
  kind     : LateKind
  dst      : Option LateDst
  issued   : Dword
  earliest : Dword
  /-- A load-acquire: later accesses of the context wait for its value (R370, R371). -/
  acq      : Bool
  /-- Its place in program order (R117): commands of the context from this serial on are later. -/
  order    : Nat := 0
  deriving DecidableEq, Repr

/-- Context states (Table 1.11). -/
inductive CtxState where
  | idle | ready | seated | blocked | system | dead
  deriving DecidableEq, Repr

/-- Why a context is BLOCKED: the condition under which it becomes READY (R39, R51, R158, R165, R202, R326). -/
inductive Block where
  | no
  /-- Registers that must be full: s register n as n, v register n of cluster c as 64 + 64*c + n, system copy n as 1024 + n. -/
  | regs (keys : List Nat)
  | queueFull (units : List Nat)
  | tileReady (tile : Nat)
  | tileDecl (tile : Nat)
  | popEmpty (k : Nat)
  | waitCycle (t : Dword)
  | waitTdone (ch : Nat) (id : BitVec 32)
  | waitBarrier (addr : Nat) (ph : Bool)
  | phase
  | halt
  deriving DecidableEq, Repr

/-- What follows the completion of a release (R131, R370-R372). -/
inductive After where
  | nothing
  | store (addr bytes : Nat) (data : Dword)
  | amo (op : AtomicOp) (addr : Nat) (word : Bool) (x e : Dword) (dst : Nat) (sys acq : Bool)
  | barArr (addr : Nat) (v : Word)
  deriving DecidableEq, Repr

/-- What a context completes by issuing empty bundles (R131, R326, R339, R345). -/
inductive Completing where
  /-- `order` is its place in program order (R117): commands of the context from this serial on are later. -/
  | release (scope : Nat) (after : After) (order : Nat)
  | fenceSt (mask : BitVec 32) (order : Nat)
  /-- `tlb.inv`: size code and address, the walks under way when it issued, and the numbers of the engine accesses to host
  windows then under way through a removed entry (R345). -/
  | tlbInv (code : Nat) (va : Dword) (walks : List (Nat × Dword × Dword)) (hosts : List Nat)
  /-- `task.done` before it issues (R64). -/
  | taskDone
  deriving DecidableEq, Repr

/-- A marker left by `fence.q` (R137): commands pushed later into a named unit wait for those pushed before. -/
structure FenceMark where
  serial : Nat
  mask   : BitVec 15
  deriving DecidableEq, Repr

/-- One plane of latches and due buffer (R45). (DESIGN CHOICE, log 13.) -/
structure Plane where
  pc      : BitVec 13 := 0
  cyc     : Dword := 0
  latches : Tab Latch := []
  results : Tab Line := []
  due     : List DueRec := []
  deriving DecidableEq, Repr

/-- A context (Table 2.1, Table 2.4, R39). -/
structure Ctx where
  /-- s0-s63 and, at 64-71, the system copies of s56-s63 (R46). -/
  sreg : Tab Dword := []
  /-- v register n of cluster k at 64*k + n (R48). -/
  vreg : Tab Line := []
  /-- Empty registers, as keys of `Block.regs` (R50); a key that is listed with true is empty. -/
  empty : Tab Bool := []
  /-- g register n of cluster k at 8*k + n (R53). -/
  g : Tab (BitVec 16) := []
  /-- q registers by number (R53). -/
  q : Tab Bool := []
  user : Plane := {}
  sys  : Plane := {}
  /-- MODE.SYS (Table 2.6). -/
  modeSys : Bool := false
  trapCause : BitVec 8 := 0
  trapPc : BitVec 13 := 0
  trapInfo : Dword := 0
  acflags : BitVec 6 := 0
  loopctr : Tab Word := []
  fmtFix : BitVec 4 := 0
  fmtLevel : BitVec 4 := 0xF
  qstall : Tab Word := []
  qmode : BitVec 15 := 0
  strStream : BitVec 5 := 0
  strDest : BitVec 11 := 0
  /-- Next sequence number of (stream, destination) at 2048*stream + destination (R141). -/
  strNext : Tab (BitVec 24) := []
  strFence : BitVec 32 := 0
  /-- Uncommitted operations of (stream, destination), same key (R141). -/
  uncommitted : Tab Nat := []
  dirtymap : BitVec 37 := 0
  /-- Loop-table entries by level (Table 6.6). -/
  loops : Tab (BitVec 128) := []
  /-- Format-table entries (Table 6.3). -/
  fmt : Tab Dword := []
  state : CtxState := .idle
  block : Block := .no
  /-- The context holds a seat of the Dovetail (R178; a SYSTEM context keeps its seat). -/
  seatedNow : Bool := false
  /-- CYCLE since which it is READY, and SEATED (R178, R179). (DESIGN CHOICE, log 18.) -/
  readySince : Dword := 0
  seatedSince : Dword := 0
  /-- What the context completes, in the order of the slots that asked for it; empty when nothing. -/
  completing : List Completing := []
  /-- Line accesses that the banks of the own slice have granted the waiting bundle, and cycles in a row in which each bank
  went to the other seated context instead, by bank (R83). -/
  grants : Tab Nat := []
  bankLost : Tab Nat := []
  /-- Halted on the system plane (R250). -/
  sysHalted : Bool := false
  /-- Halted by `halt` on the user plane (R335). -/
  userHalted : Bool := false
  /-- Pending flags with the TRAPINFO each will write, by cause code (R246). -/
  pend : Tab (Option Dword) := []
  /-- PREEMPT pending (R252). -/
  preempt : Bool := false
  /-- Stopped at a bundle boundary for an image save (R253 step 1). -/
  stopped : Bool := false
  /-- The armed deadline of the timer (R344). -/
  timer : Option Dword := none
  late : List Late := []
  /-- The tile step the context holds, by its number. -/
  step : Option Nat := none
  /-- Cores of the pre-emption request for which the context holds its bundle (R347). -/
  saveReq : Option (List Nat) := none
  /-- `task.done` has issued (R341). -/
  doneIssued : Bool := false
  fences : List FenceMark := []
  /-- Serials, with their units, of engine commands not yet complete. -/
  live : List (Nat × Nat) := []
  /-- Serials of commands with ORD 1 or 3 not yet performed: they hold later accesses (R426). -/
  acquireHold : List Nat := []
  /-- Collective last posted on each ring channel: channel and SEQ (R441). -/
  posted : Tab (Option (BitVec 24)) := []
  /-- CYCLE at which the context became BLOCKED, for capture (Table 7.5). -/
  blockedSince : Dword := 0
  /-- Units whose full lenient queues hold the context's bundle back in this cycle (R158, R207). -/
  stalls : List Nat := []
  deriving DecidableEq, Repr

/-! ## Engine commands (15, 16) -/

/-- A command of an engine unit with its captured operands. -/
inductive CmdOp where
  | copy (src dst ctl t : Dword)
  | copyTr8 (src dst ctl t : Dword)
  | copyTr16 (src dst ctl t : Dword)
  | copyNd (src dst ctl t : Dword)
  | rget (rsrc dst ctl t : Dword)
  | vatom (va x ctl e : Dword)
  | rput (stream : BitVec 5) (src rdst ctl t : Dword)
  | rred (stream : BitVec 5) (src rdst ctl t : Dword)
  | ratom (stream : BitVec 5) (rva x ctl e : Dword)
  | gather (base idx ctl dst : Dword)
  | scatter (base idx ctl src : Dword)
  | fmtWr (val ix : Dword)
  | cprog (addr : Dword)
  | cflow (w : Dword)
  | cskew (w : Dword)
  | cld (base w : Dword)
  | cst (base w : Dword)
  /-- `mstart` and `mstart.g` (`group` numbers the latter from placement); rows of SRC 1 operands are carried. -/
  | mstart (a0 a1 b0 b1 : Dword) (rowsA rowsB : List Line) (fix : Nat) (group : Option Nat)
  | mzero (reg : Dword)
  | mdrain (reg dst w : Dword)
  | mepi (reg dst w : Dword) (fix : Nat)
  | mepiAcc (reg dst w : Dword) (fix : Nat)
  | mepiRm (reg va rw w : Dword) (fix : Nat)
  | tileDecl (geo size v : Dword)
  | tileSub (ld st v : Dword)
  /-- `tile.rel` with the slot that triggered it, for its deferred fault (Table 9.2). -/
  | tileRel (v : Dword) (slot : Nat)
  /-- A row that `mepi.rm` sends (R415): where it goes, and the completion word and serial of its command. -/
  | row (stream : BitVec 5) (dest : BitVec 11) (va : Dword) (done : Dword) (parent : Nat)
  | chPost (src done n : Dword)
  | chWait (dst ctl n : Dword)
  deriving DecidableEq, Repr

/-- A command in an engine queue: who pushed it, its serial, and for remote operations its sequence number (R420). -/
structure Cmd where
  op     : CmdOp
  unit   : Nat
  core   : Nat
  ctx    : Nat
  sys    : Bool
  serial : Nat
  seq    : BitVec 24
  issued : Dword
  step   : Option Nat
  deriving DecidableEq, Repr

/-- How far a command of a copy channel has come. -/
inductive XferStage where
  | waiting
  /-- A faulting read holds the channel (R112). -/
  | held (va : Dword)
  /-- Waits for the host's answer to an access of n bytes (R263); `read` tells which side. -/
  | hostWait (q : QpId) (read : Bool) (n : Nat)
  /-- Sent to its destination; waits for the acknowledgement or the data (R420). -/
  | sent
  | finished
  deriving DecidableEq, Repr

/-- An entry of a time-sorted copy buffer (R159-R161). -/
structure Xfer where
  cmd      : Cmd
  id       : BitVec 32
  teff     : Dword
  accepted : Dword
  eligible : Bool
  begun    : Bool
  /-- Bytes (or elements) already moved. -/
  moved    : Nat
  /-- Bytes reported to a barrier word at completion (R212). -/
  counted  : Nat
  srcDesc  : List Byte
  dstDesc  : List Byte
  stage    : XferStage
  /-- Data read for the piece under way, and the places of poisoned bytes among them (R100). -/
  buffer   : List Byte
  poison   : List Nat
  /-- Bytes of the piece under way that are written. -/
  wrote    : Nat := 0
  /-- The context has been given SIDELOG.FULL for this wait of the command (R110). -/
  told     : Bool := false
  deriving DecidableEq, Repr

/-- Registers of one cell (R65). -/
structure Cell where
  l0 : Word := 0
  l1 : Word := 0
  a  : Word := 0
  outA : Word := 0
  outB : Word := 0
  deriving DecidableEq, Repr

/-- Where the command of the ce unit stands: loads before the first tick, ticks (or rows of a cell move), the cycles
after the last tick, the due point reached (R398-R400, R405). -/
inductive CeStage where
  | load | tick | tail | due
  deriving DecidableEq, Repr

/-- The command the ce unit performs (R403). -/
structure CeRun where
  cmd     : Cmd
  stage   : CeStage
  /-- Array cycles still to pass in this stage, or in the current tick or row. -/
  wait    : Nat
  /-- Current tick of the pass, or row of a cell move. -/
  tick    : Nat
  /-- Current pass (R400), and steps done before a K-chunk drain of it (R410). -/
  pass    : Nat
  done    : Nat
  /-- Microcode words at acceptance, and the format entry read then (R187). -/
  ucode   : List Word
  entry   : Dword
  /-- Edge feeds read so far: elements and block scales of A and B, by 2^20 * feed + step, where a feed of DIAG is that of its
  cell, 128 * row + column (R399, R400). -/
  feedA   : Tab Word
  feedB   : Tab Word
  scaleA  : Tab (BitVec 16)
  scaleB  : Tab (BitVec 16)
  /-- Block scales of the weights of WS, by 128 * row + column (R399). -/
  scaleW  : Tab (BitVec 16)
  /-- The command was discarded at acceptance (R409). -/
  discarded : Bool
  deriving DecidableEq, Repr

/-- The command the me unit performs (R413). -/
structure MeRun where
  cmd   : Cmd
  entry : Dword
  row   : Nat
  /-- The words of the row, read when it was reached, and the poisoned bytes among those it will write. -/
  words : List Word
  poison : List Nat
  /-- Destination bytes read so far (`mepi.acc`), and lines written. -/
  old   : List Byte
  lines : Nat
  deriving DecidableEq, Repr

/-- Tile states (Table 6.13). -/
inductive TileState where
  | empty | filling | ready | draining
  deriving DecidableEq, Repr

/-- A tile-table entry (Table 6.13). -/
structure Tile where
  pitch  : BitVec 20 := 0
  rows   : BitVec 12 := 0
  rbytes : BitVec 16 := 0
  epoch  : BitVec 8 := 0
  state  : TileState := .empty
  v      : Bool := false
  sub    : Bool := false
  wb     : Bool := false
  next   : BitVec 8 := 0
  ring   : BitVec 6 := 0
  base   : BitVec 23 := 0
  deriving DecidableEq, Repr

/-- A subscription ring of the loader (R201, R432, R433). -/
structure LoadRing where
  ring     : Nat
  cmd      : Cmd
  first    : Nat
  count    : Nat
  /-- Bytes of a fill: those of its tiles when it was formed (R432, R433). -/
  size     : Nat
  wb       : Bool
  ldVa     : Nat
  stVa     : Nat
  ldDesc   : List Byte
  stDesc   : List Byte
  /-- Fills begun, and the tile that the next fill takes. -/
  fills    : Nat
  nextTile : Nat
  /-- The tile being filled and the bytes of the fill so far. -/
  filling  : Option Nat
  moved    : Nat
  /-- The stream ended early: an access of it failed (R104). (DEDUCED, log 44.) -/
  ended    : Bool
  /-- Fill number recorded for each tile, and bytes of its drain so far (R433). -/
  pos      : Tab (Option Nat)
  drained  : Tab Nat
  /-- A load of a descriptor or of the stream is held at this address (R112). -/
  heldVa   : Option Dword
  /-- The context has been given SIDELOG.FULL for this wait of the ring (R110). -/
  told     : Bool := false
  /-- Stack whose controller serves the ring, once its descriptor has been translated. -/
  stack    : Option Nat := none
  /-- A host window has been asked (R263): on the reading side, and the bytes it answered. -/
  hostWait : Option QpId
  buffer   : List Byte
  deriving DecidableEq, Repr

/-- A line of the phase write buffer (R88): byte mask and data; poison of R260. -/
structure PwbLine where
  mask   : BitVec 64
  data   : Line
  poison : Bool
  deriving DecidableEq, Repr

/-- The move of a core to a stage or to the free pool that waits to take effect (R22). -/
structure PendingMove where
  target : Option Nat
  /-- First CYCLE in which it may take effect: the one after the opening that drained the core's buffer (R126). -/
  notBefore : Dword := 0
  deriving DecidableEq, Repr

/-- A save under way on a core (R252, R253). -/
structure Saving where
  area : Dword
  /-- Contexts affected (bit c). -/
  live : BitVec 4
  /-- Cores of the same request. -/
  group : List Nat
  deriving DecidableEq, Repr

/-- A core (Table 1.2, Table 2.4). -/
structure Core where
  ctxs : Tab Ctx := []
  stage : Option Nat := none
  move : Option PendingMove := none
  inService : Bool := true
  /-- Drained for service by the Sill (R177, R285). -/
  drained : Bool := false
  frzcnt : Dword := 0
  pwrlim : BitVec 16 := 0x1C00
  /-- Weights of the last cycles, newest first, at most 32 (R78), and the weight so far of this cycle. -/
  weights : List Nat := []
  weightNow : Nat := 0
  frozen : Bool := false
  tnext : Tab Word := []
  tdone : Tab Word := []
  phaseGroup : BitVec 16 := 0
  phase : Word := 0
  occPeak : BitVec 14 := 0
  pwb : Tab (Option PwbLine) := []
  perfFrz : Bool := false
  perfHen : Bool := false
  perfEn : BitVec 4 := 0
  perfSel : Word := 0
  pmc : Tab Dword := []
  /-- PMCs that a system write set in this cycle (R210). (DESIGN CHOICE, log 67.) -/
  pmcSet : BitVec 4 := 0
  /-- W1C writes of this cycle to the capture registers, by CSR number (R210). (DESIGN CHOICE, log 67.) -/
  capW1c : List (Nat × Word) := []
  /-- Occurrences of performance events so far in this cycle, by event code (R219). (DESIGN CHOICE, log 67.) -/
  events : Tab Nat := []
  hcapsel : Word := 0
  hcapmin : Word := 0
  hcapmax : Word := 0
  hbin : Tab Word := []
  ceSram : Word := 0
  ceIstore : Word := 0
  ueCore : Word := 0
  tiles : Tab Tile := []
  /-- Tiles in use: tile and the serial of the operation that holds it (R202). -/
  tileUse : List (Nat × Nat) := []
  /-- Releases waiting to take effect: tile and command (R202). -/
  tileRels : List (Nat × Cmd) := []
  rings : List LoadRing := []
  /-- Command queue of unit u and context x at 4*u + x (R72, R151). -/
  queues : Tab (List Cmd) := []
  /-- Context each unit served last (R157). (DESIGN CHOICE, log 18.) -/
  served : Tab Nat := []
  /-- Units that already accepted a command in this cycle. (DESIGN CHOICE, log 67.) -/
  accepted : List Nat := []
  buffers : Tab (List Xfer) := []
  ce : Option CeRun := none
  /-- Array operations stopped by a pre-emption (R253), at the head of the ce queue again after a restore (R257). -/
  ceResume : Tab (Option CeRun) := []
  meResume : Tab (Option MeRun) := []
  /-- Serials of `mstart.g` commands whose gang stood at its queue heads at the end of the last cycle (R411).
  (DESIGN CHOICE, log 67.) -/
  gReady : List Nat := []
  me : Option MeRun := none
  ucode : Tab Word := []
  cells : Tab Cell := []
  /-- MAS word (row, column) at 256*row + column (R93). -/
  mas : Tab Word := []
  masP : Tab Bool := []
  masCtx : Tab (BitVec 2) := []
  masPoison : Tab Bool := []
  /-- Shuffle byte l of entry i of bank b at 8192*b + 128*i + l (R97). -/
  shuffle : Tab Byte := []
  shufBank : Bool := false
  shufSwap : Bool := false
  /-- Refusals of the secondary in a row, and the role swap of the next cycle (R181). -/
  refusals : Nat := 0
  /-- The secondary whose refusals are counted, and CYCLE at which its run of refusals began (R181, Table 7.5). -/
  secondary : Option Nat := none
  refusedSince : Dword := 0
  swapRoles : Bool := false
  /-- Banks that the array's tile fetch takes in this cycle: class 1 (R83). (DESIGN CHOICE, log 67.) -/
  fetchBanks : List Nat := []
  /-- The loop buffer of 64 bundles by their place in the body, and the context and level that hold it (Table 1.2, R190). -/
  loopBuf : Tab (BitVec 192) := []
  loopHolder : Option (Nat × Nat) := none
  /-- The core has arrived at the next phase opening (R122, Table 7.5). -/
  arrived : Bool := false
  /-- Rotation asked of the longer-seated context (R179). -/
  rotate : Option Nat := none
  resumeAddr : Option Dword := none
  saving : Option Saving := none
  /-- The last save of the core failed (R259). -/
  saveFailed : Bool := false
  /-- Bundle by index of the instruction store (R90). -/
  istore : Tab (BitVec 192) := []
  /-- Indices whose data tag is clear (R90: reset tags every bundle). -/
  untagged : Tab Bool := []
  deriving DecidableEq, Repr

/-! ## Remote operations, links and channels (04, 10) -/

/-- A remote operation as its segment headers and data carry it (Table 10.4). -/
structure RemoteOp where
  op     : BitVec 8
  rop    : BitVec 8
  stream : BitVec 5
  sctx   : BitVec 2
  score  : BitVec 7
  seq    : BitVec 24
  src    : BitVec 11
  dst    : BitVec 11
  vaddr  : Dword
  tag    : Dword
  auxop  : Dword
  data   : List Byte
  /-- Places of poisoned bytes among its data (R100). (DESIGN CHOICE, log 25.) -/
  poison : List Nat := []
  deriving DecidableEq, Repr

/-- An operation whose flits are still arriving (R271): the data of each flit by its V-address, and the bytes due. -/
structure Partial where
  op    : RemoteOp
  parts : Tab (List Byte)
  need  : Nat
  /-- V-addresses of the poisoned bytes among them (R100). -/
  poison : List Nat := []
  deriving DecidableEq, Repr

/-- How far an operation sent to a destination has come. -/
inductive OutStage where
  /-- Waits at the port; `next` flits have left. -/
  | port (next : Nat)
  | sent
  /-- Refused by the destination; resent from this cycle on (R168). -/
  | refused (resendAt : Dword)
  deriving DecidableEq, Repr

/-- What an outgoing operation stands for at its source. -/
inductive OutKind where
  /-- A command of copy channel `ch`, by its transfer ID. -/
  | channel (ch : Nat) (id : BitVec 32)
  | read (ch : Nat) (id : BitVec 32)
  | element (entry : Nat) (serial : Nat)
  | credit (entry : Nat)
  | setup (entry : Nat)
  | collective (entry : Nat)
  /-- A response of this device: acknowledgement, refusal or read data. -/
  | response
  deriving DecidableEq, Repr

/-- An operation on its way out of the device (R168, R271, R275, R276). -/
structure Out where
  op        : RemoteOp
  kind      : OutKind
  core      : Nat
  ctx       : Nat
  stage     : OutStage
  link      : Option Nat
  /-- CYCLE at which its first flit left (R276). -/
  firstSent : Option Dword
  issued    : Dword
  deriving DecidableEq, Repr

/-- Transmit state of a key slot (R277). -/
inductive TxState where
  | empty | ready | active
  deriving DecidableEq, Repr

/-- A key slot pair of a link (R277, R215, R216). (DESIGN CHOICE, log 14.) -/
structure KeySlot where
  key  : BitVec 256 := 0
  salt : BitVec 48 := 0
  tx   : TxState := .empty
  rxOpen : Bool := false
  txic : BitVec 48 := 0
  rxic : BitVec 48 := 0
  arm  : Bool := false
  deriving DecidableEq, Repr

/-- Link states (Table 10.5). -/
inductive LinkState where
  | down | training | up | draining | dark
  deriving DecidableEq, Repr

/-- A flit kept until it is acknowledged (R273): its header fields and payload in clear, and what it carries. -/
structure RetryFlit where
  kind    : BitVec 8
  vc      : BitVec 3
  dst     : BitVec 11
  src     : BitVec 11
  lseq    : BitVec 16
  hops    : BitVec 8
  len     : BitVec 8
  payload : List Byte
  /-- The flit still has to be sent (R273). -/
  resend  : Bool
  /-- It has been sent before: the next sending is a retransmission (R217). -/
  sent    : Bool := false
  deriving DecidableEq, Repr

/-- A link end (R268-R279, R463-R469). (DESIGN CHOICE, log 14.) -/
structure Link where
  state : LinkState := .down
  k0 : KeySlot := {}
  k1 : KeySlot := {}
  kdue : BitVec 48 := 0xFFFF00000000
  flitTx : Dword := 0
  flitRx : Dword := 0
  retry : Word := 0
  authFail : Word := 0
  peer : BitVec 11 := 0
  peerLink : BitVec 6 := 0
  txSeq : BitVec 16 := 0
  rxSeq : BitVec 16 := 0
  retryBuf : List RetryFlit := []
  /-- Retry rounds the oldest flit failed in a row (R274). -/
  rounds : Nat := 0
  /-- Allowances spent per virtual channel (64 less those held, R273). -/
  spent : Tab Nat := []
  /-- Allowances to return per virtual channel (R273). -/
  owed : Tab Nat := []
  /-- Control flits due: cumulative ACK, RETRYREQ of an LSEQ, CREDIT of a channel (R273). -/
  ackDue : Bool := false
  retryReq : Option (BitVec 16) := none
  /-- The flit that is missing has been asked for: LSEQ of the last flit discarded since (R273, R274). -/
  asked : Option (BitVec 16) := none
  creditDue : List Nat := []
  /-- A KEYMARK is on its way; `some old` names the slot that empties on its acknowledgement (R278, R464). -/
  keymark : Option Bool := none
  /-- A switch-over waits for a place of its KEYMARK in the retry buffer (R273). -/
  switchDue : Bool := false
  /-- The slot loaded first since TRAINING began (R469). -/
  first : Option Bool := none
  /-- Own DRAIN flit given an LSEQ, and acknowledged, and the peer's accepted (R279). -/
  drainSent : Bool := false
  drainAcked : Bool := false
  peerDrained : Bool := false
  /-- CYCLE of the last flit sent, and of the last that arrived (R463, R274). (DESIGN CHOICE, log 18.) -/
  lastSent : Dword := 0
  lastArrival : Dword := 0
  deriving DecidableEq, Repr

/-- A route entry (Table 13.6), kept as its 64-bit word. -/
abbrev Route := Dword

/-- A channel-table entry (Table 6.15) with the sequencer state of R170 and R468. -/
structure Chan where
  kind   : BitVec 2 := 0
  peer   : BitVec 11 := 0
  pcore  : BitVec 7 := 0
  pctx   : BitVec 2 := 0
  lcore  : BitVec 7 := 0
  lctx   : BitVec 2 := 0
  depth  : BitVec 16 := 0
  credit : BitVec 16 := 0
  elines : BitVec 6 := 0
  buf    : BitVec 30 := 0
  next   : BitVec 11 := 0
  prev   : BitVec 11 := 0
  op     : BitVec 4 := 0
  type   : BitVec 4 := 0
  chunk  : BitVec 32 := 0
  seq    : BitVec 24 := 0
  step   : BitVec 16 := 0
  nstep  : BitVec 16 := 0
  rtail  : BitVec 32 := 0
  rhead  : BitVec 32 := 0
  /-- Ring: in SETUP, own setup contribution returned, origins forwarded, position (R441, R468). -/
  setup  : Bool := false
  ownBack : Bool := false
  origins : List Nat := []
  /-- Ring: tags of the setup contributions forwarded, which tell a repeat from one sent anew. -/
  setupTags : List Dword := []
  position : Nat := 0
  /-- Ring: the command with which this member posted the running collective. -/
  running : Option Cmd := none
  /-- Chunks received in the current step (R170). -/
  bitmap : List Nat := []
  /-- The ring does not close or its buffer is badly sized (R441). -/
  broken : Bool := false
  deriving DecidableEq, Repr

/-! ## Translation (03) -/

/-- A TLB entry: page base, level of the leaf (0 64 KiB ... 4 16 GiB) and the leaf (R106). -/
structure TlbEntry where
  base  : Dword
  level : Nat
  pte   : Dword
  deriving DecidableEq, Repr

/-- A page walk under way: die, page, when and for which core it was asked (R105, Table 7.5). -/
structure Walk where
  die   : Nat
  va    : Dword
  asked : Dword
  core  : Option Nat
  deriving DecidableEq, Repr

/-- Units with a side log (Table 3.9). -/
inductive LogUnit where
  | copyEngine (die n : Nat)
  | loader (stack : Nat)
  | atomic (stack : Nat)
  | arrival (die : Nat)
  | overflow (die : Nat)
  deriving DecidableEq, Repr

/-- The operation of a side-log entry (R107). -/
inductive LogOp where
  | store
  | reduce (op : BitVec 4) (type : BitVec 4)
  | atomic (op : AtomicOp) (word : Bool) (x e : Dword)
  deriving DecidableEq, Repr

/-- A side-log entry (R107); `arrival` carries the operation whose acknowledgement waits (R111). -/
structure LogEntry where
  unit    : LogUnit
  va      : Dword
  op      : LogOp
  data    : List Byte
  core    : Nat
  ctx     : Nat
  arrival : Option RemoteOp
  migrating : Bool
  /-- Serial of the command whose register takes the old value on replay (R426). -/
  serial  : Nat
  /-- Places of poisoned bytes among its data (R100, R260). -/
  poison  : List Nat := []
  /-- Serial of the `vatom` that holds the later accesses of its context until the entry is performed (R426). -/
  hold    : Option Nat := none
  /-- The unit that issued it, as AUX of its deferred fault names units (Table 9.2). -/
  issuer  : Nat := 2
  /-- Another part of the arrival has failed: its source has been told (R109). -/
  failed  : Bool := false
  deriving DecidableEq, Repr

/-- A fault record posted to system software (R108, R113). -/
structure FaultRecord where
  unit : LogUnit
  va   : Dword
  migration : Bool
  deriving DecidableEq, Repr

/-! ## Session, kernel and dispatcher (01, 05, 06, 10) -/

/-- Session states (Table 1.5); `none` before bring-up ends. -/
inductive SessState where
  | none | scrubbed | opened | closing | scrubbing
  deriving DecidableEq, Repr

/-- A host window (Table 10.1). -/
structure Window where
  base  : Dword := 0
  valid : Bool := false
  port  : BitVec 2 := 0
  qpn   : BitVec 24 := 0
  key   : BitVec 32 := 0
  size  : Dword := 0
  deriving DecidableEq, Repr

/-- A work ring (R152, R156). -/
structure Ring where
  base   : Dword := 0
  log2n  : BitVec 5 := 0
  head   : Word := 0
  broken : Bool := false
  deriving DecidableEq, Repr

/-- The session (R264). -/
structure Session where
  state  : SessState := .none
  ptroot : Dword := 0
  logva  : Dword := 0
  log2l  : Nat := 10
  log2h  : Nat := 6
  hrecpa : Dword := 0
  windows : Tab Window := []
  rings  : Tab Ring := []
  key    : BitVec 32 := 0
  deriving DecidableEq, Repr

/-- Where a request came from, for its completion record (R155, R265). -/
structure Origin where
  ring  : Nat
  count : Word
  tag   : BitVec 16
  cq    : Bool
  deriving DecidableEq, Repr

/-- Kernel states (Table 1.6); `none` when no kernel was launched. -/
inductive KernState where
  | none | loading | running | complete | failed
  deriving DecidableEq, Repr

/-- Stage states (Table 1.7). -/
inductive StageState where
  | opened | closed | done
  deriving DecidableEq, Repr

/-- A stage-table entry (Table 6.7) with its run-time state. -/
structure Stage where
  entry : BitVec 13 := 0
  group : BitVec 16 := 0
  /-- INQ0-3 and OUTQ0-3: a queue index where valid. -/
  inq   : List (Option Nat) := []
  outq  : List (Option Nat) := []
  state : StageState := .opened
  /-- Distance to the sink (R175). -/
  dist  : Nat := 0
  /-- Loop templates of the six levels (R189). -/
  loops : List (BitVec 128) := []
  /-- Template TOPB, empty for the default template (R27). -/
  template : List Byte := []
  deriving DecidableEq, Repr

/-- A stage queue (Table 5.5). -/
structure StageQ where
  used   : Bool := false
  base   : BitVec 30 := 0
  lines  : Nat := 0
  log2d  : Nat := 0
  head   : Word := 0
  tail   : Word := 0
  vmask  : Tab (BitVec 16) := []
  ovva   : Dword := 0
  log2ov : Nat := 0
  quota  : Nat := 0
  ovhead : Word := 0
  ovtail : Word := 0
  occacc : Word := 0
  /-- Bytes of a refill read so far, the poisoned ones among them, and a read that waits for the host (R164, R263). -/
  refillBuf : List Byte := []
  refillPoison : List Nat := []
  refillWait : Bool := false
  /-- The page that holds the refill (R112, R164). -/
  refillHeld : Option Dword := none
  /-- Core and context that pushed each entry of the ring, oldest first (R104). -/
  pushers : List (Nat × Nat) := []
  deriving DecidableEq, Repr

/-- The kernel (R18, R182). -/
structure Kernel where
  state   : KernState := .none
  codeva  : Dword := 0
  nbund   : Nat := 0
  tmplva  : Dword := 0
  stages  : Tab Stage := []
  nstage  : Nat := 0
  log2bal : Nat := 16
  origin  : Option Origin := none
  /-- The image read at load: code bytes and untagged indices, format image, regions, channel declarations. -/
  code    : List Byte := []
  segs    : List (Nat × Nat) := []
  fmt     : List Dword := []
  regions : List Dword := []
  chans   : List (List Byte) := []
  queues  : Tab StageQ := []
  /-- The host has its final record (R266). -/
  answered : Bool := false
  deriving DecidableEq, Repr

/-- Task states (Table 1.8). -/
inductive TaskState where
  | posted | binned | expanded | retired | failed
  deriving DecidableEq, Repr

/-- A task (R24): its TOPB, where it came from, its bound entry and how far the walker has come (R30). -/
structure Task where
  id     : Nat
  topb   : List Byte
  stage  : Nat
  topbVa : Dword
  origin : Option Origin
  state  : TaskState
  bin    : Nat
  /-- The entry bound to a task of a stage with an input queue: its lines and VMASK (R27). -/
  bound  : Option (List Byte × BitVec 16 × List (Nat × Nat))
  /-- Order in which it was expanded (R172). -/
  order  : Nat
  /-- Instances released so far. -/
  released : Nat
  /-- Core of its previous tile step (R172). -/
  lastCore : Option Nat
  answered : Bool
  /-- Where its retired tile steps ran: core, context, serials of their commands not yet complete then (R266). -/
  ran : List (Nat × Nat × List Nat) := []
  deriving DecidableEq, Repr

/-- Tile-step states (Table 1.10). -/
inductive StepState where
  | pending | placed | running | preempted | retired | failed
  deriving DecidableEq, Repr

/-- A queue entry being read or staged by a tile step (R436, R437). -/
structure QEntry where
  lines  : List Line
  vmask  : BitVec 16
  cursor : Nat
  /-- Lines that hold a poisoned word of the slot they were read from, with the first such word's address (R260). -/
  poison : List (Nat × Nat) := []
  deriving DecidableEq, Repr

/-- What a save keeps of a context beside the bytes of its image, which has no place for it (R253, R257): the register
rows that a stopped array operation read at issue, the collectives the context has posted, the tags of the kept lines
(Table 3.3, by word of the slice). (DEDUCED, log 32.) -/
structure Saved where
  rowsA  : List Line
  rowsB  : List Line
  posted : Tab (Option (BitVec 24))
  tags : List Nat
  deriving DecidableEq, Repr

/-- A tile step (R31-R33) with its queue-unit entries (R438). -/
structure TileStep where
  id      : Nat
  task    : Nat
  inst    : Nat
  die     : Option Nat
  rank    : Nat
  counters : List Nat
  state   : StepState
  emark   : Bool
  core    : Option Nat
  ctx     : Option Nat
  /-- CYCLE at which its instance was released (R38). -/
  since   : Dword
  /-- Commands `mstart.g` issued since placement (R411). -/
  groupCmds : Nat
  staging : Tab (Option QEntry)
  reads   : Tab (Option QEntry)
  lastMask : BitVec 16
  /-- The area its image stands in while PREEMPTED. -/
  image   : Option Dword
  /-- What the save kept beside the image (R257). (DEDUCED, log 32.) -/
  saved   : Option Saved
  /-- Command serials from this one on are of the tile step, since its placement (DESIGN CHOICE, log 67). -/
  placedAt : Nat := 0
  deriving DecidableEq, Repr

/-- A complete entry pushed in this cycle: pushing core and context, queue, its lines and VMASK. The queue unit applies
the pushes of a cycle after its pops (R165). -/
structure QPush where
  core  : Nat
  ctx   : Nat
  queue : Nat
  lines : List Line
  vmask : BitVec 16
  /-- Bytes of its ring entry that are written already, where the overflow engine's side log had no room for the rest. -/
  got   : Nat := 0
  /-- The pushing context has been given SIDELOG.FULL for this wait (R110). -/
  told  : Bool := false
  deriving DecidableEq, Repr

/-- A record to the host (Table 10.2). -/
structure Record where
  dhseq : Word
  kind  : BitVec 8
  code  : BitVec 8
  tag   : BitVec 16 := 0
  rcount : Word := 0
  rv    : Bool := false
  ring  : BitVec 6 := 0
  pc    : BitVec 13 := 0
  core  : BitVec 7 := 0
  ctx   : BitVec 2 := 0
  seq   : BitVec 24 := 0
  stream : BitVec 5 := 0
  fabid : BitVec 11 := 0
  addr  : Dword := 0
  aux   : BitVec 8 := 0
  deriving DecidableEq, Repr

/-- Sill states (Table 10.6); `off` after a thermal shutdown (R286). -/
inductive SillState where
  | rom | recovery | bringup | ready | off
  deriving DecidableEq, Repr

/-- A running firmware image (R282). -/
structure Image where
  svn  : Word := 0
  hash : BitVec 256 := 0
  deriving DecidableEq, Repr

/-- A management command that starts no operation, as it waits for the end of a Sill firmware update (R284, R285). -/
inductive MgmtCmd where
  | ident | status | records | readcnt
  | attest (nonce : List Byte)
  | svncommit (ikind : Nat)
  deriving DecidableEq, Repr

/-- The Sill (R281-R286). -/
structure Sill where
  state   : SillState := .rom
  images  : Tab Image := []
  minSvn  : Tab Word := []
  /-- CYCLE up to which the last operation-starting command acts (R284). -/
  busyUntil : Dword := 0
  /-- CYCLE up to which the walk unit takes new microcode: new walks wait (R285). -/
  walksHeld : Dword := 0
  /-- Pseudo-channels that are retrained: stack, channel, and CYCLE up to which their accesses wait (R285). -/
  retrain : List (Nat × Nat × Dword) := []
  /-- The image that a live update has accepted, by kind: it runs once the update ends (R285). (DESIGN CHOICE, log 62.) -/
  nextImage : Option (Nat × Image) := none
  /-- Management commands that wait for the end of a Sill firmware update, oldest first (R285). (DESIGN CHOICE, log 62.) -/
  held : List MgmtCmd := []
  /-- Cores being recalibrated or drained (R285). -/
  draining : List Nat := []
  /-- Links being recalibrated (R285). -/
  recal : List Nat := []
  records : List Record := []
  deriving DecidableEq, Repr

/-- What the device sends to the host: an output trace (DESIGN CHOICE, log 7). -/
inductive HostOut where
  | rdmaWrite (q : QpId) (key : BitVec 32) (addr : Dword) (data : List Byte)
  | rdmaRead (q : QpId) (key : BitVec 32) (addr : Dword) (len : Nat)
  | readResponse (q : QpId) (data : List Byte)
  | ack (q : QpId)
  | nakAccess (q : QpId)
  | nakInvalid (q : QpId)
  deriving DecidableEq, Repr

/-- What the Sill answers on the management port: an output trace (DESIGN CHOICE, log 7). (DESIGN CHOICE, log 61.) -/
inductive MgmtOut where
  | ident
  | status (sill : SillState) (session : SessState) (dhlast : Option Word) (heads : List Word)
  | ok
  | busy
  | badOpen
  | opened (key : BitVec 32)
  | records (rs : List Record)
  | attest (nonce : List Byte) (serial : Dword) (images : List Image) (session : SessState) (dhlast : Option Word) (cycle : Dword) (signature : BitVec 3072)
  | counters (core : List (Word × Word × Word)) (stack : List (Word × Word))
  | fwErr
  | sidelogFull (unit : LogUnit)
  deriving DecidableEq, Repr

/-- Who waits for the host's answer to an RDMA request of the device (R263). -/
inductive HostWho where
  | nobody
  | xfer (core ch : Nat) (id : BitVec 32)
  | loader (core ring : Nat)
  /-- A remote read that reaches a host window of this device. -/
  | arrival (op : RemoteOp)
  /-- A piece of a remote write that reaches a host window: it is acknowledged once every piece is written. `migrating` says
  that it is a replay of one that waited for a migration (R114). -/
  | arrivalWrite (op : RemoteOp) (migrating : Bool)
  /-- A spill of the overflow engine for a pushing context (R164). -/
  | spill (core ctx : Nat)
  /-- A refill of a stage queue (R164). -/
  | refill (queue : Nat)
  /-- A logged write of a context replayed into a host window (R109, R346). -/
  | replay (core ctx : Nat) (migrating : Bool)
  /-- A read of the dispatcher at a host PA (R473). -/
  | dispatcher (pa : Nat)
  /-- A read of the dispatcher at a host PA for the `task.post` of a context (R340). -/
  | post (core ctx pa : Nat)
  deriving DecidableEq, Repr

/-- What the dispatcher has read at a host PA through a host window (R473): `reader` names the context for whose `task.post`
it was read, none for a request of a ring; `data` is none for a read that failed. -/
structure HostRead where
  pa     : Nat
  data   : Option (List Byte)
  reader : Option (Nat × Nat)
  deriving DecidableEq, Repr

/-- An arrival of which the side log took a first part only (R110): its bytes performed or logged so far, and whether a part
of them has failed meanwhile. (DESIGN CHOICE, log 71.) -/
structure PortPart where
  op     : RemoteOp
  got    : Nat
  failed : Bool
  deriving DecidableEq, Repr

/-- A request of the host at its port (R262). -/
inductive HostCall where
  | write (q : QpId) (key : BitVec 32) (va : Nat) (data : List Byte)
  | read (q : QpId) (key : BitVec 32) (va len : Nat)
  | invalid (q : QpId)
  deriving DecidableEq, Repr

/-- An RDMA request of the device that the host has not answered: its queue pair, who waits, the V-address it was translated
from, and its number. -/
structure HostReq where
  q   : QpId
  who : HostWho
  va  : Option Dword
  id  : Nat
  deriving DecidableEq, Repr

/-- A turn of the machine (DESIGN CHOICE, log 3): a step of the table, or the fetch and issue of a core in one cycle. -/
inductive Turn where
  | run (i : Instr)
  | fetch (core : Nat)
  deriving DecidableEq, Repr

/-- The slot whose instruction is being run (DESIGN CHOICE, log 3). -/
structure Cursor where
  core : Nat := 0
  ctx  : Nat := 0
  slot : Nat := 0
  deriving DecidableEq, Repr

/-- The whole device. -/
structure State where
  cycle  : Dword := 0
  fabid  : BitVec 11 := 0
  codeva : Dword := 0
  cores  : Tab Core := []
  /-- S-space bytes (R80), an unlisted byte reads 0. (DESIGN CHOICE, log 1.) -/
  sspace : List Host.Cell := []
  /-- Hidden tags by word number (R87); dirty bits by line number (R85); poison by word number (R260).
  (DESIGN CHOICE, log 1.) -/
  tags   : Tab Bool := []
  dirty  : Tab Bool := []
  poison : Tab Bool := []
  /-- HBM bytes by physical address (R98), an unlisted byte reads 0; poisoned bytes (R100). (DESIGN CHOICE, log 2.) -/
  hbm    : List Host.Cell := []
  hbmPoison : Tab Bool := []
  regions : Tab Dword := []
  queues : Tab StageQ := []
  /-- Entries pushed in this cycle, in ascending order of core and context (R165). (DESIGN CHOICE, log 67.) -/
  pushes : List QPush := []
  /-- Entries that wait for room in the overflow engine's side log, oldest first (R110). -/
  spills : List QPush := []
  chans  : Tab Chan := []
  /-- TLBs by die, most recently used first: main array and 16 GiB array (R106). -/
  tlb    : Tab (List TlbEntry) := []
  tlbBig : Tab (List TlbEntry) := []
  sideLogs : List LogEntry := []
  faults : List FaultRecord := []
  /-- Walks under way (R345). -/
  walks  : List Walk := []
  /-- Walks that returned an invalid entry and whose requester has not looked yet (DESIGN CHOICE, log 67). -/
  walkMiss : List (Nat × Dword) := []
  /-- Route tables by die and index, 64 entries a die (Table 13.6). (DESIGN CHOICE, log 14.) -/
  routes : Tab Route := []
  links  : Tab Link := []
  svc    : Tab (Option (Nat × Nat)) := []
  /-- Operations on their way out, operations fully arrived and not yet judged, operations still gathering. -/
  out    : List Out := []
  inbox  : List RemoteOp := []
  gather : List Partial := []
  /-- Operations of which flits pass through this device to another (R269, R273). -/
  passing : List Partial := []
  /-- DATA flits that wait at the port for a next hop: those in transit to another device, and those a link that went
  DOWN handed back (R269, R275). -/
  transit : List RetryFlit := []
  /-- Remote reads that a page the destination cannot map holds, with the address of that page (R112). -/
  heldReads : List (RemoteOp × Dword) := []
  /-- Bytes of remote reads that a host window interrupts, and the poisoned ones among them (R263, R427). -/
  readGot : List (RemoteOp × List Byte × List Nat) := []
  /-- Arrivals that the side log of their port has taken in part (R110). -/
  portParts : List PortPart := []
  /-- Dies whose stalled arrival port the Sill has reported (R110). -/
  portTold : List Nat := []
  /-- Held entries of the commit windows, and expected numbers (R142). -/
  window : List RemoteOp := []
  expected : Tab (BitVec 24) := []
  ceHbm  : Tab Word := []
  ueHbm  : Tab Word := []
  session : Session := {}
  dhseq  : Word := 0
  kernel : Kernel := {}
  /-- A kernel that is LOADING while tile steps of the FAILED one before it still run (R18, R20). -/
  launching : Option Kernel := none
  /-- COMPLETE kernels that another has followed before their OK record: the request, and the tasks whose commands are
  still to complete (R266). (DEDUCED, log 53.) -/
  owed   : List (Origin × List Nat) := []
  tasks  : List Task := []
  steps  : List TileStep := []
  /-- Locality bins: task numbers in FIFO order (R26); the bin the drain visits next (R171). -/
  bins   : Tab (List Nat) := []
  binAt  : Nat := 0
  /-- Counters from which tasks, steps and commands take their numbers, and the expansion order (DESIGN CHOICE, log 18). -/
  nextId : Nat := 0
  /-- Reserved instance per die: task number (R38). -/
  reserved : Tab (Option Nat) := []
  /-- Dies that have placed a tile step or gang in this cycle (R172). (DESIGN CHOICE, log 67.) -/
  placedDies : List Nat := []
  /-- Next ring of the poller (R153). (DESIGN CHOICE, log 18.) (DEDUCED, log 45.) -/
  pollAt : Nat := 0
  /-- Samples of source stages per die, at 16*die + stage (R175). -/
  inSamples : Tab Nat := []
  sill   : Sill := {}
  /-- Packets sent to the host. (DESIGN CHOICE, log 7.) -/
  hostOut : List HostOut := []
  /-- RDMA requests of the device that the host has not answered, oldest first (R263), and queue pairs in error (R261). -/
  hostPending : List HostReq := []
  /-- Counter of RDMA requests (DESIGN CHOICE, log 18). -/
  hostSeq : Nat := 0
  /-- What the dispatcher has read through host windows for the requests it works on (R473). -/
  hostData : List HostRead := []
  /-- Requests of the host, oldest first, and writes of the dispatcher and the Sill (V-address, bytes) that a live service
  holds (R285). (DESIGN CHOICE, log 62.) -/
  hostIn : List HostCall := []
  heldWrites : List (Dword × List Byte) := []
  qpError : List QpId := []
  /-- Queue pairs in use, at most 64 on each port (R261). -/
  qps : List QpId := []
  /-- Replies on the management port, and flits on the wire by link. (DESIGN CHOICE, log 7.) -/
  mgmtOut : List MgmtOut := []
  wireOut : List (Nat × Flit) := []
  /-- The slot that runs, and the turns that come next. (DESIGN CHOICE, log 3.) -/
  turn   : Cursor := {}
  agenda : List Turn := []
  /-- Counter applied to the opaque free values of Config (DESIGN CHOICE, log 8). -/
  fresh  : Nat := 0
  deriving DecidableEq, Repr

/-- The machine right after module reset: every field at the value the spec states, or the one its log entry names.
(DESIGN CHOICE, log 1.) (DESIGN CHOICE, log 2.) (DESIGN CHOICE, log 13.) (DESIGN CHOICE, log 14.) -/
def State.reset : State := {}

/-- Faults: what stops the model for good. None is raised by an instruction of the table. -/
inductive Fault where
  /-- The bundle at the program counter cannot be read at all (never raised by a state of the model; kept closed). Safe. -/
  | noBundle
  deriving DecidableEq, Repr

/-- Refusals: an instruction to which the model gives no meaning. -/
inductive Refusal where
  /-- The instruction of this mnemonic has no meaning yet; raised only by Dispatch. Safe. -/
  | notModelled (mnemonic : String)
  deriving DecidableEq, Repr

end Sys2Proof.Machine
end

