-- ==== Sys2Proof/Machine/Memory.lean ====
section
/-!
DEFINITION. Named operations over the memories: cores and contexts of the state, S-space with its tags, dirty bits
and poison (R80-R87), region kinds (R194), the phase write buffer (R88, R89), HBM (R98, R100).
-/

namespace Sys2Proof.Machine

/-! ## Cores and contexts -/

/-- Core c. -/
def State.core (s : State) (c : Nat) : Core := tabGet {} s.cores c

/-- Replaces core c. -/
def State.setCore (s : State) (c : Nat) (k : Core) : State := { s with cores := tabPut s.cores c k }

/-- Changes core c. -/
def State.modCore (s : State) (c : Nat) (f : Core → Core) : State := s.setCore c (f (s.core c))

/-- Context x of a core. -/
def Core.ctx (k : Core) (x : Nat) : Ctx := tabGet {} k.ctxs x

/-- Replaces context x. -/
def Core.setCtx (k : Core) (x : Nat) (cx : Ctx) : Core := { k with ctxs := tabPut k.ctxs x cx }

/-- Context x of core c. -/
def State.ctx (s : State) (c x : Nat) : Ctx := (s.core c).ctx x

/-- Changes context x of core c. -/
def State.modCtx (s : State) (c x : Nat) (f : Ctx → Ctx) : State :=
  s.modCore c (fun k => k.setCtx x (f (k.ctx x)))

/-- Die of a core (R8). -/
def dieOf (c : Nat) : Nat := c / 64

/-- All core numbers. -/
def allCores : List Nat := rangeFrom 0 128

/-- All context numbers of a core. -/
def allCtxs : List Nat := [0, 1, 2, 3]

/-- Counts n occurrences of a performance event in this cycle (R219, Table 7.3). -/
def State.event (s : State) (c code n : Nat) : State :=
  s.modCore c (fun k => { k with events := tabSet 0 k.events code (tabGet 0 k.events code + n) })

/-! ## S-space -/

/-- Highest S-address plus one (R79). -/
def sTop : Nat := 0x40000000

/-- Core that owns the slice of an S-address (R80). -/
def sliceOf (a : Nat) : Nat := a / 0x800000

/-- Bytes of S-space. -/
def State.sRead (s : State) (a n : Nat) : List Byte := readBytes s.sspace a n

/-- Word numbers that [a, a+n) covers whole. -/
def wholeWords (a n : Nat) : List Nat :=
  let lo := (a + 3) / 4
  rangeFrom lo ((a + n) / 4 - lo)

/-- Word numbers that [a, a+n) touches. -/
def touchedWords (a n : Nat) : List Nat :=
  if n = 0 then [] else rangeFrom (a / 4) ((a + n - 1) / 4 + 1 - a / 4)

/-- Lines that [a, a+n) touches. -/
def touchedLines (a n : Nat) : List Nat :=
  if n = 0 then [] else rangeFrom (a / 64) ((a + n - 1) / 64 + 1 - a / 64)

/-- Writes bytes of S-space: sets the dirty bits of the lines (R85) and clears poison of words written whole (R260). -/
def State.sWrite (s : State) (a : Nat) (bs : List Byte) : State :=
  { s with
    sspace := writeBytes s.sspace a bs
    dirty := (touchedLines a bs.length).foldl (fun t l => tabSet false t l true) s.dirty
    poison := (wholeWords a bs.length).foldl (fun t w => tabSet false t w false) s.poison }

/-- Hidden tag of the word that holds an address (R87). -/
def State.tagged (s : State) (a : Nat) : Bool := tabGet false s.tags (a / 4)

/-- Some word of [a, a+n) is tagged. -/
def State.anyTagged (s : State) (a n : Nat) : Bool :=
  !s.tags.isEmpty && (touchedWords a n).any (fun w => tabGet false s.tags w)

/-- A write by an engine, the loader or a phase drain, on behalf of core c: tagged words are left alone and counted as
tag drops (Table 3.3, event 0x0C). (DEDUCED, log 63.) -/
def State.sWriteEngine (s : State) (c a : Nat) (bs : List Byte) : State :=
  if s.anyTagged a bs.length then
    let ws := touchedWords a bs.length
    let go := fun (st : State) (w : Nat) =>
      if tabGet false s.tags w then st.event c 0x0C 1
      else
        let lo := max a (4 * w)
        let hi := min (a + bs.length) (4 * w + 4)
        st.sWrite lo ((bs.drop (lo - a)).take (hi - lo))
    ws.foldl go s
  else s.sWrite a bs

/-- Places in [o, o+n), counted from o. -/
def cutPlaces (ps : List Nat) (o n : Nat) : List Nat := (ps.filter (fun i => o ≤ i && i < o + n)).map (· - o)

/-- A write by an engine of data of which the bytes at some places are poisoned: poison travels with the data (R100), and
tagged words keep what they hold. (DEDUCED, log 63.) -/
def State.sMove (s : State) (c a : Nat) (bs : List Byte) (ps : List Nat) : State :=
  let s := s.sWriteEngine c a bs
  let ws := (ps.map (fun i => (a + i) / 4)).filter (fun w => !tabGet false s.tags w)
  { s with poison := ws.foldl (fun t w => tabSet false t w true) s.poison }

/-- Writes one tag. -/
def State.setTag (s : State) (w : Nat) (b : Bool) : State := { s with tags := tabSet false s.tags w b }

/-- Some word of [a, a+n) is poisoned (R260). -/
def State.anyPoison (s : State) (a n : Nat) : Bool :=
  !s.poison.isEmpty && (touchedWords a n).any (fun w => tabGet false s.poison w)

/-- First word of [addr, addr+n) that is poisoned (R260). -/
def State.poisonAt (s : State) (addr n : Nat) : Option Nat :=
  ((touchedWords addr n).find? (fun w => tabGet false s.poison w)).map (4 * ·)

/-- Places of the bytes of [a, a+n) that lie in poisoned words. -/
def State.poisonMap (s : State) (a n : Nat) : List Nat :=
  if s.poison.isEmpty then [] else (rangeFrom 0 n).filter (fun i => tabGet false s.poison ((a + i) / 4))

/-- Poisons the words of [a, a+n). (DEDUCED, log 46.) -/
def State.setPoison (s : State) (a n : Nat) : State :=
  { s with poison := (touchedWords a n).foldl (fun t w => tabSet false t w true) s.poison }

/-! ## Regions (R86, R194) -/

/-- The region entry that holds a line: the lowest-numbered valid one (R194). -/
def State.regionOf (s : State) (a : Nat) : Option Dword :=
  (s.regions.find? (fun p =>
    let e := p.2.toNat
    bits e 63 63 == 1 && bits e 23 0 ≤ a / 64 && a / 64 ≤ bits e 47 24)).map (·.2)

/-- The address is PHASED: kind 0 of its region, or no region (R86). -/
def State.phased (s : State) (a : Nat) : Bool :=
  match s.regionOf a with
  | some e => !e.getLsbD 62
  | none => true

/-- The address lies in a discardable range (R86). -/
def State.discardable (s : State) (a : Nat) : Bool :=
  match s.regionOf a with
  | some e => e.getLsbD 61
  | none => false

/-! ## Phase write buffer (R88, R89) -/

/-- Line of the buffer for an address tag. -/
def Core.pwbLine (k : Core) (tag : Nat) : Option PwbLine := tabGet none k.pwb tag

/-- Lines of the buffer in use: PHASEOCC.OCC (R75). -/
def Core.occ (k : Core) : Nat := k.pwb.length

/-- Byte of the buffer at an S-address, where its mask bit is set. -/
def Core.pwbByte (k : Core) (a : Nat) : Option Byte :=
  match k.pwbLine (a / 64) with
  | some l => if l.mask.getLsbD (a % 64) then some (l.data.extractLsb' (8 * (a % 64)) 8) else none
  | none => none

/-- Stores one byte in the buffer; the later byte wins (R88). -/
def Core.pwbStore (k : Core) (a : Nat) (b : Byte) : Core :=
  let l := (k.pwbLine (a / 64)).getD { mask := 0, data := 0, poison := false }
  let i := a % 64
  let clr : Line := ~~~ ((BitVec.ofNat 512 0xFF) <<< (8 * i))
  let l' : PwbLine := { l with
    mask := l.mask ||| (1 <<< i)
    data := (l.data &&& clr) ||| ((b.zeroExtend 512) <<< (8 * i)) }
  { k with pwb := tabSet none k.pwb (a / 64) (some l') }

/-- Stores bytes in the buffer, then raises PHASEOCC.PEAK to OCC (R75). -/
def Core.pwbStores (k : Core) (a : Nat) : List Byte → Core
  | [] => { k with occPeak := BitVec.ofNat 14 (max k.occPeak.toNat k.occ) }
  | b :: bs => (k.pwbStore a b).pwbStores (a + 1) bs

/-- What core c reads at an S-address: the buffer's byte for PHASED memory where its mask bit is set, else memory (R88). -/
def State.coreByte (s : State) (c a : Nat) : Byte :=
  if s.phased a then ((s.core c).pwbByte a).getD (tabGet 0 s.sspace a) else tabGet 0 s.sspace a

/-- Bytes that core c reads (R88). -/
def State.coreRead (s : State) (c a n : Nat) : List Byte := (rangeFrom a n).map (s.coreByte c)

/-- Bytes of the phase write buffer of core c over [a, a+n), taken at the issue of a load of another slice (R368). -/
def State.overlay (s : State) (c a n : Nat) : List Host.Cell :=
  (rangeFrom a n).filterMap (fun i => if s.phased i then ((s.core c).pwbByte i).map (fun b => (i, b)) else none)

/-- Bytes of memory with an overlay on top. -/
def State.readOver (s : State) (ov : List Host.Cell) (a n : Nat) : List Byte :=
  (rangeFrom a n).map (fun i => match ov.find? (fun p => p.1 == i) with
    | some p => p.2
    | none => tabGet 0 s.sspace i)

/-- Bytes of word i of a buffer line that its mask selects, by their place in the line. -/
def pwbWord (l : PwbLine) (i : Nat) : List (Nat × Byte) :=
  (rangeFrom (4 * i) 4).filterMap (fun j =>
    if l.mask.getLsbD j then some (j, l.data.extractLsb' (8 * j) 8) else none)

/-- Drains word i of a line: a tagged word is left alone and counts one tag drop (R87); a poisoned line is written poisoned
(R260). (DEDUCED, log 63.) -/
def State.drainWord (s : State) (c tag : Nat) (l : PwbLine) (i : Nat) : State :=
  let bs := pwbWord l i
  let w := 16 * tag + i
  if bs.isEmpty then s
  else if tabGet false s.tags w then s.event c 0x0C 1
  else
    let s := if bs.length = 4 then s.sWrite (4 * w) (bs.map (·.2))
      else bs.foldl (fun st p => st.sWrite (64 * tag + p.1) [p.2]) s
    if l.poison then s.setPoison (4 * w) 4 else s

/-- Drains one line of the buffer. -/
def State.drainLine (c : Nat) (s : State) (p : Nat × Option PwbLine) : State :=
  match p.2 with
  | none => s
  | some l => (rangeFrom 0 16).foldl (fun st i => st.drainWord c p.1 l i) s

/-- Drains the buffer of core c, lines in ascending order of tag (R89). -/
def State.drainPwb (s : State) (c : Nat) : State :=
  ((s.core c).pwb.foldl (State.drainLine c) s).modCore c (fun k => { k with pwb := [] })

/-! ## HBM (R98, R100) -/

/-- Bytes of HBM. -/
def hbmTop : Nat := 0x8000000000

/-- First physical address of host-registered memory (Table 3.6). -/
def hostBase : Nat := 0x800000000000

/-- Bytes of HBM at a physical address. (DESIGN CHOICE, log 2.) -/
def State.hRead (s : State) (pa n : Nat) : List Byte := readBytes s.hbm pa n

/-- Writes bytes of HBM and clears their poison. -/
def State.hWrite (s : State) (pa : Nat) (bs : List Byte) : State :=
  { s with
    hbm := writeBytes s.hbm pa bs
    hbmPoison := if s.hbmPoison.isEmpty then s.hbmPoison else tabClear s.hbmPoison pa (pa + bs.length) }

/-- Writes bytes of HBM whose new values follow from what stood there: poison stays (R260). (DEDUCED, log 46.) -/
def State.hRewrite (s : State) (pa : Nat) (bs : List Byte) : State := { s with hbm := writeBytes s.hbm pa bs }

/-- Some byte of [pa, pa+n) is poisoned (R100). -/
def State.hPoisoned (s : State) (pa n : Nat) : Bool :=
  !s.hbmPoison.isEmpty && s.hbmPoison.any (fun p => pa ≤ p.1 && p.1 < pa + n)

/-- Places of the poisoned bytes of [pa, pa+n). -/
def State.hPoisonMap (s : State) (pa n : Nat) : List Nat :=
  if s.hbmPoison.isEmpty then []
  else (s.hbmPoison.filter (fun p => pa ≤ p.1 && p.1 < pa + n)).map (fun p => p.1 - pa)

/-- First poisoned byte of [pa, pa+n). -/
def State.hPoisonAt (s : State) (pa n : Nat) : Option Nat :=
  (s.hbmPoison.find? (fun p => pa ≤ p.1 && p.1 < pa + n)).map (·.1)

/-- Poisons bytes of HBM. (DEDUCED, log 46.) -/
def State.hSetPoison (s : State) (pa n : Nat) : State :=
  { s with hbmPoison := (rangeFrom pa n).foldl (fun t a => tabSet false t a true) s.hbmPoison }

/-- Poisons the bytes at some places behind a physical address. -/
def State.hMark (s : State) (pa : Nat) (ps : List Nat) : State :=
  { s with hbmPoison := ps.foldl (fun t i => tabSet false t (pa + i) true) s.hbmPoison }

/-- Memory is in canonical form: S-space and HBM list no address twice, out of order or with the byte 0.
(DESIGN CHOICE, log 66.) -/
def Memory.wf (s : State) : Bool := tabWf 0 s.sspace && tabWf 0 s.hbm

end Sys2Proof.Machine
end

