-- ==== Sys2Proof/Machine/Translate.lean ====
section
/-!
DEFINITION. Translation of V-addresses: the page walk (R102, R103), the two TLB arrays of a die (R106), permissions
(R104), host windows (R263), and reads and writes of V-space by the dispatcher and the Sill (R473, R266).
-/

namespace Sys2Proof.Machine

/-- Index of a level's table (Table 3.7). -/
def levelIndex (va level : Nat) : Nat :=
  match level with
  | 4 => bits va 51 34 | 3 => bits va 33 30 | 2 => bits va 29 26 | 1 => bits va 25 21 | _ => bits va 20 16

/-- Bytes of a table of a level (Table 3.7). -/
def tableSize (level : Nat) : Nat :=
  match level with
  | 4 => 0x200000 | 3 => 128 | 2 => 128 | _ => 256

/-- Bytes of a page of a level (Table 3.7). -/
def pageSize (level : Nat) : Nat :=
  match level with
  | 4 => 2 ^ 34 | 3 => 2 ^ 30 | 2 => 2 ^ 26 | 1 => 2 ^ 21 | _ => 2 ^ 16

/-- PA field of an entry (Table 3.8). -/
def ptePa (e : Dword) : Nat := bits e.toNat 47 7 * 128

/-- A valid leaf of a level: PA aligned and not reserved, REGION 0 or 1 (R99, R103). -/
def leafOk (e : Dword) (level : Nat) : Bool :=
  ptePa e % pageSize level == 0 && bits e.toNat 59 58 ≤ 1 && (ptePa e < hbmTop || hostBase ≤ ptePa e)

/-- The walk from a table of a level down (R102, R103): the leaf and its level, or nothing for an invalid entry. -/
def State.walkFrom (s : State) (va table : Nat) : Nat → Option (Nat × Dword)
  | 0 =>
    let e := dwordOf (s.hRead (table + 8 * levelIndex va 0) 8)
    if e.getLsbD 0 && e.getLsbD 1 && leafOk e 0 then some (0, e) else none
  | level + 1 =>
    let e := dwordOf (s.hRead (table + 8 * levelIndex va (level + 1)) 8)
    if !e.getLsbD 0 then none
    else if e.getLsbD 1 then (if leafOk e (level + 1) then some (level + 1, e) else none)
    else if ptePa e % tableSize level == 0 && ptePa e < hbmTop then s.walkFrom va (ptePa e) level
    else none

/-- The walk of a V-address from the session's root. -/
def State.walk (s : State) (va : Nat) : Option (Nat × Dword) := s.walkFrom va s.session.ptroot.toNat 4

/-- Physical address of a V-address under a leaf. -/
def leafPa (e : Dword) (level va : Nat) : Nat := ptePa e + va % pageSize level

/-- Permission bits of a leaf (Table 3.8). -/
def pteR (e : Dword) : Bool := e.getLsbD 2
def pteW (e : Dword) : Bool := e.getLsbD 3
def pteA (e : Dword) : Bool := e.getLsbD 4
def pteMig (e : Dword) : Bool := e.getLsbD 57
def pteImmediate (e : Dword) : Bool := bits e.toNat 59 58 == 1

/-! ## Live service (R285) -/

/-- Accesses to the pseudo-channel of one of n bytes wait while it is retrained (R98, R285). -/
def State.retrained (s : State) (pa n : Nat) : Bool :=
  s.sill.retrain.any (fun r => s.cycle.toNat < r.2.2.toNat && pa < hbmTop && bits pa 38 36 == r.1
    && (rangeFrom (pa / 256) ((pa + n + 255) / 256 - pa / 256)).any (fun b => b % 64 == r.2.1))

/-- No live service holds an access or a walk, and no held write waits. -/
def State.calm (s : State) : Bool :=
  s.sill.retrain.isEmpty && s.sill.walksHeld.toNat ≤ s.cycle.toNat && s.heldWrites.isEmpty

/-- Addresses of the entries that the walk from a table of a level down reads. -/
def State.walkReads (s : State) (va table : Nat) : Nat → List Nat
  | 0 => [table + 8 * levelIndex va 0]
  | level + 1 =>
    let at_ := table + 8 * levelIndex va (level + 1)
    let e := dwordOf (s.hRead at_ 8)
    at_ :: (if e.getLsbD 0 && !e.getLsbD 1 && ptePa e % tableSize level == 0 && ptePa e < hbmTop
      then s.walkReads va (ptePa e) level else [])

/-- A new walk waits: the walk unit takes microcode, or an entry it reads lies in a pseudo-channel that is retrained (R285). -/
def State.walkHeld (s : State) (va : Nat) : Bool :=
  s.cycle.toNat < s.sill.walksHeld.toNat
    || (!s.sill.retrain.isEmpty && (s.walkReads va s.session.ptroot.toNat 4).any (fun a => s.retrained a 8))

/-! ## TLB (R106) -/

/-- Bytes that a TLB entry covers: a 1 GiB page is held as a 64 MiB fragment. -/
def tlbSpan (level : Nat) : Nat := if level == 3 then 2 ^ 26 else pageSize level

/-- The entry covers the address. -/
def TlbEntry.covers (e : TlbEntry) (va : Nat) : Bool :=
  e.base.toNat ≤ va && va < e.base.toNat + tlbSpan e.level

/-- Lookup in the TLB of a die. -/
def State.tlbFind (s : State) (die va : Nat) : Option TlbEntry :=
  match (tabGet [] s.tlb die).find? (fun e => e.covers va) with
  | some e => some e
  | none => (tabGet [] s.tlbBig die).find? (fun e => e.covers va)

/-- Moves the entry that covers an address to the front (least-recently-used order). -/
def tlbTouch (es : List TlbEntry) (va : Nat) : List TlbEntry :=
  match es.find? (fun e => e.covers va) with
  | some e => e :: es.filter (fun f => !f.covers va)
  | none => es

/-- Drops the last member of a list that satisfies p. -/
def dropLastWhere (p : TlbEntry → Bool) (es : List TlbEntry) : List TlbEntry :=
  match es.reverse.span (fun e => !p e) with
  | (a, b) => (a ++ b.tail).reverse

/-- Set of a main-array entry: the spec fixes 512 sets of 8, not the hash (Config.tlbSet). (DESIGN CHOICE, log 9.) -/
def tlbSetOf (e : TlbEntry) : Nat := Config.tlbSet e.level e.base % 512

/-- Installs an entry in front; a full set loses its least recently used entry (R106). (DESIGN CHOICE, log 9.) -/
def State.tlbInsert (s : State) (die va level : Nat) (pte : Dword) : State :=
  let span := tlbSpan level
  let e : TlbEntry := { base := BitVec.ofNat 64 (va / span * span), level := level, pte := pte }
  if level == 4 then
    let es := tabGet [] s.tlbBig die
    { s with tlbBig := tabSet [] s.tlbBig die (e :: es.take 15) }
  else
    let es := tabGet [] s.tlb die
    let es := if es.length < 8 then es
      else if (es.filter (fun f => tlbSetOf f == tlbSetOf e)).length < 8 then es
      else dropLastWhere (fun f => tlbSetOf f == tlbSetOf e) es
    { s with tlb := tabSet [] s.tlb die (e :: es) }

/-- Marks the entry of an address as most recently used. -/
def State.tlbUse (s : State) (die va : Nat) : State :=
  { s with
    tlb := tabSet [] s.tlb die (tlbTouch (tabGet [] s.tlb die) va)
    tlbBig := tabSet [] s.tlbBig die (tlbTouch (tabGet [] s.tlbBig die) va) }

/-- What an engine gets for a V-address: a leaf, an invalid entry its walk has found, or a walk still to come. -/
inductive Xlate where
  | leaf (level : Nat) (pte : Dword)
  | invalid
  | pending
  deriving DecidableEq, Repr

/-- Translation by the TLB of a die, or by the result of a walk that found an invalid entry (R105, R106).
(DEDUCED, log 28.) -/
def State.xlate (s : State) (die va : Nat) : Xlate :=
  match s.tlbFind die va with
  | some e => .leaf e.level e.pte
  | none =>
    if s.walkMiss.any (fun w => w.1 == die && w.2.toNat / 0x10000 == va / 0x10000) then .invalid else .pending

/-- Asks the walk unit for a page, on behalf of a core of this device if one is named, unless it was asked already (R105). -/
def State.askWalk (s : State) (die : Nat) (c : Option Nat) (va : Nat) : State :=
  if s.walks.any (fun w => w.die == die && w.va.toNat / 0x10000 == va / 0x10000) then s
  else { s with walks := s.walks ++ [{ die := die, va := BitVec.ofNat 64 va, asked := s.cycle, core := c }] }

/-- Takes the note of a walk that found an invalid entry. -/
def State.takeMiss (s : State) (die va : Nat) : State :=
  { s with walkMiss := s.walkMiss.filter (fun w => !(w.1 == die && w.2.toNat / 0x10000 == va / 0x10000)) }

/-! ## Host windows (R263) -/

/-- The window of a host PA and the host address of an access of n bytes, where the window is bound and holds it. -/
def State.hostWindow (s : State) (pa n : Nat) : Option (Window × Dword) :=
  let w := tabGet {} s.session.windows (bits pa 46 44)
  let off := bits pa 43 0
  if w.valid && off + n ≤ w.size.toNat then some (w, w.base + BitVec.ofNat 64 off) else none

/-! ## Reads and writes by the dispatcher and the Sill (R473) -/

/-- Pieces of [va, va+n) that stay within 64 KiB, the smallest page: address and length; the fuel bounds the count. -/
def pagePieces : Nat → Nat → Nat → List (Nat × Nat)
  | 0, _, _ => []
  | fuel + 1, va, n =>
    if n = 0 then []
    else
      let m := min n (0x10000 - va % 0x10000)
      (va, m) :: pagePieces fuel (va + m) (n - m)

/-- Pieces of a range of n bytes. -/
def piecesOf (va n : Nat) : List (Nat × Nat) := pagePieces (n / 0x10000 + 2) va n

/-- An access without the TLB to n bytes of V-space waits (R285): its walk or its data are held, or a held write of the same
bytes is to come before it. (DESIGN CHOICE, log 62.) -/
def State.rangeHeld (s : State) (va n : Nat) : Bool :=
  !s.calm && (s.heldWrites.any (fun w => w.1.toNat < va + n && va < w.1.toNat + w.2.length)
    || (piecesOf va n).any (fun p => s.walkHeld p.1 || (match s.walk p.1 with
      | some (level, e) => s.retrained (leafPa e level p.1) p.2
      | none => false)))

/-- Accesses to one of several ranges wait. -/
def State.rangesHeld (s : State) (ranges : List (Nat × Nat)) : Bool := ranges.any (fun r => s.rangeHeld r.1 r.2)

/-- The bytes of a host PA that the dispatcher has read for a reader (R473, R263). -/
def State.hostGot (s : State) (reader : Option (Nat × Nat)) (pa n : Nat) : Option (List Byte) :=
  (s.hostData.find? (fun d => d.reader == reader && d.pa == pa)).bind (fun d => d.data.filter (fun bs => bs.length == n))

/-- Reads V-space for a reader without the TLB, of a host window what has been read of it; nothing where an entry is invalid,
RD is 0 or the data are poisoned (R473). (DEDUCED, log 28.) -/
def State.vReadFor (s : State) (reader : Option (Nat × Nat)) (va n : Nat) : Option (List Byte) :=
  if 2 ^ 52 < va + n then none
  else (piecesOf va n).foldl (fun acc p => match acc, s.walk p.1 with
    | some bs, some (level, e) =>
      let pa := leafPa e level p.1
      if !pteR e then none
      else if hostBase ≤ pa then (s.hostGot reader pa p.2).map (bs ++ ·)
      else if !s.hPoisoned pa p.2 then some (bs ++ s.hRead pa p.2) else none
    | _, _ => none) (some [])

/-- The same for the dispatcher and the Sill. (DEDUCED, log 28.) -/
def State.vRead (s : State) (va n : Nat) : Option (List Byte) := s.vReadFor none va n

/-- Pieces of ranges of V-space that lie in bound host windows: PA, length and V-address. -/
def State.hostPieces (s : State) (ranges : List (Nat × Nat)) : List (Nat × Nat × Nat) :=
  (ranges.flatMap (fun r => piecesOf r.1 r.2)).filterMap (fun p => match s.walk p.1 with
    | some (level, e) =>
      let pa := leafPa e level p.1
      if pteR e && hostBase ≤ pa && (s.hostWindow pa p.2).isSome then some (pa, p.2, p.1) else none
    | none => none)

/-- Those that have not been read yet for a reader. -/
def State.hostMissing (s : State) (reader : Option (Nat × Nat)) (ranges : List (Nat × Nat)) : List (Nat × Nat × Nat) :=
  (s.hostPieces ranges).filter (fun p => !s.hostData.any (fun d => d.reader == reader && d.pa == p.1))

/-- Ranges can be read for a reader: no live service holds them (R285), and the host has sent what lies in its windows (R473). -/
def State.canRead (s : State) (reader : Option (Nat × Nat)) (ranges : List (Nat × Nat)) : Bool :=
  !s.rangesHeld ranges && (s.hostMissing reader ranges).isEmpty

/-- What has been read of ranges for a reader through host windows is used up. -/
def State.dropHostData (s : State) (reader : Option (Nat × Nat)) (ranges : List (Nat × Nat)) : State :=
  if s.hostData.isEmpty then s
  else
    let ps := s.hostPieces ranges
    { s with hostData := s.hostData.filter (fun d => !(d.reader == reader && ps.any (fun p => p.1 == d.pa))) }

/-- Writes V-space without the TLB where the page is valid with W set and lies in HBM. (DEDUCED, log 28.) -/
def State.vWriteNow (s : State) (va : Nat) (bs : List Byte) : State :=
  (piecesOf va bs.length).foldl (fun st p => match st.walk p.1 with
    | some (level, e) =>
      let pa := leafPa e level p.1
      if pteW e && pa < hbmTop then st.hWrite pa ((bs.drop (p.1 - va)).take p.2) else st
    | none => st) s

/-- A write of V-space by the dispatcher or the Sill; one that a live service holds waits its turn (R285).
(DESIGN CHOICE, log 62.) (DEDUCED, log 28.) -/
def State.vWrite (s : State) (va : Nat) (bs : List Byte) : State :=
  if s.rangeHeld va bs.length then { s with heldWrites := s.heldWrites ++ [(BitVec.ofNat 64 va, bs)] }
  else s.vWriteNow va bs

/-- The held writes are made in their order, but for those that are held still. -/
def State.releaseWrites (s : State) : State :=
  if s.heldWrites.isEmpty then s
  else s.heldWrites.foldl (fun s w => s.vWrite w.1.toNat w.2) { s with heldWrites := [] }

/-- A queue pair is in use from its first request on (R261). (DESIGN CHOICE, log 55.) -/
def State.connect (s : State) (q : QpId) : State := if s.qps.contains q then s else { s with qps := s.qps ++ [q] }

/-- Sends an RDMA request of the device and notes who waits for its answer. -/
def State.sendHost (s : State) (who : HostWho) (q : QpId) (va : Option Dword) (o : HostOut) : State :=
  { s.connect q with
    hostOut := s.hostOut ++ [o], hostSeq := s.hostSeq + 1
    hostPending := s.hostPending ++ [{ q := q, who := who, va := va, id := s.hostSeq }] }

/-- Asks the host for what ranges of V-space still lack, each piece once (R473, R263). (DEDUCED, log 28.) -/
def State.fetchHost (s : State) (reader : Option (Nat × Nat)) (who : Nat → HostWho) (ranges : List (Nat × Nat)) : State :=
  if s.rangesHeld ranges then s
  else (s.hostMissing reader ranges).foldl (fun s p =>
    if s.hostPending.any (fun r => r.who == who p.1) then s
    else match s.hostWindow p.1 p.2.1 with
      | some (w, a) => s.sendHost (who p.1) { port := w.port, qpn := w.qpn } (some (BitVec.ofNat 64 p.2.2))
        (.rdmaRead { port := w.port, qpn := w.qpn } w.key a p.2.1)
      | none => s) s

/-! ## Records (R214, R265-R267) -/

/-- The 64 bytes of a record (Table 10.2). -/
def Record.bytes (r : Record) : List Byte :=
  dwordsBytes [
    r.dhseq ++ r.kind ++ r.code ++ r.tag,
    r.rcount ++ (0 : BitVec 25) ++ BitVec.ofBool r.rv ++ r.ring,
    (0 : BitVec 35) ++ r.pc ++ (0 : BitVec 7) ++ r.core ++ r.ctx,
    (0 : BitVec 8) ++ r.seq ++ (0 : BitVec 11) ++ r.stream ++ (0 : BitVec 5) ++ r.fabid,
    r.addr,
    (0 : BitVec 56) ++ r.aux,
    0, 0]

/-- A session is open for records: OPEN or CLOSING (R266). -/
def State.sessionOpen (s : State) : Bool :=
  s.session.state == .opened || s.session.state == .closing

/-- Sends a record (R214, R266): into the record log with DHLAST and into the host record ring, or, with no session
open, to the Sill, which holds its last 256. -/
def State.sendRecord (s : State) (r : Record) : State :=
  if s.sessionOpen then
    let r := { r with dhseq := s.dhseq }
    let bs := r.bytes
    let log := s.session.logva.toNat
    let s := s.vWrite (log + 64 + 64 * (r.dhseq.toNat % 2 ^ s.session.log2l)) bs
    let s := s.vWrite log (leBytes (r.dhseq + 1).toNat 4)
    let s := match s.hostWindow (s.session.hrecpa.toNat + 64 * (r.dhseq.toNat % 2 ^ s.session.log2h)) 64 with
      | some (w, a) => s.sendHost .nobody { port := w.port, qpn := w.qpn } none (.rdmaWrite { port := w.port, qpn := w.qpn } w.key a bs)
      | none => s
    { s with dhseq := s.dhseq + 1 }
  else
    let r := { r with dhseq := s.dhseq }
    let rs := s.sill.records ++ [r]
    { s with sill := { s.sill with records := rs.drop (rs.length - 256) } }

/-- A cause record of a context (KIND 0x02). -/
def causeRecord (code : BitVec 8) (c x : Nat) (pc : BitVec 13) : Record :=
  { dhseq := 0, kind := 0x02, code := code, pc := pc, core := BitVec.ofNat 7 c, ctx := BitVec.ofNat 2 x }

/-- Memories whose uncorrectable errors a record names (Table 10.2, Table 9.6). -/
inductive MemKind where
  | sspace | hbm | mas | istore
  deriving DecidableEq, Repr

/-- Number of a memory kind. -/
def MemKind.num : MemKind → Nat
  | .sspace => 0 | .hbm => 1 | .mas => 2 | .istore => 3

/-- An ECC.UNCORR record: the memory and the address of the data consumed (R251, Table 10.2): S-address, physical address,
row of the MAS or bundle index. (DESIGN CHOICE, log 11.) -/
def eccRecord (k : MemKind) (c x addr : Nat) : Record :=
  { causeRecord 0x80 c x 0 with addr := BitVec.ofNat 64 addr, aux := Config.memoryKind k.num }

end Sys2Proof.Machine
end

