-- ==== Sys2Proof/Machine/Ops.lean ====
section
/-!
DEFINITION. Named operations over a context: registers with their full/empty and dirty bits, latches, due buffer,
guards, capture and events; taking an exception (R249-R251) and returning from one (R337).
-/

namespace Sys2Proof.Machine

/-! ## Registers (R46-R52) -/

/-- Where s register n stands: s56-s63 have system copies at 64-71 (R46). (DEDUCED, log 12.) -/
def sKey (sys : Bool) (n : Nat) : Nat := if sys && 56 ≤ n then n + 8 else n

/-- Full/empty key of an s register, by where it stands. (DEDUCED, log 12.) -/
def sEmptyKey (key : Nat) : Nat := if 64 ≤ key then 1024 + (key - 8) else key

/-- Full/empty key of v register n of a cluster. -/
def vEmptyKey (cl n : Nat) : Nat := 64 + 64 * cl + n

/-- Sets a DIRTYMAP bit (R76). -/
def Ctx.dirty (cx : Ctx) (b : Nat) : Ctx := { cx with dirtymap := cx.dirtymap ||| (1 <<< b) }

/-- Reads an s register; s0 reads zero (R47). (DEDUCED, log 12.) -/
def Ctx.readS (cx : Ctx) (sys : Bool) (n : Nat) : Dword :=
  if n = 0 then 0 else tabGet 0 cx.sreg (sKey sys n)

/-- Writes the s register that stands at a key; a write of s0 is discarded (R47). -/
def Ctx.putS (cx : Ctx) (key : Nat) (v : Dword) : Ctx :=
  if key = 0 then cx
  else
    let cx := { cx with sreg := tabSet 0 cx.sreg key v }
    if key < 64 then cx.dirty (key / 4) else cx

/-- Writes an s register. (DEDUCED, log 12.) -/
def Ctx.writeS (cx : Ctx) (sys : Bool) (n : Nat) (v : Dword) : Ctx := cx.putS (sKey sys n) v

/-- Reads v register n of a cluster (R48). -/
def Ctx.readV (cx : Ctx) (cl n : Nat) : Line := tabGet 0 cx.vreg (64 * cl + n)

/-- Writes the lanes of a mask of a v register (R48). -/
def Ctx.writeV (cx : Ctx) (cl n : Nat) (mask : BitVec 16) (v : Line) : Ctx :=
  ({ cx with vreg := tabSet 0 cx.vreg (64 * cl + n) (mergeLanes mask (cx.readV cl n) v) }).dirty (16 + n / 4)

/-- The register of a full/empty key is empty (R50). (DEDUCED, log 12.) -/
def Ctx.isEmpty (cx : Ctx) (key : Nat) : Bool := tabGet false cx.empty key

/-- Sets a full/empty bit; s0 stays full (R47). -/
def Ctx.setEmpty (cx : Ctx) (key : Nat) (b : Bool) : Ctx :=
  if key = 0 then cx else { cx with empty := tabSet false cx.empty key b }

/-! ## Guards (R53, R54) -/

/-- Reads gn of a cluster. -/
def Ctx.readG (cx : Ctx) (cl n : Nat) : BitVec 16 := tabGet 0 cx.g (8 * cl + n)

/-- Writes the bits of a mask of gn. -/
def Ctx.writeG (cx : Ctx) (cl n : Nat) (mask v : BitVec 16) : Ctx :=
  ({ cx with g := tabSet 0 cx.g (8 * cl + n) ((v &&& mask) ||| (cx.readG cl n &&& ~~~ mask)) }).dirty 32

/-- Reads qn. -/
def Ctx.readQ (cx : Ctx) (n : Nat) : Bool := tabGet false cx.q n

/-- Writes qn. -/
def Ctx.writeQ (cx : Ctx) (n : Nat) (b : Bool) : Ctx := ({ cx with q := tabSet false cx.q n b }).dirty 32

/-! ## Planes, latches and the due buffer (R45, R55-R60) -/

/-- The plane a context issues on. -/
def Ctx.plane (cx : Ctx) (sys : Bool) : Plane := if sys then cx.sys else cx.user

/-- Changes a plane. -/
def Ctx.modPlane (cx : Ctx) (sys : Bool) (f : Plane → Plane) : Ctx :=
  if sys then { cx with sys := f cx.sys } else { cx with user := f cx.user }

/-- Operand latch of a port key. -/
def Ctx.latch (cx : Ctx) (sys : Bool) (key : Nat) : Latch := tabGet {} (cx.plane sys).latches key

/-- Writes an operand latch; on the user plane this sets DIRTYMAP.PORTS (R76). -/
def Ctx.setLatch (cx : Ctx) (sys : Bool) (key : Nat) (l : Latch) : Ctx :=
  let cx := cx.modPlane sys (fun p => { p with latches := tabSet {} p.latches key l })
  if sys then cx else cx.dirty 36

/-- A trigger clears valid on each operand latch of its unit whose hold bit is 0 (R55). -/
def Ctx.consume (cx : Ctx) (sys : Bool) (keys : List Nat) : Ctx :=
  keys.foldl (fun cx k =>
    let l := cx.latch sys k
    if l.valid && !l.hold then cx.setLatch sys k { l with valid := false } else cx) cx

/-- Result latch of a port key. -/
def Ctx.result (cx : Ctx) (sys : Bool) (key : Nat) : Line := tabGet 0 (cx.plane sys).results key

/-- Adds a record to the due buffer (R58). -/
def Ctx.addDue (cx : Ctx) (sys : Bool) (r : DueRec) : Ctx :=
  cx.modPlane sys (fun p => { p with due := p.due ++ [r] })

/-- ORs flags into ACFLAGS (R70). -/
def Ctx.raiseFlags (cx : Ctx) (f : BitVec 6) : Ctx := { cx with acflags := cx.acflags ||| f }

/-- Lands one record (R59, R360): latch, register or guard pair, and its flags. -/
def Ctx.land (cx : Ctx) (sys : Bool) (r : DueRec) : Ctx :=
  let cx := cx.raiseFlags r.flags
  match r.dst with
  | .latch k =>
    let cx := cx.modPlane sys (fun p => { p with
      results := tabSet 0 p.results k (mergeLanes r.mask (tabGet 0 p.results k) r.val) })
    if sys then cx else cx.dirty 36
  | .sreg n => cx.putS n (low64 r.val)
  | .vreg cl n => cx.writeV cl n r.mask r.val
  | .qpair p => (cx.writeQ (2 * p + 1) (r.val.getLsbD 0)).writeQ (2 * p + 2) (!r.val.getLsbD 0)
  | .gpair cl p =>
    let v := r.val.extractLsb' 0 16
    (cx.writeG cl (2 * p + 1) r.mask v).writeG cl (2 * p + 2) r.mask (~~~ v)

/-- The records due at a cycle count. -/
def Plane.dueAt (p : Plane) (t : Dword) : List DueRec := p.due.filter (fun r => r.due == t)

/-- What the banks of the own slice have granted to the bundle of the context is done with (R83). -/
def Ctx.freeBanks (cx : Ctx) : Ctx := { cx with grants := [], bankLost := [] }

/-- A bundle of a plane has issued: its cycle count rises by one and the records due then land (R59). -/
def Ctx.advance (cx : Ctx) (sys : Bool) : Ctx :=
  let t := (cx.plane sys).cyc + 1
  let rs := (cx.plane sys).dueAt t
  let cx := (cx.modPlane sys (fun p => { p with cyc := t, due := p.due.filter (fun r => r.due != t) })).freeBanks
  rs.foldl (fun cx r => cx.land sys r) cx

/-! ## Capture unit (R221, R222) -/

/-- One sample of quantity src on core c (R222). -/
def State.sample (s : State) (c src : Nat) (v : Nat) : State :=
  s.modCore c (fun k =>
    if k.perfHen && bits k.hcapsel.toNat 5 0 == src && src != 0 then
      let v := min v 0x7FFFFFFF
      let w : Word := BitVec.ofNat 32 (0x80000000 + v)
      let lo := bits k.hcapmin.toNat 30 0
      let hi := bits k.hcapmax.toNat 30 0
      let base := bits k.hcapsel.toNat 31 16
      let d := if v < base then 0 else (v - base) / 2 ^ bits k.hcapsel.toNat 15 12
      let n := min d 31
      let old := tabGet 0 k.hbin n
      { k with
        hcapmin := if !k.hcapmin.getLsbD 31 || v < lo then w else k.hcapmin
        hcapmax := if !k.hcapmax.getLsbD 31 || hi < v then w else k.hcapmax
        hbin := if old == 0xFFFFFFFF then k.hbin else tabSet 0 k.hbin n (old + 1) }
    else k)

/-! ## Blocking and waking (R39, R51, R178) -/

/-- The context enters BLOCKED and gives up its seat (R39), unless its bundle has ended it (R260); a `task.done` that drained
begins again (R326), and full queues stall it in this cycle (R158). (DEDUCED, log 20.) -/
def State.blockCtx (s : State) (c x : Nat) (b : Block) : State :=
  let was := (s.ctx c x).state == .blocked
  if (s.ctx c x).state == .dead then s
  else s.modCtx c x (fun cx => { cx with
    state := .blocked, block := b, seatedNow := false, completing := cx.completing.filter (· != .taskDone)
    stalls := (match b with
      | .queueFull us => us
      | _ => cx.stalls)
    blockedSince := if was then cx.blockedSince else s.cycle })

/-- A BLOCKED context becomes READY; its READY age starts now (R178). -/
def State.wakeCtx (s : State) (c x : Nat) : State :=
  let cx := s.ctx c x
  if cx.state == .blocked then
    let s := s.sample c 0x06 (s.cycle - cx.blockedSince).toNat
    s.modCtx c x (fun cx => { cx with state := .ready, block := .no, readySince := s.cycle })
  else s

/-! ## Taking an exception -/

/-- A cause as it will be delivered: its code and the contents of TRAPINFO (R69, Tables 2.8 and 9.2). -/
structure Trap where
  cause : BitVec 8
  info  : Dword
  deriving DecidableEq, Repr

/-- TRAPINFO from its fields (Table 2.7). -/
def trapInfoWord (slot : Option Nat) (aux addr : Nat) : Dword :=
  BitVec.ofNat 3 (slot.getD 0) ++ BitVec.ofBool slot.isSome ++ BitVec.ofNat 8 aux ++ BitVec.ofNat 52 addr

/-- Cause codes (Table 9.1). -/
def causeExecData : BitVec 8 := 0x01
def causeSlotIllegal : BitVec 8 := 0x02
def causePortCollide : BitVec 8 := 0x03
def causeOperandEmpty : BitVec 8 := 0x04
def causeRegEmpty : BitVec 8 := 0x05
def causeQueueFull : BitVec 8 := 0x06
def causeBarStore : BitVec 8 := 0x07
def causeTileBounds : BitVec 8 := 0x08
def causeFmtScales : BitVec 8 := 0x09
def causeAlign : BitVec 8 := 0x0A
def causeSaddrRange : BitVec 8 := 0x0B
def causePhaseOvf : BitVec 8 := 0x0C
def causeRegionKind : BitVec 8 := 0x0D
def causeLoopNest : BitVec 8 := 0x0E
def causePriv : BitVec 8 := 0x0F
def causeTrap : BitVec 8 := 0x10
def causeBreak : BitVec 8 := 0x11
def causeXlateLoad : BitVec 8 := 0x20
def causeXlatePerm : BitVec 8 := 0x21
def causeSidelogFull : BitVec 8 := 0x22
def causeRemoteErr : BitVec 8 := 0x30
def causePreempt : BitVec 8 := 0x40
def causeTimer : BitVec 8 := 0x41
def causeQuotaOvf : BitVec 8 := 0x43
def causeLinkDown : BitVec 8 := 0x44
def causeKeyDue : BitVec 8 := 0x45
def causeGangNofit : BitVec 8 := 0x46
def causeEccUncorr : BitVec 8 := 0x80
def causeFwErr : BitVec 8 := 0x81

/-- Delivery of a cause to a context on its user plane (R249): TRAPCAUSE, TRAPPC and TRAPINFO are written, the user
plane freezes, the system plane is emptied and starts at bundle 0; a `task.done` that drained begins again (R326). Delivery
of TIMER disarms the timer (R344). -/
def Ctx.takeTrap (cx : Ctx) (t : Trap) : Ctx :=
  { cx with
    trapCause := t.cause
    trapPc := cx.user.pc
    trapInfo := t.info
    modeSys := true
    state := .system
    block := .no
    sys := {}
    completing := cx.completing.filter (· != .taskDone)
    grants := []
    bankLost := []
    timer := if t.cause == causeTimer then none else cx.timer }

/-- A `task.post` of the context that a cause has abandoned (R326): what has been read for it goes, and what is still to come
is nobody's. -/
def State.dropPost (s : State) (c x : Nat) : State :=
  { s with
    hostData := s.hostData.filter (fun d => d.reader != some (c, x))
    hostPending := s.hostPending.map (fun r => match r.who with
      | .post d y _ => if d == c && y == x then { r with who := .nobody } else r
      | _ => r) }

/-- Delivery in the state: an event 0x0B is counted (Table 7.3). -/
def State.deliver (s : State) (c x : Nat) (t : Trap) : State :=
  ((s.dropPost c x).modCtx c x (fun cx => cx.takeTrap t)).event c 0x0B 1

/-- A synchronous cause on the system plane halts the context (R250): it gives up its seat, the trap registers keep
their values, and an FW.ERR record goes to the host. (DEDUCED, log 21.) -/
def State.haltSystem (s : State) (c x : Nat) (cause : BitVec 8) : State :=
  let pc := (s.ctx c x).sys.pc
  let s := s.modCtx c x (fun cx => { cx with sysHalted := true, seatedNow := false })
  s.sendRecord { causeRecord causeFwErr c x pc with aux := cause }

/-- A synchronous cause of a bundle: a trap on the user plane, a halt on the system plane (R62, R249, R250).
(DEDUCED, log 21.) -/
def State.raise (s : State) (c x : Nat) (t : Trap) : State :=
  if (s.ctx c x).modeSys then s.haltSystem c x t.cause else s.deliver c x t

/-- Sets a pending flag; a cause whose flag is set already is not raised again (R246). A pending cause wakes a context
that is BLOCKED for any reason but `phase` or `halt` (R248, R335). -/
def State.pendCause (s : State) (c x : Nat) (cause : BitVec 8) (info : Dword) : State :=
  let s := s.modCtx c x (fun cx =>
    if (tabGet none cx.pend cause.toNat).isSome then cx
    else { cx with pend := tabSet none cx.pend cause.toNat (some info) })
  if (s.ctx c x).modeSys then s
  else match (s.ctx c x).block with
  | .phase => s
  | .halt => s
  | .no => s
  | _ => s.wakeCtx c x

/-- The pending cause that is taken first: deferred causes and then async ones, lowest code first (R247). -/
def Ctx.firstPending (cx : Ctx) : Option Trap :=
  match cx.pend.find? (fun p => p.2.isSome) with
  | some (code, some info) => some { cause := BitVec.ofNat 8 code, info := info }
  | _ => none

/-- Return from the system plane (R337): MODE.SYS clears, the system plane's records are discarded, the user plane
resumes at TRAPPC. A context that its bundle has ended stays DEAD (R260). -/
def Ctx.returnFromTrap (cx : Ctx) : Ctx :=
  { cx with
    modeSys := false
    state := if cx.state == .dead then .dead else .seated
    sys := { cx.sys with due := [] }
    user := { cx.user with pc := cx.trapPc } }

/-! ## Death (R251) and kernel errors (R20) -/

/-- A counter that saturates at its all-ones value (R207). -/
def satAdd1 (w : Word) : Word := if w == 0xFFFFFFFF then w else w + 1

/-- Marks the effect of the tile step of a context (R33). (DEDUCED, log 26.) -/
def State.markEffect (s : State) (c x : Nat) : State :=
  match (s.ctx c x).step with
  | some i => { s with steps := s.steps.map (fun t => if t.id == i then { t with emark := true } else t) }
  | none => s

/-- A kernel error marks a RUNNING kernel FAILED (R20). (DEDUCED, log 59.) -/
def State.kernelError (s : State) : State :=
  if s.kernel.state == .running then { s with kernel := { s.kernel with state := .failed } } else s

/-- Fails a tile step and with it its task (R32, R24). -/
def State.failStep (s : State) (i : Nat) : State :=
  let task := (s.steps.find? (fun t => t.id == i)).map (·.task)
  { s with
    steps := s.steps.map (fun t => if t.id == i then { t with state := .failed } else t)
    tasks := s.tasks.map (fun t => if some t.id == task then { t with state := .failed } else t) }

/-- Key of a (stream, destination) pair. -/
def strKey (stream dest : Nat) : Nat := 2048 * stream + dest

/-- DEST of a control word (R418). -/
def ctlDest (w : Dword) : BitVec 11 := w.extractLsb' 20 11

/-- Stream of a remote write, reduction or atomic. -/
def CmdOp.stream : CmdOp → Option (BitVec 5)
  | .rput s .. | .rred s .. | .ratom s .. | .row s .. => some s
  | _ => none

/-- Destination of a remote operation: its own field, or bits of its control word (R418). -/
def CmdOp.dest : CmdOp → BitVec 11
  | .row _ d _ _ _ => d
  | .rget _ _ w _ | .rput _ _ _ w _ | .rred _ _ _ w _ | .ratom _ _ _ w _ => ctlDest w
  | _ => 0

/-- One operation of a pair is no longer uncommitted; STRFENCE follows (R74, R142). -/
def Ctx.commitDone (cx : Ctx) (stream : BitVec 5) (dst : BitVec 11) : Ctx :=
  let k := strKey stream.toNat dst.toNat
  let t := tabSet 0 cx.uncommitted k (tabGet 0 cx.uncommitted k - 1)
  let open_ := t.any (fun p => p.1 / 2048 == stream.toNat)
  { cx with
    uncommitted := t
    strFence := if open_ then cx.strFence else cx.strFence &&& ~~~ ((1 : BitVec 32) <<< stream.toNat) }

/-- A command that no unit has accepted is discarded: a remote one is never sent and counts no more as uncommitted.
(DESIGN CHOICE, log 73.) -/
def Ctx.discard (cx : Ctx) (m : Cmd) : Ctx :=
  match m.op.stream with
  | some st => cx.commitDone st m.op.dest
  | none => cx

/-- The commands of a context that no unit has accepted. -/
def Core.unaccepted (k : Core) (x : Nat) : List Cmd := (rangeFrom 0 15).flatMap (fun u => tabGet [] k.queues (4 * u + x))

/-- The core without them: they hold no tile any more (R202). -/
def Core.discard (k : Core) (x : Nat) : Core :=
  let ms := k.unaccepted x
  { k with
    queues := (rangeFrom 0 15).foldl (fun q u => tabSet [] q (4 * u + x) []) k.queues
    tileUse := k.tileUse.filter (fun p => !ms.any (fun m => m.serial == p.2)) }

/-- The loop buffer is free again when its context leaves the core or ends. -/
def Core.freeLoop (k : Core) (x : Nat) : Core :=
  match k.loopHolder with
  | some (y, _) => if y = x then { k with loopHolder := none, loopBuf := [] } else k
  | none => k

/-- A DEAD context: the values still to arrive for its registers are discarded (R251). -/
def Ctx.die (cx : Ctx) : Ctx :=
  { cx with
    state := .dead, block := .no, seatedNow := false, completing := []
    late := cx.late.filterMap (fun l => match l.kind with
      | .engine _ => none
      | _ => some { l with dst := none })
    step := none, modeSys := false, timer := none, live := [], acquireHold := [] }

/-- A context ends (R251): DEAD, its tile step FAILED, its commands not yet accepted discarded, one record sent, and
the kernel FAILED (R20). (DESIGN CHOICE, log 73.) -/
def State.endCtx (s : State) (c x : Nat) (r : Record) : State :=
  if (s.ctx c x).state == .dead then s
  else
    let cx := s.ctx c x
    let ms := (s.core c).unaccepted x
    let s := s.sendRecord { r with pc := cx.user.pc, core := BitVec.ofNat 7 c, ctx := BitVec.ofNat 2 x }
    let s := (s.dropPost c x).modCore c (fun k => (k.discard x).freeLoop x)
    let s := s.modCtx c x (fun cx => (ms.foldl Ctx.discard cx).die)
    let s := match cx.step with
      | some i => s.failStep i
      | none => s
    s.kernelError

end Sys2Proof.Machine
end

