-- ==== Sys2Proof/Machine/Operands.lean ====
section
/-!
DEFINITION. Operand forms: control and status registers as they read (Table 2.4), stage-queue entries (R435-R438),
every source port (Tables 12.2, 12.8, 12.9), immediates (R293), and the width conversion of a move (R292).
-/

namespace Sys2Proof.Machine

/-! ## Control and status registers (R66-R77) -/

/-- Format-table entry that FMTSEL selects (R71). -/
def Ctx.fmtIndex (cx : Ctx) : Nat :=
  if cx.fmtLevel == 0xF then cx.fmtFix.toNat else (tabGet 0 cx.loopctr cx.fmtLevel.toNat).toNat % 16

/-- CTXID (Table 2.5). -/
def State.ctxid (s : State) (c x : Nat) : Dword :=
  BitVec.ofNat 64 (s.fabid.toNat * 65536 + c * 4 + x)

/-- The register of a CSR number as it stands (Table 2.4); nothing for a number the table does not list. -/
def State.csr (s : State) (c x n : Nat) : Option Dword :=
  let k := s.core c
  let cx := k.ctx x
  let z (v : Word) : Dword := v.zeroExtend 64
  if n == 0x000 then some (s.ctxid c x)
  else if n == 0x001 then some (if cx.modeSys then 1 else 0)
  else if n == 0x002 then some s.codeva
  else if n == 0x008 then some s.cycle
  else if n == 0x009 then some cx.user.cyc
  else if n == 0x00A then some cx.sys.cyc
  else if n == 0x00B then some k.frzcnt
  else if n == 0x00C then some (k.pwrlim.zeroExtend 64)
  else if n == 0x010 then some (cx.trapCause.zeroExtend 64)
  else if n == 0x011 then some (cx.trapPc.zeroExtend 64)
  else if n == 0x012 then some cx.trapInfo
  else if n == 0x018 then some (cx.acflags.zeroExtend 64)
  else if 0x020 ≤ n && n ≤ 0x025 then some (z (tabGet 0 cx.loopctr (n - 0x020)))
  else if n == 0x026 then some (BitVec.ofNat 64 (cx.fmtFix.toNat * 256 + cx.fmtLevel.toNat))
  else if 0x030 ≤ n && n ≤ 0x037 then some (z (tabGet 0 k.tdone (n - 0x030)))
  else if 0x038 ≤ n && n ≤ 0x03F then some (z (tabGet 0 k.tnext (n - 0x038)))
  else if 0x040 ≤ n && n ≤ 0x04E then some (z (tabGet 0 cx.qstall (n - 0x040)))
  else if n == 0x04F then some 0
  else if n == 0x050 then some (cx.qmode.zeroExtend 64)
  else if n == 0x058 then some (BitVec.ofNat 64 (cx.strStream.toNat * 65536 + cx.strDest.toNat))
  else if n == 0x059 then
    some (if cx.strStream == 0 then 0
      else (tabGet 0 cx.strNext (strKey cx.strStream.toNat cx.strDest.toNat)).zeroExtend 64)
  else if n == 0x05A then some (z cx.strFence)
  else if n == 0x060 then some (BitVec.ofNat 64 (k.phaseGroup.toNat * 2 ^ 32 + k.phase.toNat))
  else if n == 0x061 then some (BitVec.ofNat 64 (k.occPeak.toNat * 65536 + k.occ))
  else if n == 0x068 then some (cx.dirtymap.zeroExtend 64)
  else if n == 0x070 then
    some (BitVec.ofNat 64 ((if k.perfFrz then 65536 else 0) + (if k.perfHen then 256 else 0) + k.perfEn.toNat))
  else if n == 0x071 then some (z k.perfSel)
  else if 0x072 ≤ n && n ≤ 0x075 then some (tabGet 0 k.pmc (n - 0x072))
  else if n == 0x078 then some (z k.hcapsel)
  else if n == 0x079 then some (z k.hcapmin)
  else if n == 0x07A then some (z k.hcapmax)
  else if 0x080 ≤ n && n ≤ 0x09F then some (z (tabGet 0 k.hbin (n - 0x080)))
  else none

/-- Registers that Table 2.4 marks "—" for user mode. -/
def csrSystemOnly (n : Nat) : Bool := n == 0x00A || (0x010 ≤ n && n ≤ 0x012) || n == 0x068

/-! ## Stage-queue entries (R435-R438) -/

/-- The stage a core is assigned to, as its stage-table entry. -/
def State.stageOf (s : State) (c : Nat) : Option Stage := (s.core c).stage.map (tabGet {} s.kernel.stages)

/-- Queue index that INQk of the core's stage names. -/
def State.inq (s : State) (c k : Nat) : Option Nat := (s.stageOf c).bind (fun st => (st.inq.getD k none))

/-- Queue index that OUTQk of the core's stage names. -/
def State.outq (s : State) (c k : Nat) : Option Nat := (s.stageOf c).bind (fun st => (st.outq.getD k none))

/-- The tile step of a context. -/
def State.stepOf (s : State) (c x : Nat) : Option TileStep :=
  match (s.ctx c x).step with
  | some i => s.steps.find? (fun t => t.id == i)
  | none => none

/-- Changes a tile step. -/
def State.modStep (s : State) (i : Nat) (f : TileStep → TileStep) : State :=
  { s with steps := s.steps.map (fun t => if t.id == i then f t else t) }

/-- Slots filled (R162). -/
def StageQ.count (q : StageQ) : Nat := (q.tail - q.head).toNat

/-- Ring entries held (R162). -/
def StageQ.ringCount (q : StageQ) : Nat := (q.ovtail - q.ovhead).toNat

/-- S-address of the slot of a count. -/
def StageQ.slotAddr (q : StageQ) (n : Word) : Nat := q.base.toNat + 64 * q.lines * (n.toNat % 2 ^ q.log2d)

/-- The lines of a slot in S-space. -/
def State.slotLines (s : State) (q : StageQ) (n : Word) : List Line :=
  (rangeFrom 0 q.lines).map (fun i => lineOf (s.sRead (q.slotAddr n + 64 * i) 64))

/-- Its lines that hold a poisoned word, with the address of the first (R260). -/
def State.slotPoison (s : State) (q : StageQ) (n : Word) : List (Nat × Nat) :=
  (rangeFrom 0 q.lines).filterMap (fun i => (s.poisonAt (q.slotAddr n + 64 * i) 64).map (fun a => (i, a)))

/-- A read of INQk by a context: what the port finds (R437). -/
inductive QueueRead where
  /-- INQ0 after its bound entry's last line: REG.EMPTY whatever E holds. -/
  | spent
  /-- Nothing to read: as an empty register (R165). -/
  | empty
  /-- The line at the cursor, its VMASK, and the state after a pop. -/
  | line (v : Line) (mask : BitVec 16) (after : State)

/-- Reads a line of an entry and moves its cursor. -/
def QEntry.next (e : QEntry) : Option QEntry :=
  if e.cursor + 1 < e.lines.length then some { e with cursor := e.cursor + 1 } else none

/-- The line of an input queue at the cursor, and the state after consuming it (R437). -/
def State.queueRead (s : State) (c x k : Nat) : QueueRead :=
  match s.stepOf c x with
  | none => .empty
  | some t =>
    match tabGet none t.reads k with
    | some e =>
      let after := s.modStep t.id (fun t =>
        { t with reads := tabSet none t.reads k e.next, lastMask := e.vmask })
      .line (e.lines.getD e.cursor 0) e.vmask after
    | none =>
      if k = 0 then .spent
      else match s.inq c k with
        | none => .empty
        | some qi =>
          let q := tabGet {} s.queues qi
          if q.count = 0 then .empty
          else
            let m := tabGet 0 q.vmask (q.head.toNat % 2 ^ q.log2d)
            let e : QEntry := { lines := s.slotLines q q.head, vmask := m, cursor := 0, poison := s.slotPoison q q.head }
            let s' := { s with queues := tabSet {} s.queues qi { q with head := q.head + 1 } }
            let after := s'.modStep t.id (fun t =>
              { t with reads := tabSet none t.reads k e.next, lastMask := m })
            .line (e.lines.getD 0 0) m after

/-- The poisoned word that a read of an input queue by a context takes with its line, if any (R260). (DEDUCED, log 46.) -/
def State.queueTaint (s : State) (c x k : Nat) : Option Nat :=
  match s.stepOf c x with
  | none => none
  | some t => match tabGet none t.reads k with
    | some e => (e.poison.find? (fun p => p.1 == e.cursor)).map (·.2)
    | none =>
      if k = 0 then none
      else match s.inq c k with
        | none => none
        | some qi =>
          let q := tabGet {} s.queues qi
          if q.count = 0 then none else s.poisonAt (q.slotAddr q.head) 64

/-! ## Sources -/

/-- The kind of a source port (Tables 12.2 and 12.8). -/
inductive SrcKind where
  | reserved
  | result (key : Nat)
  | sreg (n : Nat)
  | vreg (n : Nat)
  | g (n : Nat)
  | q (n : Nat)
  | pop (k : Nat)
  | peek (k : Nat)
  | vlane
  | vmask
  | csr (n : Nat)
  /-- An immediate of `n` carriers from slot k. -/
  | imm (k n : Nat)
  | const (v : Dword)
  | cluster
  | coreId
  | context
  | die
  | fabid
  | sbase
  | pc
  deriving DecidableEq, Repr

/-- The port lies in the shared domain of sources (R291). -/
def sharedSrc (s : BitVec 9) : Bool := 0x100 ≤ s.toNat

/-- The kind of a source port. -/
def srcKind (s : BitVec 9) : SrcKind :=
  let n := s.toNat
  match constPort s with
  | some v => .const v
  | none =>
    if 0x001 ≤ n && n ≤ 0x005 then .result n
    else if 0x040 ≤ n && n ≤ 0x07F then .vreg (n - 0x040)
    else if 0x080 ≤ n && n ≤ 0x083 then .pop (n - 0x080)
    else if 0x084 ≤ n && n ≤ 0x087 then .peek (n - 0x084)
    else if n == 0x088 then .vlane
    else if 0x0F1 ≤ n && n ≤ 0x0F6 then .g (n - 0x0F0)
    else if 0x100 ≤ n && n ≤ 0x13F then .sreg (n - 0x100)
    else if 0x141 ≤ n && n ≤ 0x146 then .q (n - 0x140)
    else if 0x148 ≤ n && n ≤ 0x14D then .result n
    else if 0x150 ≤ n && n ≤ 0x153 then .pop (n - 0x150)
    else if 0x154 ≤ n && n ≤ 0x157 then .peek (n - 0x154)
    else if n == 0x158 then .vmask
    else if n == 0x180 then .csr 0x008
    else if n == 0x181 then .csr 0x009
    else if n == 0x182 then .csr 0x000
    else if n == 0x183 then .csr 0x001
    else if n == 0x184 then .csr 0x018
    else if 0x185 ≤ n && n ≤ 0x18A then .csr (0x020 + (n - 0x185))
    else if n == 0x18B then .csr 0x026
    else if n == 0x18C then .csr 0x050
    else if n == 0x18D then .csr 0x059
    else if n == 0x18E then .csr 0x05A
    else if n == 0x18F then .csr 0x060
    else if 0x190 ≤ n && n ≤ 0x197 then .csr (0x030 + (n - 0x190))
    else if 0x198 ≤ n && n ≤ 0x19F then .csr (0x038 + (n - 0x198))
    else if n == 0x1A0 then .csr 0x00B
    else if n == 0x1A1 then .csr 0x00C
    else if n == 0x1A2 then .csr 0x002
    else if 0x1B8 ≤ n && n ≤ 0x1BD then .imm (n - 0x1B8) 3
    else if 0x1E0 ≤ n && n ≤ 0x1E7 then .imm (n - 0x1E0) 1
    else if 0x1E8 ≤ n && n ≤ 0x1EE then .imm (n - 0x1E8) 2
    else if n == 0x1F2 then .cluster
    else if n == 0x1F3 then .coreId
    else if n == 0x1F4 then .context
    else if n == 0x1F5 then .die
    else if n == 0x1F6 then .fabid
    else if n == 0x1F7 then .sbase
    else if n == 0x1F8 then .pc
    else .reserved

/-- The immediate of n carriers from slot k, sign-extended (R293); nothing where a slot is no carrier. -/
def immediate (carriers : Tab (Option (BitVec 21))) (k n : Nat) : Option Dword :=
  match n, tabGet none carriers k, tabGet none carriers (k + 1), tabGet none carriers (k + 2) with
  | 1, some a, _, _ => some (a.signExtend 64)
  | 2, some a, some b, _ => some ((b ++ a).signExtend 64)
  | 3, some a, some b, some d => some ((d ++ (b ++ a)).signExtend 64)
  | _, _, _, _ => none

/-- What the source reads need to know of their bundle. -/
structure Site where
  core : Nat
  ctx  : Nat
  sys  : Bool
  carriers : Tab (Option (BitVec 21))
  deriving DecidableEq, Repr

/-- Full/empty key of the register a source port reads (R51). -/
def srcEmptyKey (sys : Bool) (slot : Nat) (s : BitVec 9) : Option Nat :=
  match srcKind s with
  | .sreg n => if n = 0 then none else some (sEmptyKey (sKey sys n))
  | .vreg n => some (vEmptyKey slot n)
  | _ => none

/-- Lane l of cluster k reads 16k + l (Table 12.2). -/
def vlaneLine (cl : Nat) : Line := mapLanes (fun l => BitVec.ofNat 32 (16 * cl + l))

/-- The value of a source port in a slot, from a state; a scalar value stands in the low 64 bits. Queue ports read the
line at the cursor; consuming it is `State.queueRead`'s other part. -/
def State.source (s : State) (e : Site) (slot : Nat) (src : BitVec 9) : Line :=
  let cx := s.ctx e.core e.ctx
  let queue (k : Nat) : Line :=
    match s.queueRead e.core e.ctx k with
    | .line v _ _ => if sharedSrc src then ofDword (low64 v) else v
    | _ => 0
  match srcKind src with
  | .reserved => 0
  | .result key => cx.result e.sys (if sharedSrc src then key else key + 1024 * slot)
  | .sreg n => ofDword (cx.readS e.sys n)
  | .vreg n => cx.readV slot n
  | .g n => (cx.readG slot n).zeroExtend 512
  | .q n => if cx.readQ n then 1 else 0
  | .pop k => queue k
  | .peek k => queue k
  | .vlane => vlaneLine slot
  | .vmask => ((s.stepOf e.core e.ctx).map (fun t => t.lastMask.zeroExtend 512)).getD 0
  | .csr n => ofDword ((s.csr e.core e.ctx n).getD 0)
  | .imm k n => ofDword ((immediate e.carriers k n).getD 0)
  | .const v => ofDword v
  | .cluster => BitVec.ofNat 512 slot
  | .coreId => BitVec.ofNat 512 e.core
  | .context => BitVec.ofNat 512 e.ctx
  | .die => BitVec.ofNat 512 (dieOf e.core)
  | .fabid => s.fabid.zeroExtend 512
  | .sbase => BitVec.ofNat 512 (e.core * 0x800000)
  | .pc => ((cx.plane e.sys).pc).zeroExtend 512


/-! ## Destinations and width conversion (R291, R292) -/

/-- The port lies in the shared domain of destinations (R291). -/
def sharedDst (d : BitVec 10) : Bool := 0x100 ≤ d.toNat

/-- The value a move writes (Table 11.3), as a line: a scalar in the low 64 bits for a shared destination. -/
def convert (fromShared toShared : Bool) (v : Line) : Line :=
  match fromShared, toShared with
  | true, true => ofDword (low64 v)
  | true, false => splat (v.extractLsb' 0 32)
  | false, false => v
  | false, true => ofDword (lowWord v)

/-- Operand ports (Tables 12.1, 12.6, 12.10, 12.11). -/
def isOperandPort (d : BitVec 10) : Bool :=
  let n := d.toNat
  isPlainDest d && n != 0 && !(0x040 ≤ n && n ≤ 0x07F) && !(0x0F1 ≤ n && n ≤ 0x0F6)
    && !(0x100 ≤ n && n ≤ 0x146)

/-- Key of the latch behind an operand port in a slot. -/
def latchKey (slot : Nat) (port : Nat) : Nat := if 0x100 ≤ port then port else port + 1024 * slot

end Sys2Proof.Machine
end

