-- ==== Sys2Proof/Machine/Engine.lean ====
section
/-!
DEFINITION. Accesses of engines and base-die units to V-space: permissions (R104), side logs (R107-R112), the
arithmetic of reductions and atomics (Tables 16.3 and 16.4), host windows (R263); stage-queue pushes (R164-R167).
-/

namespace Sys2Proof.Machine

/-! ## Arithmetic of atomics and reductions -/

/-- Signed value of n bytes. -/
def signedOf (n v : Nat) : Int := sextNat (8 * n) v

/-- New value of an atomic of `size` bytes (R371, R426). -/
def atomicNew (op : AtomicOp) (size old x e : Nat) : Nat :=
  let m := 2 ^ (8 * size)
  match op with
  | .add => (old + x) % m
  | .and => old &&& (x % m)
  | .or => old ||| (x % m)
  | .min => if signedOf size old ≤ signedOf size (x % m) then old else x % m
  | .max => if signedOf size (x % m) ≤ signedOf size old then old else x % m
  | .minu => min old (x % m)
  | .maxu => max old (x % m)
  | .swap => x % m
  | .cas => if old = e % m then x % m else old
  | .fadd => (f32Add (BitVec.ofNat 32 old) (BitVec.ofNat 32 x)).1.toNat

/-- Element size of a ring or reduction operator (R204, R425). -/
def elemBytes (op type : Nat) : Nat := if op = 5 || op = 6 then 8 else if op < 3 && type = 1 then 2 else 4

/-- Order of two values of a reduction's type: the first is taken (smaller, or greater for a maximum). -/
def argTakes (max : Bool) (type a b : Nat) : Option Bool :=
  if type = 0 then
    let x := fp32.decode a
    let y := fp32.decode b
    let c := FVal.cmp true x y
    if c = 0 then none else some (if max then 0 < c else c < 0)
  else if signedOf 4 a = signedOf 4 b then none
  else some (if max then signedOf 4 b < signedOf 4 a else signedOf 4 a < signedOf 4 b)

/-- ARGMIN and ARGMAX on pairs of value and index (R204). -/
def argElem (max : Bool) (type a b : Nat) : Nat :=
  let va := a % 2 ^ 32
  let vb := b % 2 ^ 32
  let ia := a / 2 ^ 32
  let ib := b / 2 ^ 32
  let na := type = 0 && (fp32.decode va).isNan
  let nb := type = 0 && (fp32.decode vb).isNan
  if na || nb then
    (if na && nb then min ia ib else if na then ia else ib) * 2 ^ 32 + 0x7FC00000
  else match argTakes max type va vb with
    | some true => a
    | some false => b
    | none => min ia ib * 2 ^ 32 + (if ia ≤ ib then va else vb)

/-- One element of a ring operator or reduction (Table 6.16, R425): ADD rounds once in RNE. -/
def reduceElem (op type a b : Nat) : Nat :=
  let add (f : FFmt) : Nat := (f.round .rne false ((f.decode a).add (f.decode b)).1).1
  match op with
  | 0 => if type = 0 then add fp32 else if type = 1 then add bf16 else (a + b) % 2 ^ 32
  | 1 => if type = 0 then (fp32.minMax false a b).1 else if signedOf 4 a ≤ signedOf 4 b then a else b
  | 2 => if type = 0 then (fp32.minMax true a b).1 else if signedOf 4 b ≤ signedOf 4 a then a else b
  | 3 => a ||| b
  | 4 => a &&& b
  | 5 => argElem false type a b
  | _ => argElem true type a b

/-- A reduction of bytes into bytes, element by element. -/
def reduceBytes (op type : Nat) (fuel : Nat) (old new : List Byte) : List Byte :=
  match fuel with
  | 0 => []
  | fuel + 1 =>
    let n := elemBytes op type
    if new.length < n then []
    else leBytes (reduceElem op type (leNat (old.take n)) (leNat (new.take n))) n
      ++ reduceBytes op type fuel (old.drop n) (new.drop n)

/-! ## Accesses and side logs (R107-R112) -/

/-- Who makes an access of V-space: the die whose TLB translates it (`tlb` false for a unit that walks at once), the unit
whose log takes its writes, the context, the unit number of a deferred fault (Table 9.2), the command whose register takes
an old value, the arrival it is. -/
structure Access where
  tlb     : Bool := true
  die     : Nat
  log     : LogUnit
  core    : Nat
  ctx     : Nat
  issuer  : Nat
  serial  : Nat := 0
  /-- The `vatom` that holds the later accesses of its context until it is performed (R426). -/
  hold    : Option Nat := none
  arrival : Option RemoteOp := none
  /-- The access comes from another device. -/
  foreign : Bool := false

/-- Core of this device for which an access asks for a walk. -/
def Access.asker (a : Access) : Option Nat := if a.foreign then none else some a.core

/-- Entries of a unit's log. -/
def State.logCount (s : State) (u : LogUnit) : Nat := (s.sideLogs.filter (fun e => e.unit == u)).length

/-- The unit's log holds 512 entries (R110). -/
def State.logFull (s : State) (u : LogUnit) : Bool := 512 ≤ s.logCount u

/-- Entries that a unit's log still takes. -/
def State.logRoom (s : State) (u : LogUnit) : Nat := 512 - s.logCount u

/-- The unit's log holds an entry of the page of a size that holds an address (R108). (DEDUCED, log 30.) -/
def State.logHas (s : State) (u : LogUnit) (level va : Nat) : Bool :=
  s.sideLogs.any (fun e => e.unit == u && e.va.toNat / pageSize level == va / pageSize level)

/-- It holds one of that page because of migration (R114). -/
def State.logMoves (s : State) (u : LogUnit) (level va : Nat) : Bool :=
  s.sideLogs.any (fun e => e.unit == u && e.migrating && e.va.toNat / pageSize level == va / pageSize level)

/-- The unit's log holds an entry that overlaps [va, va+n) (R112). (DEDUCED, log 30.) -/
def State.logOverlaps (s : State) (u : LogUnit) (va n : Nat) : Bool :=
  s.sideLogs.any (fun e => e.unit == u && e.va.toNat < va + n && va < e.va.toNat + e.data.length)

/-- Pieces of up to 256 bytes, the most one entry holds (R107); a write without data is one entry. (DEDUCED, log 30.) -/
def logPieces : Nat → Nat → List Byte → List (Nat × List Byte)
  | 0, _, _ => []
  | fuel + 1, va, bs =>
    (va, bs.take 256) :: (if bs.length ≤ 256 then [] else logPieces fuel (va + 256) (bs.drop 256))

/-- Entries that a write of n bytes takes. -/
def logSlots (n : Nat) : Nat := max 1 ((n + 255) / 256)

/-- Enters an access in the log of its unit; an invalid entry and a migrating page give a fault record, a write that goes
behind a logged one gives none (R108, R113). -/
def State.logWrite (s : State) (a : Access) (va : Nat) (op : LogOp) (bs : List Byte) (ps : List Nat)
    (migrating record : Bool) : State :=
  let es := (logPieces (logSlots bs.length) va bs).map (fun p : Nat × List Byte =>
    ({ unit := a.log, va := BitVec.ofNat 64 p.1, op := op, data := p.2, core := a.core, ctx := a.ctx, arrival := a.arrival
       migrating := migrating, serial := a.serial, poison := cutPlaces ps (p.1 - va) p.2.length, hold := a.hold
       issuer := a.issuer } : LogEntry))
  { s with
    sideLogs := s.sideLogs ++ es
    faults := if record then s.faults ++ [{ unit := a.log, va := BitVec.ofNat 64 va, migration := migrating }]
      else s.faults }

/-- The bytes of whole elements of a size that hold a place. -/
def elemPlaces (size n : Nat) (ps : List Nat) : List Nat :=
  if ps.isEmpty then [] else (rangeFrom 0 n).filter (fun i => ps.any (fun p => p / size == i / size))

/-- Performs an access in HBM: a store, a reduction or an atomic; the old bytes come back, with the places of poisoned ones.
New values that follow from poisoned data are poisoned (R100). -/
def State.hPerform (s : State) (pa : Nat) (op : LogOp) (bs : List Byte) (ps : List Nat) : State × List Byte × List Nat :=
  let old := s.hRead pa bs.length
  let was := s.hPoisonMap pa bs.length
  match op with
  | .store => ((s.hWrite pa bs).hMark pa ps, old, was)
  | .reduce o t =>
    ((s.hRewrite pa (reduceBytes o.toNat t.toNat bs.length old bs)).hMark pa
      (elemPlaces (elemBytes o.toNat t.toNat) bs.length (was ++ ps)), old, was)
  | .atomic o word x e =>
    let n := if word then 4 else 8
    let old := s.hRead pa n
    (s.hRewrite pa (leBytes (atomicNew o n (leNat old) x.toNat e.toNat) n), old, s.hPoisonMap pa n)

/-- The access is an atomic. -/
def LogOp.isAtomic : LogOp → Bool
  | .atomic .. => true
  | _ => false

/-- What becomes of an access to V-space. -/
inductive VOut where
  /-- Performed in HBM; the bytes that stood there, and the places of poisoned ones. -/
  | done (s : State) (old : List Byte) (poison : List Nat)
  /-- Entered the unit's side log. -/
  | logged (s : State)
  /-- Fails with a cause (R104). -/
  | fails (cause : BitVec 8)
  /-- The page lies in a host window (R263). -/
  | host (pa : Nat)
  /-- A walk is under way, or the log entry it overlaps waits for replay. -/
  | waits (s : State)
  /-- The unit's side log is full: the V-address that could not be logged (R110). -/
  | full (va : Nat)
  /-- A read found an invalid entry (R112). -/
  | invalid (s : State)

/-- The leaf a unit of a die finds for a V-address; the overflow engine walks at once, unless a live service holds new walks
(R285). -/
def State.leafFor (s : State) (tlb : Bool) (die va : Nat) : Xlate :=
  if tlb then s.xlate die va
  else if s.walkHeld va then .pending
  else match s.walk va with
    | some (l, e) => .leaf l e
    | none => .invalid

/-- A unit that has found no leaf yet asks for a walk, the overflow engine none. -/
def State.askFor (s : State) (a : Access) (va : Nat) : State := if a.tlb then s.askWalk a.die a.asker va else s

/-- What a write, reduction or atomic without return of one unit, within one page, would come to. -/
inductive Judged where
  | go (pa : Nat)
  /-- Enters the log: because of migration, with a fault record (R108, R113). -/
  | log (migrating record : Bool)
  | host (pa : Nat)
  | fails (cause : BitVec 8)
  | waits (s : State)
  | full

/-- The judgement of a write within one page: a full unit stalls (R110); the region and the permissions are checked (R104);
a migrating page and a page with a logged entry log it (R108, R113). (DEDUCED, log 28.) -/
def State.judgeStore (s : State) (a : Access) (va : Nat) (op : LogOp) (n : Nat := 1) : Judged :=
  if s.logFull a.log then .full
  else match s.leafFor a.tlb a.die va with
    | .pending => .waits (s.askFor a va)
    | .invalid => .log false true
    | .leaf level e =>
      let pa := leafPa e level va
      if op != .store && !pteImmediate e then .fails causeRegionKind
      else if !pteW e || (op.isAtomic && !pteA e) || (op != .store && hostBase ≤ pa) then .fails causeXlatePerm
      else if pteMig e then .log true true
      else if s.logHas a.log level va then .log (s.logMoves a.log level va) false
      else if hostBase ≤ pa then .host pa
      else if s.retrained pa n then .waits s
      else .go pa

/-- A write, reduction or atomic of one unit, within one page (R104, R108, R113). (DEDUCED, log 28.) -/
def State.vStore (s : State) (a : Access) (va : Nat) (op : LogOp) (bs : List Byte) (ps : List Nat) : VOut :=
  match s.judgeStore a va op bs.length with
  | .go pa =>
    let p := (if a.tlb then s.tlbUse a.die va else s).hPerform pa op bs ps
    .done p.1 p.2.1 p.2.2
  | .log mig record =>
    if s.logRoom a.log < logSlots bs.length then .full (va + 256 * s.logRoom a.log)
    else .logged (((if a.tlb then s.tlbUse a.die va else s).takeMiss a.die va).logWrite a va op bs ps mig record)
  | .host pa => .host pa
  | .fails cause => .fails cause
  | .waits s => .waits s
  | .full => .full va

/-- Physical address under which the TLB of a die holds a V-address. -/
def State.paOf (s : State) (die va : Nat) : Option Nat :=
  (s.tlbFind die va).map (fun e => leafPa e.pte e.level va)

/-- A read by one unit, within one page (R104, R112, R113); a full unit stalls (R110). (DEDUCED, log 28.) -/
def State.vLoad (s : State) (a : Access) (va n : Nat) : VOut :=
  if s.logFull a.log then .full va
  else if s.logOverlaps a.log va n then .waits s
  else match s.leafFor a.tlb a.die va with
    | .pending => .waits (s.askFor a va)
    | .invalid => .invalid (s.takeMiss a.die va)
    | .leaf level e =>
      let s := if a.tlb then s.tlbUse a.die va else s
      let pa := leafPa e level va
      if !pteR e then .fails causeXlatePerm
      else if hostBase ≤ pa then .host pa
      else if s.retrained pa n then .waits s
      else .done s (s.hRead pa n) (s.hPoisonMap pa n)

/-! ## Reads and writes of engines -/

/-- Queue pair of a window. -/
def Window.qp (w : Window) : QpId := { port := w.port, qpn := w.qpn }

/-- What a read by an engine finds. -/
inductive Rd where
  | data (s : State) (bs : List Byte) (poison : List Nat)
  | fails (cause : BitVec 8) (addr : Nat)
  | host (w : Window) (a : Dword)
  | waits (s : State)
  /-- An invalid entry (R112): the fault record is posted. -/
  | held (s : State)
  /-- The unit's side log is full (R110). -/
  | full (va : Nat)

/-- A read of n bytes of S-space (v false) or V-space, within one page. -/
def State.readSide (s : State) (a : Access) (v : Bool) (addr n : Nat) : Rd :=
  if !v then
    if sTop < addr + n then .fails causeSaddrRange addr
    else .data s (s.sRead addr n) (s.poisonMap addr n)
  else if 2 ^ 52 ≤ addr then .fails causeXlatePerm addr
  else match s.vLoad a addr n with
    | .done s bs p => .data s bs p
    | .fails cause => .fails cause addr
    | .host pa => match s.hostWindow pa n with
      | some (w, h) => .host w h
      | none => .fails causeXlatePerm addr
    | .waits s => .waits s
    | .invalid s => .held { s with faults := s.faults ++ [{ unit := a.log, va := BitVec.ofNat 64 addr, migration := false }] }
    | .logged s => .waits s
    | .full va => .full va

/-- What a write by an engine comes to. -/
inductive Wr where
  | done (s : State)
  | fails (cause : BitVec 8) (addr : Nat)
  | host (w : Window) (a : Dword)
  | waits (s : State)
  | full (va : Nat)

/-- A write of S-space (v false) or V-space, within one page; poison travels with the data (R100). -/
def State.writeSide (s : State) (a : Access) (v : Bool) (addr : Nat) (bs : List Byte) (ps : List Nat) : Wr :=
  if !v then
    if sTop < addr + bs.length then .fails causeSaddrRange addr else .done (s.sMove a.core addr bs ps)
  else if 2 ^ 52 ≤ addr then .fails causeXlatePerm addr
  else match s.vStore a addr .store bs ps with
    | .done s _ _ => .done s
    | .logged s => .done s
    | .fails cause => .fails cause addr
    | .host pa => match s.hostWindow pa bs.length with
      | some (w, h) => .host w h
      | none => .fails causeXlatePerm addr
    | .waits s => .waits s
    | .invalid s => .waits s
    | .full va => .full va

/-- What several writes of one engine would come to, before the first of them is made (R421). -/
inductive Probe where
  | go
  | fails (cause : BitVec 8) (addr : Nat)
  | waits (s : State)
  /-- The log takes the first `fit` bytes only; the V-address that could not be logged (R110). -/
  | full (va fit : Nat)

/-- Looks at writes of one kind (V-space or not, address, length), behind `done` bytes, with room for so many log entries: the
first that fails, else the walks they ask for, else the first that a full log stalls. (DEDUCED, log 27.) -/
def State.probeWrites (a : Access) (op : LogOp) : List (Bool × Nat × Nat) → Nat → Nat → State → Probe
  | [], _, _, _ => .go
  | (v, addr, n) :: t, room, done, s =>
    let full (s : State) (va fit : Nat) : Probe :=
      match State.probeWrites a op t 0 (done + n) s with
      | .fails cause b => .fails cause b
      | .waits s => .waits s
      | _ => .full va fit
    let next (s : State) : Probe :=
      if room = 0 then full s addr done else State.probeWrites a op t room (done + n) s
    if !v then
      if sTop < addr + n then .fails causeSaddrRange addr else State.probeWrites a op t room (done + n) s
    else if 2 ^ 52 ≤ addr then .fails causeXlatePerm addr
    else match s.judgeStore a addr op n with
      | .fails cause => .fails cause addr
      | .host pa => if (s.hostWindow pa n).isNone then .fails causeXlatePerm addr else next s
      | .go _ => next s
      | .waits s => match State.probeWrites a op t room (done + n) s with
        | .fails cause b => .fails cause b
        | .waits s => .waits s
        | _ => .waits s
      | .log _ _ =>
        if logSlots n ≤ room then State.probeWrites a op t (room - logSlots n) (done + n) s
        else full s (addr + 256 * room) (done + 256 * room)
      | .full => .full addr done

/-! ## Stage-queue pushes (R164-R167, R436) -/

/-- Die of a stage queue: that of its slice. -/
def queueDie (q : StageQ) : Nat := sliceOf q.base.toNat / 64

/-- Bytes of a ring entry: the slot's lines, then a line that holds the VMASK (R164). -/
def ringEntry (lines : List Line) (m : BitVec 16) : List Byte :=
  lines.flatMap lineBytes ++ lineBytes (m.zeroExtend 512)

/-- V-address of the ring entry of a count (R164). -/
def StageQ.ringAddr (q : StageQ) (n : Word) : Nat :=
  q.ovva.toNat + 64 * (q.lines + 1) * (n.toNat % 2 ^ q.log2ov)

/-- Unit number of the queue unit (Table 2.11). -/
def quUnit : Nat := 12

/-- An access of the overflow engine of a queue for a pushing context. (DEDUCED, log 28.) -/
def StageQ.access (q : StageQ) (c x : Nat) : Access :=
  { tlb := false, die := queueDie q, log := .overflow (queueDie q), core := c, ctx := x, issuer := quUnit }

/-- Writes bytes of the entry of a push to their place in the ring, page by page. -/
def State.spillBytes (s : State) (p : QPush) (va : Nat) (bs : List Byte) : State :=
  let q := tabGet {} s.queues p.queue
  (piecesOf va bs.length).foldl (fun s r =>
    let part := (bs.drop (r.1 - va)).take r.2
    match s.writeSide (q.access p.core p.ctx) true r.1 part [] with
    | .done s => s
    | .host w h => s.sendHost (.spill p.core p.ctx) w.qp (some (BitVec.ofNat 64 r.1)) (.rdmaWrite w.qp w.key h part)
    | _ => s) s

/-- The ring of a queue holds one entry more. -/
def State.spilled (s : State) (p : QPush) : State :=
  let q := tabGet {} s.queues p.queue
  { s with queues := tabSet {} s.queues p.queue { q with
      ovtail := q.ovtail + 1, pushers := q.pushers ++ [(p.core, p.ctx)] } }

/-- A breach of the quota raises QUOTA.OVF in the pushing context and fails the kernel, with one error record (R166, R20).
(DEDUCED, log 59.) -/
def State.quotaBreach (s : State) (p : QPush) : State :=
  let q := tabGet {} s.queues p.queue
  if q.ringCount = q.quota && s.kernel.state != .failed then
    ((s.pendCause p.core p.ctx causeQuotaOvf (trapInfoWord none p.queue 0)).sendRecord
      { causeRecord causeQuotaOvf p.core p.ctx 0 with aux := BitVec.ofNat 8 p.queue }).kernelError
  else s

/-- A push waits behind the overflow engine's full side log: its context takes SIDELOG.FULL once for this wait (R110).
(DESIGN CHOICE, log 71.) -/
def State.tellPush (s : State) (p : QPush) (va : Nat) : State × QPush :=
  if p.told then (s, p)
  else (s.pendCause p.core p.ctx causeSidelogFull (trapInfoWord none quUnit va), { p with told := true })

/-- A complete entry enters its stage queue (R164, R166): into the slot at TAIL, or to the overflow ring, or it is discarded;
where the overflow engine's side log takes only a first part of it, it waits with the rest (R110). A spill whose permission
check fails has no effect (R104). (DEDUCED, log 59.) (DESIGN CHOICE, log 71.) -/
def State.pushEntry (s : State) (p : QPush) : State × Option QPush :=
  let q := tabGet {} s.queues p.queue
  if p.got = 0 && q.count < 2 ^ q.log2d && q.ringCount = 0 then
    let s := s.sWriteEngine p.core (q.slotAddr q.tail) (p.lines.flatMap lineBytes)
    ({ s with queues := tabSet {} s.queues p.queue { q with
      vmask := tabSet 0 q.vmask (q.tail.toNat % 2 ^ q.log2d) p.vmask, tail := q.tail + 1 } }, none)
  else if p.got = 0 && (q.log2ov = 0 || 2 ^ q.log2ov ≤ q.ringCount) then (s.quotaBreach p, none)
  else
    let a := q.access p.core p.ctx
    let va := q.ringAddr q.ovtail + p.got
    let bs := (ringEntry p.lines p.vmask).drop p.got
    match State.probeWrites a .store ((piecesOf va bs.length).map (fun r => (true, r.1, r.2))) (s.logRoom a.log) 0 s with
    | .go => (((s.quotaBreach p).spillBytes p va bs).spilled p, none)
    | .fails cause b => ((s.quotaBreach p).pendCause p.core p.ctx cause (trapInfoWord none quUnit b), none)
    | .waits s => (s, some p)
    | .full b fit =>
      let t := (s.spillBytes p va (bs.take fit)).tellPush p b
      (t.1, some { t.2 with got := p.got + fit })

/-- Applies one push after those before it: an entry waits behind an earlier one of its queue that waits (R110).
(DESIGN CHOICE, log 71.) -/
def State.applyPush (acc : State × List QPush) (p : QPush) : State × List QPush :=
  let q := tabGet {} acc.1.queues p.queue
  if acc.2.any (fun h => h.queue == p.queue) then
    let t := if acc.1.logFull (.overflow (queueDie q)) then acc.1.tellPush p (q.ringAddr q.ovtail) else (acc.1, p)
    (t.1, acc.2 ++ [t.2])
  else match acc.1.pushEntry p with
    | (s, none) => (s, acc.2)
    | (s, some p) => (s, acc.2 ++ [p])

/-- Puts a push behind those of its context and of the lower ones. -/
def insertPush (p : QPush) : List QPush → List QPush
  | [] => [p]
  | q :: t => if 4 * p.core + p.ctx < 4 * q.core + q.ctx then p :: q :: t else q :: insertPush p t

/-- The pushes of a cycle in the order of R165: ascending core, context and slot. -/
def sortPushes (ps : List QPush) : List QPush := ps.foldl (fun acc p => insertPush p acc) []

/-- The queue unit applies the pushes of a cycle, after its pops (R165). (DEDUCED, log 57.) -/
def State.applyPushes (s : State) : State :=
  if s.pushes.isEmpty && s.spills.isEmpty then s
  else
    let r := s.spills.foldl State.applyPush ({ s with pushes := [], spills := [] }, [])
    let r := (sortPushes s.pushes).foldl State.applyPush r
    { r.1 with spills := r.2 }

/-- A push of one line into output queue k (R436): the line that fills the staging entry pushes the entry and gives
the effect mark. (DEDUCED, log 26.) -/
def State.pushLine (s : State) (c x k : Nat) (v : Line) (m : BitVec 16) : State :=
  match s.stepOf c x, s.outq c k with
  | some t, some qi =>
    let e := (tabGet none t.staging k).getD { lines := [], vmask := 0xFFFF, cursor := 0 }
    let e : QEntry := { e with lines := e.lines ++ [v], vmask := e.vmask &&& m }
    if (tabGet {} s.queues qi).lines ≤ e.lines.length then
      let s := s.modStep t.id (fun t => { t with staging := tabSet none t.staging k none, emark := true })
      { s with pushes := s.pushes ++ [{ core := c, ctx := x, queue := qi, lines := e.lines, vmask := e.vmask }] }
    else s.modStep t.id (fun t => { t with staging := tabSet none t.staging k (some e) })
  | _, _ => s

end Sys2Proof.Machine
end

