-- ==== Sys2Proof/Machine/Issue.lean ====
section
/-!
DEFINITION. Issue of a bundle: what each slot is, the judgement of R247, and the effect in the order of R56: read all
sources, write all destinations, fire the triggers in ascending slot order, step the loops (R329), advance (R59).
-/

namespace Sys2Proof.Machine

/-! ## What a trigger does -/

/-- What a trigger sees when it is judged and when it fires. -/
structure Arg where
  core : Nat
  ctx  : Nat
  slot : Nat
  sys  : Bool
  /-- Trigger port. -/
  port : Nat
  /-- Moved value, a scalar in the low 64 bits. -/
  v    : Line
  /-- Lane mask (R294). -/
  mask : BitVec 16
  /-- Operand latches of the unit after the moves of the bundle (R56). -/
  o1   : Line
  o2   : Line
  o3   : Line
  /-- The state before the bundle. -/
  pre  : State
  /-- The vx.o2 latches of the eight clusters after the moves (R388). -/
  vx   : List Latch
  /-- Buffer lines that lower slots of the bundle store to (R89). -/
  tags : List Nat

/-- Moved value as a scalar. -/
def Arg.val (a : Arg) : Dword := low64 a.v
/-- Operands as scalars. -/
def Arg.x1 (a : Arg) : Dword := low64 a.o1
def Arg.x2 (a : Arg) : Dword := low64 a.o2
def Arg.x3 (a : Arg) : Dword := low64 a.o3
/-- The context before the bundle. -/
def Arg.cx (a : Arg) : Ctx := a.pre.ctx a.core a.ctx
/-- Cycle count of the issuing plane. -/
def Arg.cyc (a : Arg) : Dword := (a.cx.plane a.sys).cyc

/-- What holds a bundle that no cause stops. -/
inductive Gate where
  | go
  /-- Held by an acquire under way (R370, R426). -/
  | stall
  /-- Held: tried again in the next cycle with the seat kept (R326, R83). -/
  | hold
  /-- Held, after a change that begins what it waits for (R347). -/
  | start (f : State → State)
  /-- The context is BLOCKED. -/
  | block (b : Block)
  /-- An empty bundle issues in its place (R64, R337). -/
  | drain

/-- The meaning of a trigger: what it needs, what stops it, what holds it, what it does. -/
structure Op where
  /-- Operand ports of its unit (R55). -/
  ports : List Nat := []
  /-- Operand ports whose latches it needs, by the moved value. -/
  needs : Dword → List Nat := fun _ => []
  /-- A port marked S in Table 12.11. -/
  sysOnly : Bool := false
  /-- Acts on the user plane only (R327). -/
  userOnly : Bool := false
  /-- Power weight (Table 2.16). -/
  weight : Nat
  /-- Accesses S-space or pushes an engine command: held by an acquire under way (R370, R426). -/
  access : Bool := false
  /-- PRIV by the moved value, with TRAPINFO.ADDR (R66). -/
  priv : Arg → Option Nat := fun _ => none
  /-- SLOT.ILLEGAL, with TRAPINFO.ADDR. -/
  illegal : Arg → Option Nat := fun _ => none
  /-- OPERAND.EMPTY beyond the unit's own latches, with TRAPINFO.ADDR (R388). -/
  lacks : Arg → Option Nat := fun _ => none
  /-- Registers read beyond the source: key and source port (R386). -/
  reads : Arg → List (Nat × Nat) := fun _ => []
  /-- Destination registers of a long-latency operation: they must be full (R52). -/
  dests : Arg → List Nat := fun _ => []
  /-- The other checks of R247 up to PHASE.OVF: cause, AUX and ADDR. -/
  traps : Arg → Option (BitVec 8 × Nat × Nat) := fun _ => none
  /-- Phase-buffer lines it stores to. -/
  stores : Arg → List Nat := fun _ => []
  /-- Lines of the own slice that its accesses touch at issue, one for each line access of a bank (R83, R385). -/
  lines : Arg → List Nat := fun _ => []
  /-- Engine queue it pushes into, by unit number (Table 2.11). -/
  unit : Arg → Option Nat := fun _ => none
  /-- TRAP and BREAK (R336): cause and code. -/
  raises : Arg → Option (BitVec 8 × Nat) := fun _ => none
  /-- Waits for a format-table write before any check (R187). -/
  fmtWait : Arg → Bool := fun _ => false
  gate : Arg → Gate := fun _ => .go
  /-- The target of a taken branch (R328). -/
  branch : Arg → Option (BitVec 13) := fun _ => none
  act : Arg → State → State := fun _ s => s
  /-- What happens at the end of the bundle, after the loop-end step and before the landing. -/
  fin : Arg → State → State := fun _ s => s

/-! ## Slots -/

/-- What a slot holds (Table 11.2). -/
inductive SlotKind where
  | nop
  | carrier (i : BitVec 21)
  /-- A reserved destination port (R310). -/
  | reserved (m : Mv) (d : BitVec 10)
  /-- A register, operand latch or discard. -/
  | move (m : Mv) (d : BitVec 10)
  | push (m : Mv) (d : BitVec 10) (k : Nat)
  | trigger (m : Mv) (d : BitVec 10) (op : Op)

/-- A slot of a bundle. -/
structure Slot where
  k    : Nat
  kind : SlotKind

/-- Fields and destination of a move slot. -/
def Slot.mv (s : Slot) : Option (Mv × BitVec 10) :=
  match s.kind with
  | .nop => none
  | .carrier _ => none
  | .reserved m d => some (m, d)
  | .move m d => some (m, d)
  | .push m d _ => some (m, d)
  | .trigger m d _ => some (m, d)

/-- The carriers of a bundle. -/
def carriersOf (slots : List Slot) : Tab (Option (BitVec 21)) :=
  slots.filterMap (fun s => match s.kind with
    | .carrier i => some (s.k, some i)
    | _ => none)

/-! ## Bundle limits (R296, R297) -/

/-- The shared unit that a trigger port belongs to (R296, R323). -/
def sharedUnit (d : BitVec 10) : Option Nat :=
  let n := d.toNat
  if (0x160 ≤ n && n ≤ 0x177) || (0x1C0 ≤ n && n ≤ 0x1EF) then some 1
  else if 0x180 ≤ n && n ≤ 0x197 then some 2
  else if 0x1A0 ≤ n && n ≤ 0x1A7 then some 3
  else if 0x1B0 ≤ n && n ≤ 0x1BF then some 4
  else if (0x200 ≤ n && n ≤ 0x23F) || (0x260 ≤ n && n ≤ 0x2BF) then some 5
  else if n == 0x24B || n == 0x24C then some 6
  else if n == 0x259 then some 7
  else if 0x2C4 ≤ n && n ≤ 0x2CB then some 8
  else if 0x2D4 ≤ n && n ≤ 0x2D7 then some 9
  else if 0x2E2 ≤ n && n ≤ 0x2E5 then some 10
  else if n == 0x2EA || n == 0x2EB then some 11
  else if 0x301 ≤ n && n ≤ 0x303 then some 12
  else if 0x30B ≤ n && n ≤ 0x30D then some 13
  else if 0x312 ≤ n && n ≤ 0x32C then some 14
  else none

/-- Counts towards the limits of Table 11.6. -/
structure Limits where
  shared : Nat := 0
  sreads : Nat := 0
  vreads : Tab Nat := []
  dests  : List Nat := []
  units  : List Nat := []
  deriving DecidableEq, Repr

/-- Clusters whose v registers a move reads (Table 11.6). -/
def vReadsOf (k : Nat) (m : Mv) (d : BitVec 10) : List Nat :=
  (if 0x040 ≤ m.s.toNat && m.s.toNat ≤ 0x07F then [k] else [])
    ++ (if 0x0B0 ≤ d.toNat && d.toNat ≤ 0x0B7 then [d.toNat - 0x0B0] else [])

/-- Counts one move; the port of the limit it breaks, if any. -/
def Limits.add (l : Limits) (k : Nat) (m : Mv) (d : BitVec 10) : Limits × Option Nat :=
  let shared := sharedDst d
  let vr := (vReadsOf k m d).foldl (fun t c => tabSet 0 t c (tabGet 0 t c + 1)) l.vreads
  let l' : Limits := {
    shared := if shared then l.shared + 1 else l.shared
    sreads := if 0x100 ≤ m.s.toNat && m.s.toNat ≤ 0x13F then l.sreads + 1 else l.sreads
    vreads := vr
    dests := if shared then d.toNat :: l.dests else l.dests
    units := match sharedUnit d with
      | some u => u :: l.units
      | none => l.units }
  let unitTwice := match sharedUnit d with
    | some u => l.units.contains u
    | none => false
  let bad :=
    if 4 < l'.shared || (shared && l.dests.contains d.toNat) || unitTwice then some d.toNat
    else if 6 < l'.sreads || (vReadsOf k m d).any (fun c => 2 < tabGet 0 vr c) then some m.s.toNat
    else none
  (l', bad)

/-- The first move that breaks a limit: slot and TRAPINFO.ADDR (R297). -/
def collision : Limits → List Slot → Option (Nat × Nat)
  | _, [] => none
  | l, s :: t =>
    match s.mv with
    | none => collision l t
    | some (m, d) =>
      match l.add s.k m d with
      | (_, some p) => some (s.k, p)
      | (l', none) => collision l' t

/-- Counts of a whole bundle. -/
def limitsOf (slots : List Slot) : Limits :=
  slots.foldl (fun l s => match s.mv with
    | some (m, d) => (l.add s.k m d).1
    | none => l) {}

/-! ## Reading a bundle -/

/-- A slot with its source read and its guard judged. -/
structure Item where
  slot : Nat
  m    : Mv
  d    : BitVec 10
  kind : SlotKind
  /-- The move takes effect: its q guard does not cancel it. -/
  live : Bool
  mask : BitVec 16
  raw  : Line
  /-- The value the destination takes (Table 11.3). -/
  v    : Line
  /-- A queue port with nothing to read: whether its entry is spent for good. -/
  dry  : Option Bool
  queue : Option Nat
  /-- The poisoned word that a queue port takes with its line (R260). -/
  taint : Option Nat := none

/-- Reads the slots in ascending order (R56): sources from the state before the bundle, queue pops one line after the
other (R165). -/
def readSlots (s : State) (e : Site) : State → List Slot → List Item × State
  | acc, [] => ([], acc)
  | acc, sl :: t =>
    match sl.mv with
    | none => readSlots s e acc t
    | some (m, d) =>
      let cx := s.ctx e.core e.ctx
      let shared := sharedDst d
      let g := m.g.toNat
      let kind := srcKind m.s
      let push := match sl.kind with
        | .push .. => true
        | _ => false
      let open_ := g = 0 || !shared || cx.readQ g
      let mask : BitVec 16 :=
        if g = 0 then 0xFFFF
        else if shared then (if cx.readQ g then 0xFFFF else 0)
        else cx.readG sl.k g
      let (raw, acc', dry, qk, bad) :=
        match kind with
        | .pop k =>
          match acc.queueRead e.core e.ctx k with
          | .line v _ after => (if sharedSrc m.s then ofDword (low64 v) else v, after, none, some k,
              if open_ || push then acc.queueTaint e.core e.ctx k else none)
          | .empty => (0, acc, some false, some k, none)
          | .spent => (0, acc, some true, some k, none)
        | .peek k =>
          if open_ || push then
            match s.queueRead e.core e.ctx k with
            | .line v _ _ =>
              (if sharedSrc m.s then ofDword (low64 v) else v, acc, none, some k, s.queueTaint e.core e.ctx k)
            | .empty => (0, acc, some false, some k, none)
            | .spent => (0, acc, some true, some k, none)
          else (0, acc, none, none, none)
        | _ => (s.source e sl.k m.s, acc, none, none, none)
      let it : Item := { slot := sl.k, m := m, d := d, kind := sl.kind, live := open_ || push, mask := mask
                         raw := raw, v := convert (sharedSrc m.s) shared raw, dry := dry, queue := qk, taint := bad }
      let (its, fin) := readSlots s e acc' t
      (it :: its, fin)

/-- Writes of the moves into registers and operand latches, one slot (R48, R53, R55, R294). -/
def writeItem (e : Site) (s : State) (it : Item) : State :=
  let n := it.d.toNat
  match it.kind with
  | .move _ _ =>
    if !it.live || n = 0 then s
    else s.modCtx e.core e.ctx (fun cx =>
      if isOperandPort it.d then
        let key := latchKey it.slot n
        let l := cx.latch e.sys key
        let v := if sharedDst it.d then it.v else mergeLanes it.mask l.val it.v
        cx.setLatch e.sys key { val := v, valid := true, hold := it.m.h }
      else if n < 0x080 then cx.writeV it.slot (n - 0x040) it.mask it.v
      else if n < 0x100 then cx.writeG it.slot (n - 0x0F0) it.mask (it.raw.extractLsb' 0 16)
      else if n < 0x140 then cx.writeS e.sys (n - 0x100) (low64 it.v)
      else cx.writeQ (n - 0x140) (it.raw.getLsbD 0))
  | .push _ _ k =>
    let v := it.v &&& laneMask it.mask
    s.pushLine e.core e.ctx k (if sharedDst it.d then ofDword (low64 v) else v) it.mask
  | _ => s

/-- Writes of all moves in ascending slot order (R56). -/
def writeItems (e : Site) (s : State) (its : List Item) : State := its.foldl (writeItem e) s

/-- The value of an operand latch of a unit, by place. -/
def operandAt (cx : Ctx) (e : Site) (slot : Nat) (ports : List Nat) (i : Nat) : Line :=
  match ports[i]? with
  | some p => (cx.latch e.sys (latchKey slot p)).val
  | none => 0

/-- The argument of a trigger: `pre` is the state before the bundle, `wr` the context after its moves. -/
def argOf (pre : State) (wr : Ctx) (e : Site) (tags : List Nat) (it : Item) (op : Op) : Arg :=
  { core := e.core, ctx := e.ctx, slot := it.slot, sys := e.sys, port := it.d.toNat
    v := it.v, mask := if sharedDst it.d then 0xFFFF else it.mask
    o1 := operandAt wr e it.slot op.ports 0, o2 := operandAt wr e it.slot op.ports 1
    o3 := operandAt wr e it.slot op.ports 2
    pre := pre
    vx := (rangeFrom 0 8).map (fun c => wr.latch e.sys (latchKey c 0x00C))
    tags := tags }

/-! ## Judging a bundle (R247) -/

/-- A queue port whose stage names no queue there (R435): TRAPINFO.ADDR, destination before source. -/
def queueIllegal (s : State) (e : Site) (it : Item) : Option Nat :=
  let dst := match it.kind with
    | .push _ _ k => if (s.outq e.core k).isNone then some it.d.toNat else none
    | _ => none
  match dst with
  | some p => some p
  | none => match it.queue with
    | some k => if (s.inq e.core k).isNone then some it.m.s.toNat else none
    | none => none

/-- SLOT.ILLEGAL that the encoding alone decides (R289, R290, R293, R310): TRAPINFO.ADDR. -/
def encodingIllegal (e : Site) (it : Item) : Option Nat :=
  let reserved := match it.kind with
    | .reserved .. => true
    | _ => false
  if it.m.s = 0 then some 0
  else if reserved then some it.d.toNat
  else if it.m.h && !isOperandPort it.d then some it.d.toNat
  else match srcKind it.m.s with
    | .reserved => some it.m.s.toNat
    | .imm k n => if (immediate e.carriers k n).isNone then some it.m.s.toNat else none
    | _ => none

/-- First needed operand port whose latch is not valid (R55). -/
def emptyOperand (wr : Ctx) (e : Site) (it : Item) (op : Op) (v : Dword) : Option Nat :=
  (op.needs v).find? (fun p => !(wr.latch e.sys (latchKey it.slot p)).valid)

/-- REG.EMPTY of a slot (R51, R165, R437): TRAPINFO.ADDR. -/
def regEmpty (s : State) (e : Site) (it : Item) (extra : List (Nat × Nat)) : Option Nat :=
  let cx := s.ctx e.core e.ctx
  match it.dry with
  | some true => some it.m.s.toNat
  | some false => if it.m.e then some it.m.s.toNat else none
  | none =>
    if !it.m.e || !it.live then none
    else match srcEmptyKey e.sys it.slot it.m.s with
      | some k => if cx.isEmpty k then some it.m.s.toNat
        else (extra.find? (fun p => cx.isEmpty p.1)).map (·.2)
      | none => (extra.find? (fun p => cx.isEmpty p.1)).map (·.2)

/-- The queue of a unit and context is full (R151, R158). -/
def State.queueFull (s : State) (c x u : Nat) : Bool := 16 ≤ (tabGet [] (s.core c).queues (4 * u + x)).length

/-- A cause of a slot: code, AUX, ADDR. -/
abbrev Cause := BitVec 8 × Nat × Nat

/-- The first alternative that is present. -/
def firstOf {α : Type} : List (Option α) → Option α
  | [] => none
  | some a :: _ => some a
  | none :: t => firstOf t

/-- The cause of one slot, in the order of step 7 of R247. -/
def slotCause (s : State) (wr : Ctx) (e : Site) (tags : List Nat) (it : Item) : Option Cause :=
  let port (c : BitVec 8) (o : Option Nat) : Option Cause := o.map (fun p => (c, 0, p))
  match it.kind with
  | .trigger _ d op =>
    let a := argOf s wr e tags it op
    if !it.live then firstOf [
      port causeSlotIllegal (encodingIllegal e it),
      port causeSlotIllegal (queueIllegal s e it),
      port causeRegEmpty (regEmpty s e it [])]
    else firstOf [
      port causePriv (if op.sysOnly && !e.sys then some d.toNat else op.priv a),
      port causeSlotIllegal (encodingIllegal e it),
      port causeSlotIllegal (queueIllegal s e it),
      port causeSlotIllegal (if op.userOnly && e.sys then some d.toNat else none),
      port causeSlotIllegal (op.illegal a),
      port causeOperandEmpty (emptyOperand wr e it op a.val),
      port causeOperandEmpty (op.lacks a),
      port causeRegEmpty (regEmpty s e it (op.reads a)),
      op.traps a,
      (match op.unit a with
        | some u =>
          if s.queueFull e.core e.ctx u && !(a.cx.qmode.getLsbD u) then some (causeQueueFull, u, 0) else none
        | none => none),
      (op.raises a).map (fun p => (p.1, p.2, 0))]
  | _ => firstOf [
      port causeSlotIllegal (encodingIllegal e it),
      port causeSlotIllegal (queueIllegal s e it),
      port causeRegEmpty (regEmpty s e it [])]

/-- The first cause among the slots, in ascending slot order; each slot sees the buffer lines lower slots store to. -/
def slotsCause (s : State) (wr : Ctx) (e : Site) : List Nat → List Item → Option (Nat × Cause)
  | _, [] => none
  | tags, it :: t =>
    match slotCause s wr e tags it with
    | some c => some (it.slot, c)
    | none =>
      let tags' := match it.kind with
        | .trigger _ _ op => if it.live then tags ++ op.stores (argOf s wr e tags it op) else tags
        | _ => tags
      slotsCause s wr e tags' t

/-- Active loop levels that end at a bundle, innermost first (R329). -/
def Ctx.endLevels (cx : Ctx) (p : Nat) : List Nat :=
  [5, 4, 3, 2, 1, 0].filter (fun n =>
    let w := (tabGet 0 cx.loops n).toNat
    bits w 36 34 == 0 && bits w 63 51 != 0 && bits w 63 51 == p)

/-- Increment registers of the levels that end at a bundle. -/
def Ctx.endRegs (cx : Ctx) (p : Nat) : List Nat :=
  (cx.endLevels p).flatMap (fun n =>
    let w := (tabGet 0 cx.loops n).toNat
    [bits w 127 122, bits w 95 90].filter (· != 0))

/-- Some slot of the bundle takes a branch. -/
def branchOf (pre : State) (wr : Ctx) (e : Site) (its : List Item) : Option (BitVec 13) :=
  firstOf (its.map (fun it => match it.kind with
    | .trigger _ _ op => if it.live then op.branch (argOf pre wr e [] it op) else none
    | _ => none))

/-- Empty registers that hold a bundle (R51, R52, R330). (DESIGN CHOICE, log 74.) -/
def emptyKeys (s : State) (wr : Ctx) (e : Site) (its : List Item) : List Nat :=
  let cx := s.ctx e.core e.ctx
  let ofItem := fun (it : Item) =>
    if !it.live then []
    else (srcEmptyKey e.sys it.slot it.m.s).toList ++ (match it.kind with
      | .trigger _ _ op =>
        let a := argOf s wr e [] it op
        (op.reads a).map (·.1) ++ op.dests a
      | _ => [])
  let ends := if e.sys || (branchOf s wr e its).isSome then []
    else cx.endRegs cx.user.pc.toNat
  (its.flatMap ofItem ++ ends).filter (fun k => cx.isEmpty k)

/-- Units whose full lenient queues the bundle pushes into (R158). -/
def fullUnits (s : State) (wr : Ctx) (e : Site) (its : List Item) : List Nat :=
  its.filterMap (fun it => match it.kind with
    | .trigger _ _ op =>
      if !it.live then none
      else match op.unit (argOf s wr e [] it op) with
        | some u => if s.queueFull e.core e.ctx u then some u else none
        | none => none
    | _ => none)

/-- An acquire under way holds the later accesses of its context (R370, R426). -/
def Ctx.acquiring (cx : Ctx) : Bool := !cx.acquireHold.isEmpty || cx.late.any (·.acq)

/-- What the triggers wait for: the first that does not go. -/
def gatesOf (s : State) (wr : Ctx) (e : Site) (its : List Item) : Gate :=
  its.foldl (fun g it => match g, it.kind with
    | .go, .trigger _ _ op =>
      if !it.live then .go
      else if op.access && (s.ctx e.core e.ctx).acquiring then .stall
      else op.gate (argOf s wr e [] it op)
    | g, _ => g) .go

/-! ### Banks of the own slice (R83, R385) -/

/-- Bank of the own slice that holds a line (R80). -/
def bankOf (line : Nat) : Nat := line / 16384 % 8

/-- Banks that the line accesses of the triggers of a bundle need, one for each access. -/
def banksOf (s : State) (wr : Ctx) (e : Site) (its : List Item) : List Nat :=
  its.flatMap (fun it => match it.kind with
    | .trigger _ _ op => if it.live then (op.lines (argOf s wr e [] it op)).map bankOf else []
    | _ => [])

/-- The bank still has accesses of the bundle to grant. -/
def Ctx.bankWants (cx : Ctx) (banks : List Nat) (b : Nat) : Bool := tabGet 0 cx.grants b < banks.count b

/-- The bank takes one access of the bundle in this cycle: neither the array's fetch nor the other context has it. -/
def Core.bankGives (k : Core) (taken : List Nat) (b : Nat) : Bool := !k.fetchBanks.contains b && !taken.contains b

/-- With the grants of this cycle every access of the bundle has been served. (DESIGN CHOICE, log 5.) -/
def State.banksServe (s : State) (e : Site) (taken banks : List Nat) : Bool :=
  let k := s.core e.core
  (distinct banks).all (fun b =>
    banks.count b ≤ tabGet 0 (k.ctx e.ctx).grants b + (if k.bankGives taken b then 1 else 0))

/-- A cycle in which some access of the bundle has lost its bank: the others keep what they were granted, and a bank stall
is counted (R83, event 0x06). (DESIGN CHOICE, log 5.) -/
def State.bankStall (c x : Nat) (taken banks : List Nat) (s : State) : State :=
  (s.modCore c (fun k => k.setCtx x (
    let cx := k.ctx x
    (distinct banks).foldl (fun (cx : Ctx) b =>
      if !cx.bankWants banks b then cx
      else if k.bankGives taken b then
        { cx with grants := tabSet 0 cx.grants b (tabGet 0 cx.grants b + 1), bankLost := tabDel cx.bankLost b }
      else if k.fetchBanks.contains b then cx
      else { cx with bankLost := tabSet 0 cx.bankLost b (tabGet 0 cx.bankLost b + 1) }) cx))).event c 0x06 1

/-- The judgement of a bundle. -/
inductive Verdict where
  | trap (t : Trap)
  | hold
  /-- A bank stall: the bundle tries again in the next cycle (R83). -/
  | busy (f : State → State)
  /-- Held as R326 says: it counts as issuing for R179. -/
  | held
  | start (f : State → State)
  | block (b : Block)
  | drain
  /-- It issues: its items and the state with its pops made. -/
  | go (its : List Item) (popped : State)

/-- Steps 5 to 7 of R247 and the conditions that hold a bundle. Its sources are read in `src`, the state before the bundles of
the cycle; s is the state in which it will act; `taken` names the banks that the other context has in this cycle
(R83, R298). -/
def State.judgeOn (src s : State) (taken : List Nat) (e : Site) (slots : List Slot) (tags : List Nat) : Verdict :=
  let cx := s.ctx e.core e.ctx
  let pc := (cx.plane e.sys).pc
  if !tabGet false (s.core e.core).untagged pc.toNat then
    .trap { cause := causeExecData, info := trapInfoWord none 0 pc.toNat }
  else match collision {} slots with
    | some (k, p) => .trap { cause := causePortCollide, info := trapInfoWord (some k) 0 p }
    | none =>
      let (its, popped) := readSlots src e s slots
      let wr := (writeItems e s (its.filter (fun it => match it.kind with
        | .push .. => false
        | _ => true))).ctx e.core e.ctx
      let waits := its.any (fun it => match it.kind with
        | .trigger _ _ op => it.live && op.fmtWait (argOf s wr e [] it op)
        | _ => false)
      if waits then .hold
      else match slotsCause s wr e tags its with
        | some (k, c, aux, addr) =>
          -- XLATE.PERM of an engine command leaves SV 0 (Table 9.2).
          .trap { cause := c, info := trapInfoWord (if c = causeXlatePerm then none else some k) aux addr }
        | none =>
          match emptyKeys s wr e its with
          | _ :: _ => .block (.regs (emptyKeys s wr e its))
          | [] =>
            match its.find? (fun it => it.dry.isSome) with
            | some it => .block (.popEmpty (it.queue.getD 0))
            | none =>
              match fullUnits s wr e its with
              | _ :: _ => .block (.queueFull (fullUnits s wr e its))
              | [] =>
                match gatesOf s wr e its with
                | .stall => .hold
                | .hold => .held
                | .start f => .start f
                | .block b => .block b
                | .drain => .drain
                | .go =>
                  if s.banksServe e taken (banksOf s wr e its) then .go its popped
                  else .busy (State.bankStall e.core e.ctx taken (banksOf s wr e its))

/-- The judgement of a bundle that acts in the state in which it is judged. -/
def State.judge (s : State) (e : Site) (slots : List Slot) (tags : List Nat) : Verdict := s.judgeOn s [] e slots tags

/-! ## Performing a bundle (R56) -/

/-- Fires one trigger: it consumes the unheld latches of its unit when it needs a latch (R55, R357), then acts. -/
def fireItem (pre : State) (wr : Ctx) (e : Site) (s : State) (it : Item) : State :=
  match it.kind with
  | .trigger _ _ op =>
    if !it.live then s
    else
      let a := argOf pre wr e [] it op
      let s := if (op.needs a.val).isEmpty then s
        else s.modCtx e.core e.ctx (fun cx => cx.consume e.sys (op.ports.map (latchKey it.slot)))
      op.act a s
  | _ => s

/-- What the triggers do at the end of the bundle. -/
def finItem (pre : State) (wr : Ctx) (e : Site) (s : State) (it : Item) : State :=
  match it.kind with
  | .trigger _ _ op => if it.live then op.fin (argOf pre wr e [] it op) s else s
  | _ => s

/-- inc(r, v) of R329. -/
def Ctx.incReg (cx : Ctx) (r v : Nat) : Ctx :=
  if r = 0 then cx else cx.writeS false r (cx.readS false r + (BitVec.ofNat 26 v).signExtend 64)

/-- The loop-end steps of a bundle (R329), innermost level first; `loops` is the table before the bundle. -/
def Ctx.loopEnd (loops : Tab (BitVec 128)) : List Nat → Ctx → Ctx × Option (BitVec 13)
  | [], cx => (cx, none)
  | n :: t, cx =>
    let w := (tabGet 0 loops n).toNat
    let cx := (cx.incReg (bits w 127 122) (bits w 121 96)).incReg (bits w 95 90) (bits w 89 64)
    let ctr := tabGet 0 cx.loopctr n
    if ctr.toNat + 1 < bits w 31 0 then
      (({ cx with loopctr := tabSet 0 cx.loopctr n (ctr + 1) }).dirty 33, some (BitVec.ofNat 13 (bits w 50 38)))
    else Ctx.loopEnd loops t (({ cx with loopctr := tabSet 0 cx.loopctr n 0 }).dirty 33)

/-- Power weight of a slot (Table 2.16). (DESIGN CHOICE, log 70.) -/
def itemWeight (it : Item) : Nat :=
  match it.kind with
  | .trigger _ _ op => op.weight
  | .move _ d => if d = 0 then 0 else 1
  | _ => 1

/-- The context has issued, or counts as issuing: a rotation asked of it takes its seat (R179). -/
def State.countIssue (s : State) (c x : Nat) : State :=
  let cx := s.ctx c x
  if (s.core c).rotate == some x then
    let s := s.modCore c (fun k => { k with rotate := none })
    if cx.seatedNow && (cx.state == .seated || cx.state == .system) then
      s.modCtx c x (fun cx => { cx with state := .ready, seatedNow := false, readySince := s.cycle })
    else s
  else s

/-- The advance of a plane after a bundle, with the events of R219. -/
def State.advance (s : State) (e : Site) (weight : Nat) : State :=
  let p := (s.ctx e.core e.ctx).plane e.sys
  let landed := if (p.dueAt (p.cyc + 1)).isEmpty then 0 else 1
  let s := s.modCtx e.core e.ctx (fun cx => cx.advance e.sys)
  let s := (s.event e.core 0x02 1).event e.core 0x08 landed
  let s := s.countIssue e.core e.ctx
  s.modCore e.core (fun k => { k with weightNow := k.weightNow + weight })

/-- The first bundle a tile step issues makes it RUNNING (R32). -/
def State.startStep (s : State) (e : Site) : State :=
  match s.stepOf e.core e.ctx with
  | some t => if t.state == .placed then s.modStep t.id (fun t => { t with state := .running }) else s
  | none => s

/-! ### The loop buffer (R190) -/

/-- Bundle p lies in the body of loop level n, which is active and of LB form. -/
def Ctx.inLb (cx : Ctx) (n p : Nat) : Bool :=
  let w := (tabGet 0 cx.loops n).toNat
  bits w 36 34 == 0 && bits w 63 51 != 0 && bits w 37 37 == 1 && bits w 50 38 ≤ p && p ≤ bits w 63 51

/-- Level n is in its first iteration. -/
def Ctx.firstTurn (cx : Ctx) (n : Nat) : Bool := tabGet 0 cx.loopctr n == 0

/-- The levels that end for good with a bundle at which the levels of a list end, innermost first (R329). -/
def Ctx.levelsOver (cx : Ctx) : List Nat → List Nat
  | [] => []
  | n :: t => if (tabGet 0 cx.loopctr n).toNat + 1 < bits (tabGet 0 cx.loops n).toNat 31 0 then [] else n :: cx.levelsOver t

/-- The holder of the loop buffer before a bundle at p of context x: the outermost LB level in its first iteration takes a
free buffer. -/
def Core.loopTake (k : Core) (x p : Nat) : Option (Nat × Nat) :=
  match k.loopHolder with
  | some h => some h
  | none => ([0, 1, 2, 3, 4, 5].find? (fun n => (k.ctx x).inLb n p && (k.ctx x).firstTurn n)).map (fun n => (x, n))

/-- The loop buffer after a bundle at p of context x: a body is copied on its first iteration, and the buffer is free again
when the level ends (`ended`); nothing where it stays as it is. -/
def Core.loopStep (k : Core) (x p : Nat) (ended : List Nat) : Option Core :=
  match k.loopTake x p with
  | none => none
  | some (y, n) =>
    if y != x then none
    else if ended.contains n then some { k with loopHolder := none, loopBuf := [] }
    else if (k.ctx x).inLb n p && (k.ctx x).firstTurn n then
      some { k with
        loopHolder := some (y, n)
        loopBuf := tabPut k.loopBuf (p - bits (tabGet 0 (k.ctx x).loops n).toNat 50 38) (tabGet 0 k.istore p) }
    else none

/-- The loop buffer of the core after the bundle that context x issues in `pre`; `ends` says that its loop-end step is made. A
write of it sets LOOP of DIRTYMAP (R76). -/
def State.loopBuffer (pre s : State) (e : Site) (ends : Bool) : State :=
  let cx := pre.ctx e.core e.ctx
  let p := cx.user.pc.toNat
  if e.sys then s
  else
    let ended := if ends then cx.levelsOver (cx.endLevels p) else []
    match (pre.core e.core).loopStep e.ctx p ended with
    | none => s
    | some k =>
      (s.modCore e.core (fun q => { q with loopBuf := k.loopBuf, loopHolder := k.loopHolder })).modCtx e.core e.ctx
        (fun cx => cx.dirty 33)

/-- A poisoned word among the queue lines of a bundle is consumed: the context ends with ECC.UNCORR (R260). -/
def State.endTainted (s : State) (e : Site) (its : List Item) : State :=
  match firstOf (its.map (·.taint)) with
  | some a => s.endCtx e.core e.ctx (eccRecord .sspace e.core e.ctx a)
  | none => s

/-- The effect of a bundle that issues: `pre` is the state before it, `popped` that state with its pops made. -/
def State.perform (pre popped : State) (e : Site) (its : List Item) : State :=
  let s := popped.startStep e
  let s := writeItems e s its
  let wr := s.ctx e.core e.ctx
  let s := its.foldl (fireItem pre wr e) s
  let cx := pre.ctx e.core e.ctx
  let p := (cx.plane e.sys).pc
  let br := branchOf pre wr e its
  let s := pre.loopBuffer s e br.isNone
  let (s, next) :=
    match br with
    | some t => (s, t)
    | none =>
      if e.sys then (s, p + 1)
      else
        let (cx', n) := Ctx.loopEnd cx.loops (cx.endLevels p.toNat) (s.ctx e.core e.ctx)
        (s.modCtx e.core e.ctx (fun _ => cx'), n.getD (p + 1))
  let s := s.modCtx e.core e.ctx (fun c => c.modPlane e.sys (fun q => { q with pc := next }))
  let s := its.foldl (finItem pre wr e) s
  (s.advance e ((its.map itemWeight).foldl (· + ·) 0)).endTainted e its

/-- An empty bundle (R64, R131): it advances the plane and moves nothing. -/
def State.emptyBundle (s : State) (e : Site) : State := s.advance e 0

/-! ## An attempt to issue -/

/-- Every register of the context is full and no due-buffer entry is outstanding (R64). -/
def Ctx.quiet (cx : Ctx) : Bool := cx.user.due.isEmpty && cx.empty.isEmpty

/-- The tile step of the context is over (R34, R341): `task.done` has issued, and what it or a slot beside it began has landed
and completed; until then the context issues empty bundles. (DESIGN CHOICE, log 83.) -/
def Ctx.over (cx : Ctx) : Bool := cx.doneIssued && cx.quiet && cx.completing.isEmpty

/-- The context can issue in this cycle: seated, not halted, not stopped for a save, its tile step not over, no freeze cycle
(R39, R78, R253, R341). -/
def State.canIssue (s : State) (c x : Nat) : Bool :=
  let k := s.core c
  let cx := k.ctx x
  !k.frozen && cx.seatedNow && !cx.sysHalted && !cx.userHalted && !cx.stopped && !cx.over
    && (cx.state == .seated || cx.state == .system)

/-- Where a context issues. -/
def State.site (s : State) (c x : Nat) (slots : List Slot) : Site :=
  { core := c, ctx := x, sys := (s.ctx c x).modeSys, carriers := carriersOf slots }

/-- The context issues empty bundles: it completes an operation (R131, R326), `task.done` waits (R64), or what stood beside
it has still to land (R34). (DESIGN CHOICE, log 83.) -/
def Ctx.waits (cx : Ctx) : Bool :=
  match cx.completing with
  | [] => cx.doneIssued
  | [.taskDone] => !cx.quiet
  | _ => true

/-- One attempt of a context to issue the bundle of these slots: a pending cause is taken first (steps 2-4 of R247),
a completing operation issues an empty bundle, and otherwise the bundle is judged. It reads its sources in `pre`, the state
before the bundles of the cycle, and acts in s; `taken` names the banks that the other context has (R83, R298). -/
def State.attemptOn (pre s : State) (taken : List Nat) (c x : Nat) (slots : List Slot) : State :=
  let cx := s.ctx c x
  let e := s.site c x slots
  if !s.canIssue c x then s
  else if cx.waits then s.emptyBundle e
  else if !e.sys && cx.completing.isEmpty && cx.preempt then
    s.modCtx c x (fun cx => { cx with stopped := true })
  else match (if e.sys || !cx.completing.isEmpty then none else cx.firstPending) with
    | some t =>
      s.modCtx c x (fun cx => { cx with pend := tabSet none cx.pend t.cause.toNat none })
        |>.deliver c x t
    | none =>
      match pre.judgeOn s taken e slots [] with
      | .trap t => s.raise c x t
      | .hold => s
      | .busy f => f s
      | .held => s.countIssue c x
      | .start f => (f s).countIssue c x
      | .block b => s.blockCtx c x b
      | .drain =>
        (if e.sys then s else s.modCtx c x (fun cx => { cx with completing := [.taskDone] })).emptyBundle e
      | .go its popped => s.perform popped e its

/-- An attempt that reads its sources in the state in which it acts. -/
def State.attempt (s : State) (c x : Nat) (slots : List Slot) : State := s.attemptOn s [] c x slots

/-- The meaning of a slot whose instruction runs: the attempt of the context named by State.turn to issue a bundle that
holds that slot and no other occupied one. (DEDUCED, log 19.) -/
def issueOne (kind : SlotKind) (s : State) : Host.Outcome State Fault Refusal :=
  .next (s.attempt s.turn.core s.turn.ctx [{ k := s.turn.slot, kind := kind }])

/-- The meaning of a slot whose move fires a trigger. (DEDUCED, log 19.) -/
def issueTrigger (m : Mv) (d : BitVec 10) (op : Op) (s : State) : Host.Outcome State Fault Refusal :=
  issueOne (.trigger m d op) s

end Sys2Proof.Machine
end

