-- ==== Sys2Proof/Machine/Access.lean ====
section
/-!
DEFINITION. Accesses of a core to S-space: address checks (R81, R87, R89), plain loads and stores (R368, R369),
barrier words (R139, R140), atomics in a bank (R371), long-latency accesses (R50, R82, R129), releases (R131).
-/

namespace Sys2Proof.Machine

/-! ## Checks -/

/-- Base-2 logarithm of an access size. -/
def log2Size (n : Nat) : Nat := Nat.log2 n

/-- The checks of Table 3.2 on a 64-bit address, in order: cause, AUX and ADDR (Table 2.8). -/
def addrCause (s : State) (addr size : Nat) (ordered : Bool) : Option Cause :=
  if sTop ≤ addr then some (causeSaddrRange, log2Size size, addr)
  else if addr % size ≠ 0 then some (causeAlign, log2Size size, addr)
  else if ordered && s.phased addr then some (causeRegionKind, log2Size size, addr)
  else none

/-- Lines of the phase write buffer in use once lower slots have stored. -/
def occWith (k : Core) (tags : List Nat) : Nat :=
  k.occ + ((distinct tags).filter (fun t => (k.pwbLine t).isNone)).length

/-- PHASE.OVF: the store needs line 8,193 (R89). -/
def phaseOvf (s : State) (c addr size : Nat) (tags : List Nat) : Option Cause :=
  let k := s.core c
  if s.phased addr && (k.pwbLine (addr / 64)).isNone && !tags.contains (addr / 64) && 8192 ≤ occWith k tags
  then some (causePhaseOvf, log2Size size, addr) else none

/-- The checks of a plain store after those of the address: BAR.STORE, then PHASE.OVF (R367). -/
def storeCause (s : State) (c addr size : Nat) (tags : List Nat) : Option Cause :=
  match addrCause s addr size false with
  | some e => some e
  | none =>
    if s.anyTagged addr size then some (causeBarStore, log2Size size, addr)
    else phaseOvf s c addr size tags

/-! ## Poison (R260) -/

/-- A context that consumes a poisoned word of S-space ends with ECC.UNCORR. -/
def State.consume (s : State) (c x addr n : Nat) : State :=
  match s.poisonAt addr n with
  | some a => s.endCtx c x (eccRecord .sspace c x a)
  | none => s

/-- Core c reads [addr, addr+n) from memory: some byte is not one of its phase write buffer. -/
def State.readsMem (s : State) (c addr n : Nat) : Bool :=
  (rangeFrom addr n).any (fun a => !(s.phased a && ((s.core c).pwbByte a).isSome))

/-- The consumption of a poisoned word that a context reads; bytes of its core's buffer are not the word's. -/
def State.consumeRead (s : State) (c x addr n : Nat) : State :=
  if s.readsMem c addr n then s.consume c x addr n else s

/-! ## Barrier words (R139, R140, R372) -/

/-- Barrier word from its fields (Table 4.2). -/
def barWord (pend : Nat) (ph : Bool) (exp arr : Nat) : Nat :=
  pend % 2 ^ 32 * 2 ^ 32 + (if ph then 2 ^ 31 else 0) + exp % 2 ^ 15 * 2 ^ 16 + arr % 2 ^ 15

/-- A change of a barrier word (R140): when ARR = EXP and PEND = 0, PH inverts and ARR clears. An arrival on a word with
EXP = 0 and PEND = 0 leaves ARR 1 and completes nothing. (DESIGN CHOICE, log 75.) -/
def barChange (w pend arrivals : Nat) : Nat :=
  let p := (bits w 63 32 + pend) % 2 ^ 32
  let arr := (bits w 14 0 + arrivals) % 2 ^ 15
  let exp := bits w 30 16
  let ph := bits w 31 31 == 1
  if arr = exp && p = 0 then barWord p (!ph) exp 0 else barWord p ph exp arr

/-- A write of words whose new value follows from what stood there: poison stays (R260). (DEDUCED, log 46.) -/
def State.sRewrite (s : State) (addr : Nat) (bs : List Byte) : State :=
  if s.anyPoison addr bs.length then (s.sWrite addr bs).setPoison addr bs.length else s.sWrite addr bs

/-- A change of the barrier word at an address in its bank. -/
def State.barUpdate (s : State) (addr pend arrivals : Nat) : State :=
  s.sRewrite addr (leBytes (barChange (leNat (s.sRead addr 8)) pend arrivals) 8)

/-- A barrier operation in its bank: 0 init, 1 release, 2 expectation, 3 arrival (R372). (DESIGN CHOICE, log 75.) -/
def State.barPerform (s : State) (op addr : Nat) (v : Word) : State :=
  let tag (s : State) (b : Bool) := (s.setTag (addr / 4) b).setTag (addr / 4 + 1) b
  match op with
  | 0 => tag (s.sWrite addr (leBytes (barWord 0 false (bits v.toNat 14 0) 0) 8)) true
  | 1 => tag (s.sWrite addr (leBytes 0 8)) false
  | 2 => s.barUpdate addr v.toNat 0
  | _ => s.barUpdate addr v.toNat 1

/-! ## Long-latency accesses -/

/-- Adds a long-latency access of a context, due no earlier than `wait` cycles from now (R82, R129).
(DESIGN CHOICE, log 5.) -/
def State.addLate (s : State) (c x : Nat) (kind : LateKind) (dst : Option LateDst) (wait : Nat) (acq : Bool)
    (order : Nat := s.nextId) : State :=
  s.modCtx c x (fun cx => { cx with late := cx.late ++
    [{ kind := kind, dst := dst, issued := s.cycle, earliest := s.cycle + BitVec.ofNat 64 wait, acq := acq
       order := order }] })

/-- Adds a load of a context before the accesses that the same bundle has added from place i on: it reads the value before
the bundle (R84, R373). (DESIGN CHOICE, log 5.) -/
def State.addLateAt (s : State) (c x i : Nat) (kind : LateKind) (dst : Option LateDst) (wait : Nat) (acq : Bool) : State :=
  s.modCtx c x (fun cx => { cx with late := cx.late.take i ++
    { kind := kind, dst := dst, issued := s.cycle, earliest := s.cycle + BitVec.ofNat 64 wait, acq := acq
      order := s.nextId } :: cx.late.drop i })

/-- Least mesh latency of an access to another slice (R82). -/
def meshCycles : Nat := 20

/-- Full/empty key of a long-latency destination. -/
def LateDst.key : LateDst → Nat
  | .sreg n sys => sEmptyKey (sKey sys n)
  | .vreg cl n _ => vEmptyKey cl n

/-- Marks a long-latency destination empty; s0 stays full and takes no value (R50). -/
def State.markEmpty (s : State) (c x : Nat) (d : LateDst) : State :=
  s.modCtx c x (fun cx => cx.setEmpty d.key true)

/-- s register as a long-latency destination; none for s0. -/
def lateS (sys : Bool) (n : Nat) : Option LateDst := if n = 0 then none else some (.sreg n sys)

/-- Keys that must be full before a long-latency operation issues (R52). -/
def destKeys (d : Option LateDst) : List Nat :=
  match d with
  | some d => [d.key]
  | none => []

/-- Performs an atomic of S-space in its bank: the state and the old value (R371). -/
def State.amoPerform (s : State) (op : AtomicOp) (addr : Nat) (word : Bool) (x e : Dword) : State × Dword :=
  let n := if word then 4 else 8
  let old := leNat (s.sRead addr n)
  (s.sRewrite addr (leBytes (atomicNew op n old x.toNat e.toNat) n), BitVec.ofNat 64 old)

/-- An atomic of a context: performed now in its own slice, its old value arriving 6 cy later; sent over the mesh to
another slice (R82, R371). The tile step gains an effect mark (R33). `order` is its place in program order.
(DEDUCED, log 26.) -/
def State.amoStart (s : State) (c x : Nat) (op : AtomicOp) (addr : Nat) (word : Bool) (v e : Dword)
    (dst : Option LateDst) (acq : Bool) (order : Nat := s.nextId) : State :=
  let s := s.markEffect c x
  if sliceOf addr = c then
    let p := s.amoPerform op addr word v e
    (p.1.addLate c x (.value (ofDword p.2)) dst 6 false order).consume c x addr (if word then 4 else 8)
  else s.addLate c x (.amo op addr word v e) dst meshCycles acq order

/-- A plain store of a context (R369): into the phase write buffer, into its own slice at once, or over the mesh. -/
def State.storePlain (s : State) (c x addr : Nat) (bs : List Byte) : State :=
  if s.phased addr then s.modCore c (fun k => k.pwbStores addr bs)
  else if sliceOf addr = c then s.sWrite addr bs
  else s.addLate c x (.store ((rangeFrom addr bs.length).zip bs)) none meshCycles false

/-- An IMMEDIATE store that follows a release; `order` is the place of the release in program order. -/
def State.storeImmediate (s : State) (c x addr : Nat) (bs : List Byte) (order : Nat) : State :=
  if sliceOf addr = c then s.sWrite addr bs
  else s.addLate c x (.store ((rangeFrom addr bs.length).zip bs)) none meshCycles false order

/-- A barrier operation of a context: at once in its own slice, over the mesh in another. -/
def State.barStart (s : State) (c x op addr : Nat) (v : Word) (order : Nat := s.nextId) : State :=
  if sliceOf addr = c then
    let s' := s.barPerform op addr v
    if 2 ≤ op then s'.consume c x addr 8 else s'
  else s.addLate c x (.bar op addr v) none meshCycles false order

/-- Addresses that an access of another slice touches. (DEDUCED, log 63.) -/
def Late.addrs (l : Late) : List Nat :=
  match l.kind with
  | .load a n _ => rangeFrom a n
  | .vload ls _ => ls.flatMap (fun p => rangeFrom p.2 4)
  | .store cells => cells.map (·.1)
  | .amo _ a w _ _ => rangeFrom a (if w then 4 else 8)
  | .bar _ a _ => rangeFrom a 8
  | .value _ => []
  | .engine _ => []

/-- An access of the context to [a, a+n) is still to be performed (R129). (DEDUCED, log 63.) -/
def Ctx.lateAt (cx : Ctx) (a n : Nat) : Bool := cx.late.any (fun l => l.addrs.any (fun i => a ≤ i && i < a + n))

/-! ## Releases (R131) -/

/-- The long-latency accesses a release waits for: loads, stores and atomics of the context. (DEDUCED, log 65.) -/
def Late.isAccess (l : Late) : Bool :=
  match l.kind with
  | .load .. | .vload .. | .store .. | .amo .. | .bar .. => true
  | .value _ | .engine _ => false

/-- A side-log entry holds a write of the context: one of its engines, or a remote write of it that came back to this
device. -/
def State.ownEntry (s : State) (c x : Nat) (e : LogEntry) : Bool :=
  match e.arrival with
  | none => e.core == c && e.ctx == x
  | some q => q.src == s.fabid && q.score.toNat == c && q.sctx.toNat == x

/-- A replayed write of the context is on its way to the host (R263). -/
def HostWho.holds (w : HostWho) (s : State) (c x : Nat) : Bool :=
  match w with
  | .replay d y _ => d == c && y == x
  | .arrivalWrite q _ => q.src == s.fabid && q.score.toNat == c && q.sctx.toNat == x
  | _ => false

/-- It is a replay of a write that waited for a migration (R114). -/
def HostWho.moved : HostWho → Bool
  | .replay _ _ m | .arrivalWrite _ m => m
  | _ => false

/-- The side logs hold a write of the context, or its replay has not ended (R131, R114). -/
def State.logsHold (s : State) (c x : Nat) : Bool :=
  s.sideLogs.any (s.ownEntry c x) || s.hostPending.any (fun r => r.who.holds s c x)

/-- They hold one because of migration, or its replay has not ended (R114). -/
def State.logsMigrate (s : State) (c x : Nat) : Bool :=
  s.sideLogs.any (fun e => e.migrating && s.ownEntry c x e)
    || s.hostPending.any (fun r => r.who.moved && r.who.holds s c x)

/-- The command is a `vatom`. -/
def Cmd.isVatom (m : Cmd) : Bool :=
  match m.op with
  | .vatom .. => true
  | _ => false

/-- A `vatom` of the context, pushed before a command number, is still to be performed: it waits in a queue or a copy
channel has not performed it (R131, R426). -/
def State.vatomsOpen (s : State) (c x before : Nat) : Bool :=
  let k := s.core c
  (k.queues.any (fun q => q.1 % 4 == x && q.2.any (fun m => m.isVatom && m.serial < before)))
    || k.buffers.any (fun b => b.2.any (fun t =>
      t.cmd.ctx == x && t.cmd.isVatom && t.cmd.serial < before && t.stage != .finished))

/-- The command is a remote write, reduction or atomic on a stream of a mask, or an epilogue that sends its rows on one. -/
def Cmd.onStreams (m : Cmd) (mask : BitVec 32) : Bool :=
  match m.op with
  | .mepiRm _ _ rw _ _ => mask.getLsbD (bits rw.toNat 15 11)
  | op => match op.stream with
    | some st => mask.getLsbD st.toNat
    | none => false

/-- Place of a command in the program order of its context (R117): a row of `mepi.rm` has that of its command. -/
def Cmd.order (m : Cmd) : Nat :=
  match m.op with
  | .row _ _ _ _ parent => parent
  | _ => m.serial

/-- A remote operation of the context on a stream of a mask, pushed before a command number, has not committed (R145): it
stands in a queue or a copy channel, or is a row of such an epilogue. -/
def State.streamsOpen (s : State) (c x : Nat) (mask : BitVec 32) (before : Nat) : Bool :=
  let k := s.core c
  let early (m : Cmd) : Bool := m.ctx == x && m.onStreams mask && m.order < before
  k.queues.any (fun q => q.1 % 4 == x && q.2.any early)
    || k.buffers.any (fun b => b.2.any (fun t => early t.cmd && t.stage != .finished))
    || (match k.me with
      | some r => early r.cmd
      | none => false)

/-- The remote operations that a fence or release of the context on the streams of a mask covers have committed (R131, R145):
the STRFENCE bits read zero, or only operations that stand after it in its own bundle keep them set. (DEDUCED, log 65.) -/
def State.streamsDone (s : State) (c x : Nat) (mask : BitVec 32) (order : Nat) : Bool :=
  (s.ctx c x).strFence &&& mask == 0 || !s.streamsOpen c x mask order

/-- A release of a context at a scope is complete (R131): its accesses are performed for every agent of the scope, its
logged writes are replayed, and at fabric scope STRFENCE reads zero. At scope ctx its own agents alone are covered.
(DEDUCED, log 65.) -/
def State.releaseDone (s : State) (c x scope order : Nat) : Bool :=
  !(s.ctx c x).late.any (fun l => l.isAccess && l.order ≤ order) && !s.logsHold c x && !s.vatomsOpen c x order
    && (scope != 4 || s.streamsDone c x (BitVec.allOnes 32) order)

/-- The context begins to complete a release (R131). -/
def State.beginRelease (s : State) (c x scope : Nat) (after : After) : State :=
  s.modCtx c x (fun cx => { cx with completing := cx.completing ++ [.release scope after s.nextId] })

end Sys2Proof.Machine
end

