-- ==== Sys2Proof/Machine/Scalar.lean ====
section
/-!
DEFINITION. Meanings of the scalar operations (14: R361-R364): sa0, sa1, their compares, and sm.
-/

namespace Sys2Proof.Machine

/-! ## Values -/

/-- Leading zeros of v; 64 for 0 (R361). -/
def clz64 (v : Dword) : Dword := if v = 0 then 64 else BitVec.ofNat 64 (63 - Nat.log2 v.toNat)

/-- Trailing zeros of n below a count. -/
def ctzFrom : Nat → Nat → Nat
  | 0, _ => 0
  | k + 1, n => if n % 2 = 1 then 0 else 1 + ctzFrom k (n / 2)

/-- Trailing zeros of v; 64 for 0 (R361). -/
def ctz64 (v : Dword) : Dword := BitVec.ofNat 64 (ctzFrom 64 v.toNat)

/-- 1 bits of n among the low k. -/
def popFrom : Nat → Nat → Nat
  | 0, _ => 0
  | k + 1, n => n % 2 + popFrom k (n / 2)

/-- 1 bits of v (R361). -/
def popc64 (v : Dword) : Dword := BitVec.ofNat 64 (popFrom 64 v.toNat)

/-- Least bit and width of a bit field (R362). -/
def fieldLsb (v : Dword) : Nat := v.toNat % 64
def fieldWidth (v : Dword) : Nat := v.toNat / 256 % 64 + 1

/-- The field of a, bits past 63 reading 0 (R362). -/
def fieldOf (a v : Dword) : Nat := a.toNat / 2 ^ fieldLsb v % 2 ^ fieldWidth v

/-- bfxu and bfx (R362). -/
def bfxuVal (a v : Dword) : Dword := BitVec.ofNat 64 (fieldOf a v)
def bfxVal (a v : Dword) : Dword := BitVec.ofInt 64 (sextNat (fieldWidth v) (fieldOf a v))

/-- bfi (R362). -/
def bfiVal (a b v : Dword) : Dword :=
  let m : Dword := BitVec.ofNat 64 ((2 ^ fieldWidth v - 1) * 2 ^ fieldLsb v)
  (a &&& ~~~ m) ||| ((b <<< fieldLsb v) &&& m)

/-- sext and zext from bit v[5:0] (R361). -/
def sextFrom (a v : Dword) : Dword := BitVec.ofInt 64 (sextNat (v.toNat % 64 + 1) a.toNat)
def zextFrom (a v : Dword) : Dword := BitVec.ofNat 64 (a.toNat % 2 ^ (v.toNat % 64 + 1))

/-- sbase: byte v[22:0] of core a's slice (R361). -/
def sbaseVal (a v : Dword) : Dword := BitVec.ofNat 64 (a.toNat % 128 * 0x800000 + v.toNat % 0x800000)

/-- Quotients and remainders (R363). -/
def divVal (a v : Dword) : Dword := if v = 0 then BitVec.allOnes 64 else a.sdiv v
def divuVal (a v : Dword) : Dword := if v = 0 then BitVec.allOnes 64 else a / v
def remVal (a v : Dword) : Dword := if v = 0 then a else a.srem v
def remuVal (a v : Dword) : Dword := if v = 0 then a else a % v

/-- High halves of the 128-bit product (R363). -/
def mulhVal (a v : Dword) : Dword := BitVec.ofInt 64 (a.toInt * v.toInt / 2 ^ 64)
def mulhuVal (a v : Dword) : Dword := BitVec.ofNat 64 (a.toNat * v.toNat / 2 ^ 64)

/-! ## Shapes -/

/-- A record of a trigger in the due buffer of its plane (R58). -/
def State.addRecord (s : State) (a : Arg) (L : Nat) (dst : DueDst) (val : Line) (mask : BitVec 16) (flags : BitVec 6) :
    State :=
  s.modCtx a.core a.ctx (fun cx => cx.addDue a.sys
    { due := a.cyc + BitVec.ofNat 64 L, dst := dst, val := val, mask := mask, flags := flags })

/-- A scalar operation on a, b and the moved value: its result lands in a result latch at latency L. -/
def scalarOp (ports needs : List Nat) (res L : Nat) (f : Dword → Dword → Dword → Dword) : Op :=
  { ports := ports, needs := fun _ => needs, weight := 2
    act := fun a s => s.addRecord a L (.latch res) (ofDword (f a.x1 a.x2 a.val)) 0xFFFF 0 }

/-- An operation of sa0 and of sa1 (L = 1, Table 14.1); `needs` counts operand ports from 1. -/
def sa0Op (needs : List Nat) (f : Dword → Dword → Dword → Dword) : Op :=
  scalarOp [0x150, 0x151] (needs.map (0x14F + ·)) 0x148 1 f
def sa1Op (needs : List Nat) (f : Dword → Dword → Dword → Dword) : Op :=
  scalarOp [0x152, 0x153] (needs.map (0x151 + ·)) 0x149 1 f
/-- An operation of sm (Table 14.2). -/
def smOp (needs : List Nat) (L : Nat) (f : Dword → Dword → Dword → Dword) : Op :=
  scalarOp [0x154, 0x155] (needs.map (0x153 + ·)) 0x14A L f

/-- A scalar compare of condition `code` into the pair of field p (R364). -/
def scalarCmp (code : Nat) (p : BitVec 2) : Op :=
  { ports := [0x150, 0x151], needs := fun _ => [0x150], weight := 2
    act := fun a s => s.addRecord a 1 (.qpair p.toNat) (if intTest code a.x1 a.val then 1 else 0) 0xFFFF 0 }

/-! ## sa0 -/

/-- ADD (R361). -/
def opAdd : Op := sa0Op [1] (fun a _ v => a + v)
/-- ADD: issue of its slot. -/
def execAdd (m : Mv) (s : State) : Host.Outcome State Fault Refusal :=
  issueTrigger m 0x160 opAdd s

/-- SUB (R361). -/
def opSub : Op := sa0Op [1] (fun a _ v => a - v)
/-- SUB: issue of its slot. -/
def execSub (m : Mv) (s : State) : Host.Outcome State Fault Refusal :=
  issueTrigger m 0x161 opSub s

/-- AND (R361). -/
def opAnd : Op := sa0Op [1] (fun a _ v => a &&& v)
/-- AND: issue of its slot. -/
def execAnd (m : Mv) (s : State) : Host.Outcome State Fault Refusal :=
  issueTrigger m 0x162 opAnd s

/-- OR (R361). -/
def opOr : Op := sa0Op [1] (fun a _ v => a ||| v)
/-- OR: issue of its slot. -/
def execOr (m : Mv) (s : State) : Host.Outcome State Fault Refusal :=
  issueTrigger m 0x163 opOr s

/-- XOR (R361). -/
def opXor : Op := sa0Op [1] (fun a _ v => a ^^^ v)
/-- XOR: issue of its slot. -/
def execXor (m : Mv) (s : State) : Host.Outcome State Fault Refusal :=
  issueTrigger m 0x164 opXor s

/-- ANDN (R361). -/
def opAndn : Op := sa0Op [1] (fun a _ v => a &&& ~~~ v)
/-- ANDN: issue of its slot. -/
def execAndn (m : Mv) (s : State) : Host.Outcome State Fault Refusal :=
  issueTrigger m 0x165 opAndn s

/-- SHL (R361). -/
def opShl : Op := sa0Op [1] (fun a _ v => a <<< (v.toNat % 64))
/-- SHL: issue of its slot. -/
def execShl (m : Mv) (s : State) : Host.Outcome State Fault Refusal :=
  issueTrigger m 0x166 opShl s

/-- SHR (R361). -/
def opShr : Op := sa0Op [1] (fun a _ v => a >>> (v.toNat % 64))
/-- SHR: issue of its slot. -/
def execShr (m : Mv) (s : State) : Host.Outcome State Fault Refusal :=
  issueTrigger m 0x167 opShr s

/-- SRA (R361). -/
def opSra : Op := sa0Op [1] (fun a _ v => a.sshiftRight (v.toNat % 64))
/-- SRA: issue of its slot. -/
def execSra (m : Mv) (s : State) : Host.Outcome State Fault Refusal :=
  issueTrigger m 0x168 opSra s

/-- MIN (R361). -/
def opMin : Op := sa0Op [1] (fun a _ v => if a.slt v then a else v)
/-- MIN: issue of its slot. -/
def execMin (m : Mv) (s : State) : Host.Outcome State Fault Refusal :=
  issueTrigger m 0x169 opMin s

/-- MAX (R361). -/
def opMax : Op := sa0Op [1] (fun a _ v => if a.slt v then v else a)
/-- MAX: issue of its slot. -/
def execMax (m : Mv) (s : State) : Host.Outcome State Fault Refusal :=
  issueTrigger m 0x16A opMax s

/-- MINU (R361). -/
def opMinu : Op := sa0Op [1] (fun a _ v => if a.ult v then a else v)
/-- MINU: issue of its slot. -/
def execMinu (m : Mv) (s : State) : Host.Outcome State Fault Refusal :=
  issueTrigger m 0x16B opMinu s

/-- MAXU (R361). -/
def opMaxu : Op := sa0Op [1] (fun a _ v => if a.ult v then v else a)
/-- MAXU: issue of its slot. -/
def execMaxu (m : Mv) (s : State) : Host.Outcome State Fault Refusal :=
  issueTrigger m 0x16C opMaxu s

/-- CLZ (R361). -/
def opClz : Op := sa0Op [] (fun _ _ v => clz64 v)
/-- CLZ: issue of its slot. -/
def execClz (m : Mv) (s : State) : Host.Outcome State Fault Refusal :=
  issueTrigger m 0x16D opClz s

/-- CTZ (R361). -/
def opCtz : Op := sa0Op [] (fun _ _ v => ctz64 v)
/-- CTZ: issue of its slot. -/
def execCtz (m : Mv) (s : State) : Host.Outcome State Fault Refusal :=
  issueTrigger m 0x16E opCtz s

/-- POPC (R361). -/
def opPopc : Op := sa0Op [] (fun _ _ v => popc64 v)
/-- POPC: issue of its slot. -/
def execPopc (m : Mv) (s : State) : Host.Outcome State Fault Refusal :=
  issueTrigger m 0x16F opPopc s

/-- BFX (R362). -/
def opBfx : Op := sa0Op [1] (fun a _ v => bfxVal a v)
/-- BFX: issue of its slot. -/
def execBfx (m : Mv) (s : State) : Host.Outcome State Fault Refusal :=
  issueTrigger m 0x170 opBfx s

/-- BFXU (R362). -/
def opBfxu : Op := sa0Op [1] (fun a _ v => bfxuVal a v)
/-- BFXU: issue of its slot. -/
def execBfxu (m : Mv) (s : State) : Host.Outcome State Fault Refusal :=
  issueTrigger m 0x171 opBfxu s

/-- BFI (R362). -/
def opBfi : Op := sa0Op [1, 2] (fun a b v => bfiVal a b v)
/-- BFI: issue of its slot. -/
def execBfi (m : Mv) (s : State) : Host.Outcome State Fault Refusal :=
  issueTrigger m 0x172 opBfi s

/-- SEL (R361). -/
def opSel : Op := sa0Op [1, 2] (fun a b v => if v = 0 then b else a)
/-- SEL: issue of its slot. -/
def execSel (m : Mv) (s : State) : Host.Outcome State Fault Refusal :=
  issueTrigger m 0x173 opSel s

/-- LEA (R361). -/
def opLea : Op := sa0Op [1, 2] (fun a b v => a + (b <<< (v.toNat % 8)))
/-- LEA: issue of its slot. -/
def execLea (m : Mv) (s : State) : Host.Outcome State Fault Refusal :=
  issueTrigger m 0x174 opLea s

/-- SEXT (R361). -/
def opSext : Op := sa0Op [1] (fun a _ v => sextFrom a v)
/-- SEXT: issue of its slot. -/
def execSext (m : Mv) (s : State) : Host.Outcome State Fault Refusal :=
  issueTrigger m 0x175 opSext s

/-- ZEXT (R361). -/
def opZext : Op := sa0Op [1] (fun a _ v => zextFrom a v)
/-- ZEXT: issue of its slot. -/
def execZext (m : Mv) (s : State) : Host.Outcome State Fault Refusal :=
  issueTrigger m 0x176 opZext s

/-- SBASE (R361). -/
def opSbase : Op := sa0Op [1] (fun a _ v => sbaseVal a v)
/-- SBASE: issue of its slot. -/
def execSbase (m : Mv) (s : State) : Host.Outcome State Fault Refusal :=
  issueTrigger m 0x177 opSbase s

/-! ## sa1 -/

/-- ADD_B (R361). -/
def opAddB : Op := sa1Op [1] (fun a _ v => a + v)
/-- ADD_B: issue of its slot. -/
def execAddB (m : Mv) (s : State) : Host.Outcome State Fault Refusal :=
  issueTrigger m 0x180 opAddB s

/-- SUB_B (R361). -/
def opSubB : Op := sa1Op [1] (fun a _ v => a - v)
/-- SUB_B: issue of its slot. -/
def execSubB (m : Mv) (s : State) : Host.Outcome State Fault Refusal :=
  issueTrigger m 0x181 opSubB s

/-- AND_B (R361). -/
def opAndB : Op := sa1Op [1] (fun a _ v => a &&& v)
/-- AND_B: issue of its slot. -/
def execAndB (m : Mv) (s : State) : Host.Outcome State Fault Refusal :=
  issueTrigger m 0x182 opAndB s

/-- OR_B (R361). -/
def opOrB : Op := sa1Op [1] (fun a _ v => a ||| v)
/-- OR_B: issue of its slot. -/
def execOrB (m : Mv) (s : State) : Host.Outcome State Fault Refusal :=
  issueTrigger m 0x183 opOrB s

/-- XOR_B (R361). -/
def opXorB : Op := sa1Op [1] (fun a _ v => a ^^^ v)
/-- XOR_B: issue of its slot. -/
def execXorB (m : Mv) (s : State) : Host.Outcome State Fault Refusal :=
  issueTrigger m 0x184 opXorB s

/-- ANDN_B (R361). -/
def opAndnB : Op := sa1Op [1] (fun a _ v => a &&& ~~~ v)
/-- ANDN_B: issue of its slot. -/
def execAndnB (m : Mv) (s : State) : Host.Outcome State Fault Refusal :=
  issueTrigger m 0x185 opAndnB s

/-- SHL_B (R361). -/
def opShlB : Op := sa1Op [1] (fun a _ v => a <<< (v.toNat % 64))
/-- SHL_B: issue of its slot. -/
def execShlB (m : Mv) (s : State) : Host.Outcome State Fault Refusal :=
  issueTrigger m 0x186 opShlB s

/-- SHR_B (R361). -/
def opShrB : Op := sa1Op [1] (fun a _ v => a >>> (v.toNat % 64))
/-- SHR_B: issue of its slot. -/
def execShrB (m : Mv) (s : State) : Host.Outcome State Fault Refusal :=
  issueTrigger m 0x187 opShrB s

/-- SRA_B (R361). -/
def opSraB : Op := sa1Op [1] (fun a _ v => a.sshiftRight (v.toNat % 64))
/-- SRA_B: issue of its slot. -/
def execSraB (m : Mv) (s : State) : Host.Outcome State Fault Refusal :=
  issueTrigger m 0x188 opSraB s

/-- MIN_B (R361). -/
def opMinB : Op := sa1Op [1] (fun a _ v => if a.slt v then a else v)
/-- MIN_B: issue of its slot. -/
def execMinB (m : Mv) (s : State) : Host.Outcome State Fault Refusal :=
  issueTrigger m 0x189 opMinB s

/-- MAX_B (R361). -/
def opMaxB : Op := sa1Op [1] (fun a _ v => if a.slt v then v else a)
/-- MAX_B: issue of its slot. -/
def execMaxB (m : Mv) (s : State) : Host.Outcome State Fault Refusal :=
  issueTrigger m 0x18A opMaxB s

/-- MINU_B (R361). -/
def opMinuB : Op := sa1Op [1] (fun a _ v => if a.ult v then a else v)
/-- MINU_B: issue of its slot. -/
def execMinuB (m : Mv) (s : State) : Host.Outcome State Fault Refusal :=
  issueTrigger m 0x18B opMinuB s

/-- MAXU_B (R361). -/
def opMaxuB : Op := sa1Op [1] (fun a _ v => if a.ult v then v else a)
/-- MAXU_B: issue of its slot. -/
def execMaxuB (m : Mv) (s : State) : Host.Outcome State Fault Refusal :=
  issueTrigger m 0x18C opMaxuB s

/-- CLZ_B (R361). -/
def opClzB : Op := sa1Op [] (fun _ _ v => clz64 v)
/-- CLZ_B: issue of its slot. -/
def execClzB (m : Mv) (s : State) : Host.Outcome State Fault Refusal :=
  issueTrigger m 0x18D opClzB s

/-- CTZ_B (R361). -/
def opCtzB : Op := sa1Op [] (fun _ _ v => ctz64 v)
/-- CTZ_B: issue of its slot. -/
def execCtzB (m : Mv) (s : State) : Host.Outcome State Fault Refusal :=
  issueTrigger m 0x18E opCtzB s

/-- POPC_B (R361). -/
def opPopcB : Op := sa1Op [] (fun _ _ v => popc64 v)
/-- POPC_B: issue of its slot. -/
def execPopcB (m : Mv) (s : State) : Host.Outcome State Fault Refusal :=
  issueTrigger m 0x18F opPopcB s

/-- BFX_B (R362). -/
def opBfxB : Op := sa1Op [1] (fun a _ v => bfxVal a v)
/-- BFX_B: issue of its slot. -/
def execBfxB (m : Mv) (s : State) : Host.Outcome State Fault Refusal :=
  issueTrigger m 0x190 opBfxB s

/-- BFXU_B (R362). -/
def opBfxuB : Op := sa1Op [1] (fun a _ v => bfxuVal a v)
/-- BFXU_B: issue of its slot. -/
def execBfxuB (m : Mv) (s : State) : Host.Outcome State Fault Refusal :=
  issueTrigger m 0x191 opBfxuB s

/-- BFI_B (R362). -/
def opBfiB : Op := sa1Op [1, 2] (fun a b v => bfiVal a b v)
/-- BFI_B: issue of its slot. -/
def execBfiB (m : Mv) (s : State) : Host.Outcome State Fault Refusal :=
  issueTrigger m 0x192 opBfiB s

/-- SEL_B (R361). -/
def opSelB : Op := sa1Op [1, 2] (fun a b v => if v = 0 then b else a)
/-- SEL_B: issue of its slot. -/
def execSelB (m : Mv) (s : State) : Host.Outcome State Fault Refusal :=
  issueTrigger m 0x193 opSelB s

/-- LEA_B (R361). -/
def opLeaB : Op := sa1Op [1, 2] (fun a b v => a + (b <<< (v.toNat % 8)))
/-- LEA_B: issue of its slot. -/
def execLeaB (m : Mv) (s : State) : Host.Outcome State Fault Refusal :=
  issueTrigger m 0x194 opLeaB s

/-- SEXT_B (R361). -/
def opSextB : Op := sa1Op [1] (fun a _ v => sextFrom a v)
/-- SEXT_B: issue of its slot. -/
def execSextB (m : Mv) (s : State) : Host.Outcome State Fault Refusal :=
  issueTrigger m 0x195 opSextB s

/-- ZEXT_B (R361). -/
def opZextB : Op := sa1Op [1] (fun a _ v => zextFrom a v)
/-- ZEXT_B: issue of its slot. -/
def execZextB (m : Mv) (s : State) : Host.Outcome State Fault Refusal :=
  issueTrigger m 0x196 opZextB s

/-- SBASE_B (R361). -/
def opSbaseB : Op := sa1Op [1] (fun a _ v => sbaseVal a v)
/-- SBASE_B: issue of its slot. -/
def execSbaseB (m : Mv) (s : State) : Host.Outcome State Fault Refusal :=
  issueTrigger m 0x197 opSbaseB s

/-! ## Compares of sa0 -/

/-- CMP_EQ (R364). -/
def opCmpEq (p : BitVec 2) : Op := scalarCmp 0 p
/-- CMP_EQ: issue of its slot. -/
def execCmpEq (m : Mv) (p : BitVec 2) (s : State) : Host.Outcome State Fault Refusal :=
  issueTrigger m ((7 : BitVec 4) ++ (p ++ (0 : BitVec 4))) (opCmpEq p) s

/-- CMP_NE (R364). -/
def opCmpNe (p : BitVec 2) : Op := scalarCmp 1 p
/-- CMP_NE: issue of its slot. -/
def execCmpNe (m : Mv) (p : BitVec 2) (s : State) : Host.Outcome State Fault Refusal :=
  issueTrigger m ((7 : BitVec 4) ++ (p ++ (1 : BitVec 4))) (opCmpNe p) s

/-- CMP_LT (R364). -/
def opCmpLt (p : BitVec 2) : Op := scalarCmp 2 p
/-- CMP_LT: issue of its slot. -/
def execCmpLt (m : Mv) (p : BitVec 2) (s : State) : Host.Outcome State Fault Refusal :=
  issueTrigger m ((7 : BitVec 4) ++ (p ++ (2 : BitVec 4))) (opCmpLt p) s

/-- CMP_LE (R364). -/
def opCmpLe (p : BitVec 2) : Op := scalarCmp 3 p
/-- CMP_LE: issue of its slot. -/
def execCmpLe (m : Mv) (p : BitVec 2) (s : State) : Host.Outcome State Fault Refusal :=
  issueTrigger m ((7 : BitVec 4) ++ (p ++ (3 : BitVec 4))) (opCmpLe p) s

/-- CMP_LTU (R364). -/
def opCmpLtu (p : BitVec 2) : Op := scalarCmp 4 p
/-- CMP_LTU: issue of its slot. -/
def execCmpLtu (m : Mv) (p : BitVec 2) (s : State) : Host.Outcome State Fault Refusal :=
  issueTrigger m ((7 : BitVec 4) ++ (p ++ (4 : BitVec 4))) (opCmpLtu p) s

/-- CMP_LEU (R364). -/
def opCmpLeu (p : BitVec 2) : Op := scalarCmp 5 p
/-- CMP_LEU: issue of its slot. -/
def execCmpLeu (m : Mv) (p : BitVec 2) (s : State) : Host.Outcome State Fault Refusal :=
  issueTrigger m ((7 : BitVec 4) ++ (p ++ (5 : BitVec 4))) (opCmpLeu p) s

/-! ## sm -/

/-- MUL (R363). -/
def opMul : Op := smOp [1] 3 (fun a _ v => a * v)
/-- MUL: issue of its slot. -/
def execMul (m : Mv) (s : State) : Host.Outcome State Fault Refusal :=
  issueTrigger m 0x1A0 opMul s

/-- MULH (R363). -/
def opMulh : Op := smOp [1] 3 (fun a _ v => mulhVal a v)
/-- MULH: issue of its slot. -/
def execMulh (m : Mv) (s : State) : Host.Outcome State Fault Refusal :=
  issueTrigger m 0x1A1 opMulh s

/-- MULHU (R363). -/
def opMulhu : Op := smOp [1] 3 (fun a _ v => mulhuVal a v)
/-- MULHU: issue of its slot. -/
def execMulhu (m : Mv) (s : State) : Host.Outcome State Fault Refusal :=
  issueTrigger m 0x1A2 opMulhu s

/-- MAD (R363). -/
def opMad : Op := smOp [1, 2] 3 (fun a b v => a * b + v)
/-- MAD: issue of its slot. -/
def execMad (m : Mv) (s : State) : Host.Outcome State Fault Refusal :=
  issueTrigger m 0x1A3 opMad s

/-- DIV (R363). -/
def opDiv : Op := smOp [1] 24 (fun a _ v => divVal a v)
/-- DIV: issue of its slot. -/
def execDiv (m : Mv) (s : State) : Host.Outcome State Fault Refusal :=
  issueTrigger m 0x1A4 opDiv s

/-- DIVU (R363). -/
def opDivu : Op := smOp [1] 24 (fun a _ v => divuVal a v)
/-- DIVU: issue of its slot. -/
def execDivu (m : Mv) (s : State) : Host.Outcome State Fault Refusal :=
  issueTrigger m 0x1A5 opDivu s

/-- REM (R363). -/
def opRem : Op := smOp [1] 24 (fun a _ v => remVal a v)
/-- REM: issue of its slot. -/
def execRem (m : Mv) (s : State) : Host.Outcome State Fault Refusal :=
  issueTrigger m 0x1A6 opRem s

/-- REMU (R363). -/
def opRemu : Op := smOp [1] 24 (fun a _ v => remuVal a v)
/-- REMU: issue of its slot. -/
def execRemu (m : Mv) (s : State) : Host.Outcome State Fault Refusal :=
  issueTrigger m 0x1A7 opRemu s

end Sys2Proof.Machine
end

