-- ==== Sys2Proof/Machine/Storage.lean ====
section
/-!
DEFINITION. Meanings of the operations of sl (14: R365-R373): loads, stores, acquire and release forms, atomics and
barrier operations in S-space.
-/

namespace Sys2Proof.Machine

/-! ## The control word (Table 14.3) -/

def slScope (w : Dword) : Nat := bits w.toNat 14 12
def slOrd (w : Dword) : Nat := bits w.toNat 9 8
def slWord (w : Dword) : Bool := w.getLsbD 7
def slDst (w : Dword) : Nat := bits w.toNat 5 0

/-- Operand ports of sl. -/
def slPorts : List Nat := [0x156, 0x157, 0x158]

/-- Address of the forms with an offset (R367). -/
def Arg.offAddr (a : Arg) : Nat := (a.x1 + a.val).toNat

/-- Size of a form whose control word gives W. -/
def Arg.wSize (a : Arg) : Nat := if slWord a.x3 then 4 else 8

/-- A SCOPE of 5-7 that is read (R130): the trigger port. -/
def badScope (a : Arg) (w : Dword) : Option Nat := if 4 < slScope w then some a.port else none

/-! ## Shapes -/

/-- The destination of a load: a register of the issuing plane. -/
def Arg.lateDst (a : Arg) (n : Nat) : Option LateDst := lateS a.sys n

/-- The address lies in the slice of the issuing core. -/
def Arg.own (a : Arg) (addr : Nat) : Bool := sliceOf addr == a.core

/-- A load (R366, R368): the own slice lands through the due buffer at L = 6; another slice is long-latency. -/
def loadOp (size : Arg → Nat) (ordered : Bool) : Op :=
  { ports := slPorts, needs := fun _ => [0x156, 0x158], weight := 2, access := true
    illegal := fun a => if ordered then badScope a a.x3 else none
    dests := fun a => if a.own a.offAddr then [] else destKeys (a.lateDst (slDst a.x3))
    lines := fun a => if a.own a.offAddr then [a.offAddr / 64] else []
    traps := fun a => addrCause a.pre a.offAddr (size a) ordered
    act := fun a s =>
      let addr := a.offAddr
      let n := size a
      if a.own addr then
        let v := leNat (a.pre.coreRead a.core addr n)
        (s.addRecord a 6 (.sreg (sKey a.sys (slDst a.x3))) (ofDword (BitVec.ofNat 64 v)) 0xFFFF 0).consumeRead
          a.core a.ctx addr n
      else
        let dst := a.lateDst (slDst a.x3)
        let s := s.addLateAt a.core a.ctx a.cx.late.length (.load addr n (a.pre.overlay a.core addr n)) dst meshCycles
          ordered
        match dst with
        | some d => s.markEmpty a.core a.ctx d
        | none => s }

/-- A plain store (R366, R369). -/
def storeOp (size : Nat) : Op :=
  { ports := slPorts, needs := fun _ => [0x156, 0x157], weight := 2, access := true
    traps := fun a => storeCause a.pre a.core a.offAddr size a.tags
    lines := fun a => if a.own a.offAddr && !a.pre.phased a.offAddr then [a.offAddr / 64] else []
    stores := fun a => if a.pre.phased a.offAddr then [a.offAddr / 64] else []
    act := fun a s => s.storePlain a.core a.ctx a.offAddr (leBytes a.x2.toNat size) }

/-- Checks of an atomic (R81, R87). -/
def atomicCause (s : State) (addr size : Nat) : Option Cause :=
  match addrCause s addr size true with
  | some e => some e
  | none => if s.anyTagged addr size then some (causeBarStore, log2Size size, addr) else none

/-- An atomic (R371): x and e are its operands; ORD 2 and 3 release first. -/
def amoOp (op : AtomicOp) (needs : List Nat) (x e : Arg → Dword) : Op :=
  { ports := slPorts, needs := fun _ => needs, weight := 2, access := true
    illegal := fun a => if slOrd a.x3 = 0 then none else badScope a a.x3
    dests := fun a => destKeys (a.lateDst (slDst a.x3))
    traps := fun a => atomicCause a.pre a.x1.toNat a.wSize
    lines := fun a => if a.own a.x1.toNat && slOrd a.x3 < 2 then [a.x1.toNat / 64] else []
    act := fun a s =>
      let dst := a.lateDst (slDst a.x3)
      let s := match dst with
        | some d => s.markEmpty a.core a.ctx d
        | none => s
      if 2 ≤ slOrd a.x3 then
        s.beginRelease a.core a.ctx (slScope a.x3)
          (.amo op a.x1.toNat (slWord a.x3) (x a) (e a) (slDst a.x3) a.sys (slOrd a.x3 == 3))
      else s.amoStart a.core a.ctx op a.x1.toNat (slWord a.x3) (x a) (e a) dst (slOrd a.x3 == 1) }

/-- An atomic whose moved value is its operand. -/
def amoSimple (op : AtomicOp) : Op := amoOp op [0x156, 0x158] (fun a => a.val) (fun _ => 0)

/-- A barrier operation without a release (R372): `init` acts on any word, the others on tagged words only. -/
def barOp (code : Dword → Nat) (init : Bool) : Op :=
  { ports := slPorts, needs := fun _ => [0x156], weight := 2, access := true
    traps := fun a =>
      match addrCause a.pre a.x1.toNat 8 true with
      | some e => some e
      | none =>
        if !init && !(a.pre.tagged a.x1.toNat && a.pre.tagged (a.x1.toNat + 4)) then
          some (causeBarStore, 3, a.x1.toNat)
        else none
    lines := fun a => if a.own a.x1.toNat then [a.x1.toNat / 64] else []
    act := fun a s => s.barStart a.core a.ctx (code a.val) a.x1.toNat (a.val.extractLsb' 0 32) }

/-! ## sl -/

/-- LD_W (R366, R368). -/
def opLdW : Op := loadOp (fun _ => 4) false
/-- LD_W: issue of its slot. -/
def execLdW (m : Mv) (s : State) : Host.Outcome State Fault Refusal :=
  issueTrigger m 0x1B0 opLdW s

/-- LD_D (R366, R368). -/
def opLdD : Op := loadOp (fun _ => 8) false
/-- LD_D: issue of its slot. -/
def execLdD (m : Mv) (s : State) : Host.Outcome State Fault Refusal :=
  issueTrigger m 0x1B1 opLdD s

/-- ST_W (R366, R369). -/
def opStW : Op := storeOp 4
/-- ST_W: issue of its slot. -/
def execStW (m : Mv) (s : State) : Host.Outcome State Fault Refusal :=
  issueTrigger m 0x1B2 opStW s

/-- ST_D (R366, R369). -/
def opStD : Op := storeOp 8
/-- ST_D: issue of its slot. -/
def execStD (m : Mv) (s : State) : Host.Outcome State Fault Refusal :=
  issueTrigger m 0x1B3 opStD s

/-- LD_ACQ (R370). -/
def opLdAcq : Op := loadOp (fun a => a.wSize) true
/-- LD_ACQ: issue of its slot. -/
def execLdAcq (m : Mv) (s : State) : Host.Outcome State Fault Refusal :=
  issueTrigger m 0x1B4 opLdAcq s

/-- ST_REL (R370). -/
def opStRel : Op := 
  { ports := slPorts, needs := fun _ => [0x156, 0x157, 0x158], weight := 2, access := true
    illegal := fun a => badScope a a.x3
    traps := fun a => atomicCause a.pre a.offAddr a.wSize
    act := fun a s => s.beginRelease a.core a.ctx (slScope a.x3) (.store a.offAddr a.wSize a.x2) }
/-- ST_REL: issue of its slot. -/
def execStRel (m : Mv) (s : State) : Host.Outcome State Fault Refusal :=
  issueTrigger m 0x1B5 opStRel s

/-- AMO_ADD (R371). -/
def opAmoAdd : Op := amoSimple .add
/-- AMO_ADD: issue of its slot. -/
def execAmoAdd (m : Mv) (s : State) : Host.Outcome State Fault Refusal :=
  issueTrigger m 0x1B6 opAmoAdd s

/-- AMO_AND (R371). -/
def opAmoAnd : Op := amoSimple .and
/-- AMO_AND: issue of its slot. -/
def execAmoAnd (m : Mv) (s : State) : Host.Outcome State Fault Refusal :=
  issueTrigger m 0x1B7 opAmoAnd s

/-- AMO_OR (R371). -/
def opAmoOr : Op := amoSimple .or
/-- AMO_OR: issue of its slot. -/
def execAmoOr (m : Mv) (s : State) : Host.Outcome State Fault Refusal :=
  issueTrigger m 0x1B8 opAmoOr s

/-- AMO_MIN (R371). -/
def opAmoMin : Op := amoSimple .min
/-- AMO_MIN: issue of its slot. -/
def execAmoMin (m : Mv) (s : State) : Host.Outcome State Fault Refusal :=
  issueTrigger m 0x1B9 opAmoMin s

/-- AMO_MAX (R371). -/
def opAmoMax : Op := amoSimple .max
/-- AMO_MAX: issue of its slot. -/
def execAmoMax (m : Mv) (s : State) : Host.Outcome State Fault Refusal :=
  issueTrigger m 0x1BA opAmoMax s

/-- AMO_SWAP (R371). -/
def opAmoSwap : Op := amoSimple .swap
/-- AMO_SWAP: issue of its slot. -/
def execAmoSwap (m : Mv) (s : State) : Host.Outcome State Fault Refusal :=
  issueTrigger m 0x1BB opAmoSwap s

/-- AMO_CAS (R371). -/
def opAmoCas : Op := amoOp .cas [0x156, 0x157, 0x158] (fun a => a.x2) (fun a => a.val)
/-- AMO_CAS: issue of its slot. -/
def execAmoCas (m : Mv) (s : State) : Host.Outcome State Fault Refusal :=
  issueTrigger m 0x1BC opAmoCas s

/-- BAR_INIT (R372). -/
def opBarInit : Op := barOp (fun v => if v.getLsbD 31 then 1 else 0) true
/-- BAR_INIT: issue of its slot. -/
def execBarInit (m : Mv) (s : State) : Host.Outcome State Fault Refusal :=
  issueTrigger m 0x1BD opBarInit s

/-- BAR_RELEASE (R372). -/
def opBarRelease : Op := barOp (fun v => if v.getLsbD 31 then 1 else 0) true
/-- BAR_RELEASE: issue of its slot. -/
def execBarRelease (m : Mv) (s : State) : Host.Outcome State Fault Refusal :=
  issueTrigger m 0x1BD opBarRelease s

/-- BAR_ARR (R372). -/
def opBarArr : Op := 
  { barOp (fun _ => 3) false with
    needs := fun _ => [0x156, 0x158]
    illegal := fun a => badScope a a.x3
    lines := fun _ => []
    act := fun a s =>
      s.beginRelease a.core a.ctx (slScope a.x3) (.barArr a.x1.toNat (a.val.extractLsb' 0 32)) }
/-- BAR_ARR: issue of its slot. -/
def execBarArr (m : Mv) (s : State) : Host.Outcome State Fault Refusal :=
  issueTrigger m 0x1BE opBarArr s

/-- BAR_EXP (R372). -/
def opBarExp : Op := barOp (fun _ => 2) false
/-- BAR_EXP: issue of its slot. -/
def execBarExp (m : Mv) (s : State) : Host.Outcome State Fault Refusal :=
  issueTrigger m 0x1BF opBarExp s

end Sys2Proof.Machine
end

