-- ==== Sys2Proof/Machine/Vector.lean ====
section
/-!
DEFINITION. Meanings of the cluster units (14: R374-R390): va0, va1 and their compares, vm, vf, vl, vx.
-/

namespace Sys2Proof.Machine

/-! ## Shapes -/

/-- Flags of the enabled lanes (R359). -/
def laneFlags (mask : BitVec 16) (f : Nat → BitVec 6) : BitVec 6 :=
  laneIx.foldl (fun acc l => if mask.getLsbD l then acc ||| f l else acc) 0

/-- A lane-wise result with its flags, landing in a result latch of the slot's cluster at latency L (R358, R359). -/
def State.addLanes (s : State) (a : Arg) (L res : Nat) (f : Nat → Word × BitVec 6) : State :=
  s.addRecord a L (.latch (res + 1024 * a.slot)) (mapLanes (fun l => (f l).1)) a.mask
    (laneFlags a.mask (fun l => (f l).2))

/-- A lane-wise operation of a cluster unit on a, b and v. -/
def laneOp (ports needs : List Nat) (weight res L : Nat) (f : Word → Word → Word → Word × BitVec 6) : Op :=
  { ports := ports, needs := fun _ => needs, weight := weight
    act := fun a s => s.addLanes a L res (fun l => f (lane a.o1 l) (lane a.o2 l) (lane a.v l)) }

/-- An operation of va0 or va1 (R374, R375); `needs` counts operand ports from 1. -/
def va0Op (needs : List Nat) (L : Nat) (f : Word → Word → Word → Word × BitVec 6) : Op :=
  laneOp [0x001, 0x002] needs 3 0x001 L f
def va1Op (needs : List Nat) (L : Nat) (f : Word → Word → Word → Word × BitVec 6) : Op :=
  laneOp [0x003, 0x004] (needs.map (2 + ·)) 3 0x002 L f
/-- An operation of vm (R377). -/
def vmOp (needs : List Nat) (f : Word → Word → Word → Word × BitVec 6) : Op :=
  laneOp [0x005, 0x006] (needs.map (4 + ·)) 5 0x003 4 f

/-- A result without flags. -/
def quiet (w : Word) : Word × BitVec 6 := (w, 0)

/-- sat_s32 of an exact sum (R237). -/
def satWord (i : Int) : Word × BitVec 6 := let p := satInt 32 i; (BitVec.ofInt 32 p.1, p.2)

/-- Leading zeros, 32 for 0, and 1 bits of a lane (R374). -/
def clz32 (v : Word) : Word := if v = 0 then 32 else BitVec.ofNat 32 (31 - Nat.log2 v.toNat)
def popc32 (v : Word) : Word := BitVec.ofNat 32 (popFrom 32 v.toNat)

/-- A vector compare of condition `code` into the pair of field p (R376). -/
def vectorCmp (code : Nat) (p : BitVec 2) : Op :=
  { ports := [0x001, 0x002], needs := fun _ => [0x001], weight := 3
    act := fun a s =>
      let t (l : Nat) : Bool × BitVec 6 :=
        if code < 6 then (intTest code (lane a.o1 l) (lane a.v l), 0) else floatTest code (lane a.o1 l) (lane a.v l)
      let v : Nat := laneIx.foldl (fun acc l => if (t l).1 then acc + 2 ^ l else acc) 0
      s.addRecord a (if code < 6 then 1 else 2) (.gpair a.slot p.toNat) (BitVec.ofNat 512 v) a.mask
        (laneFlags a.mask (fun l => (t l).2)) }

/-! ## vf (R378-R381) -/

/-- The mode word (Table 14.8): lane 0 of vf.o1. -/
def vfMode (a : Arg) : Nat := (lane a.o1 0).toNat
def vfPos (a : Arg) : Nat := bits (vfMode a) 6 4
def vfSat (a : Arg) : Bool := bits (vfMode a) 2 2 == 1
def vfRm (a : Arg) : RMode := rmodeOf (bits (vfMode a) 1 0)

/-- An operation of vf. -/
def vfOp (needs : List Nat) (L : Nat) (f : Arg → Nat → Word × BitVec 6) : Op :=
  { ports := [0x007], needs := fun _ => needs, weight := 6, act := fun a s => s.addLanes a L 0x004 (f a) }

/-- A POS at or above 32 / w (R378): the trigger port. -/
def badPos (w : Nat) (a : Arg) : Option Nat := if 32 / w ≤ vfPos a then some a.port else none

/-- A code of FP32 as a lane. -/
def asWord (p : Nat × BitVec 6) : Word × BitVec 6 := (BitVec.ofNat 32 p.1, p.2)

/-- A conversion to FP32 from the element in field POS (Table 14.9). -/
def widenOp (f : FFmt) : Op :=
  { vfOp [0x007] 4 (fun a l =>
      asWord (fp32.round .rne false (f.decode ((lane a.v l).toNat / 2 ^ (f.width * vfPos a) % 2 ^ f.width)))) with
    illegal := badPos f.width }

/-- A conversion from FP32 to the element in field POS, every other bit zero (Table 14.9). -/
def narrowOp (f : FFmt) : Op :=
  { vfOp [0x007] 4 (fun a l =>
      let p := f.round (vfRm a) (vfSat a) (dec32 (lane a.v l))
      asWord (p.1 * 2 ^ (f.width * vfPos a), p.2)) with
    illegal := badPos f.width }

/-- Format-table entry selected at issue (R71). -/
def Arg.fmtEntry (a : Arg) : Dword := tabGet 0 a.cx.fmt a.cx.fmtIndex

/-- A write to the selected entry waits in the context's ft queue (R187). -/
def Arg.fmtPending (a : Arg) : Bool :=
  (tabGet [] (a.pre.core a.core).queues (4 * 14 + a.ctx)).any (fun c => match c.op with
    | .fmtWr _ ix => ix.toNat % 16 == a.cx.fmtIndex
    | _ => false)

/-- Nibbles of a lane, low first. -/
def nibbles (w : Word) : List Nat := (rangeFrom 0 8).map (fun i => w.toNat / 16 ^ i % 16)

/-- A special function, unary at L = 12 (R381). -/
def specialOp (f : Word → Word × BitVec 6) : Op := vfOp [] 12 (fun a l => f (lane a.v l))

/-! ## vl (R382-R385) -/

/-- Operand ports of vl. -/
def vlPorts : List Nat := [0x008, 0x009, 0x00A]

/-- Enabled lanes, ascending. -/
def lanesOf (mask : BitVec 16) : List Nat := laneIx.filter (fun l => mask.getLsbD l)

/-- Line address of vld and vst (R383). -/
def Arg.lineAddr (a : Arg) : Nat := (lane a.o1 0 + lane a.v 0).toNat

/-- Lane addresses of vgld and vsct (R384). -/
def Arg.laneAddr (a : Arg) (l : Nat) : Nat := (lane a.o1 0 + lane a.v l).toNat

/-- Destination v register of a load (R382). -/
def Arg.vDst (a : Arg) : Nat := (lane a.o3 0).toNat % 64

/-- A vector load of lanes at addresses: through the due buffer when every lane lies in the own slice (L = 6),
long-latency otherwise (R383, R384). Lanes of the own slice are read in the issue cycle in both cases (R129, R368). -/
def vloadAct (a : Arg) (addrs : List (Nat × Nat)) (s : State) : State :=
  let own := addrs.filter (fun p => a.own p.2)
  let s :=
    if addrs.all (fun p => a.own p.2) then
      let word (l : Nat) : Word := match addrs.find? (fun p => p.1 == l) with
        | some p => BitVec.ofNat 32 (leNat (a.pre.coreRead a.core p.2 4))
        | none => 0
      s.addRecord a 6 (.vreg a.slot a.vDst) (mapLanes word) a.mask 0
    else
      let ov := addrs.flatMap (fun p =>
        if a.own p.2 then (rangeFrom p.2 4).map (fun i => (i, a.pre.coreByte a.core i)) else a.pre.overlay a.core p.2 4)
      let d : LateDst := .vreg a.slot a.vDst a.mask
      (s.addLateAt a.core a.ctx a.cx.late.length (.vload addrs ov) (some d) meshCycles false).markEmpty a.core a.ctx d
  own.foldl (fun s p => s.consumeRead a.core a.ctx p.2 4) s

/-- Destinations of a vector load that must be full (R52). -/
def vloadDests (a : Arg) (addrs : List (Nat × Nat)) : List Nat :=
  if addrs.all (fun p => a.own p.2) then [] else [vEmptyKey a.slot a.vDst]

/-- Lines of the own slice that lanes touch, each once. -/
def ownLines (a : Arg) (addrs : List (Nat × Nat)) : List Nat :=
  distinct ((addrs.filter (fun p => a.own p.2)).map (fun p => p.2 / 64))

/-- Lines of the own slice that lanes store to, past the phase write buffer. -/
def storeLines (a : Arg) (addrs : List (Nat × Nat)) : List Nat :=
  ownLines a (addrs.filter (fun p => !a.pre.phased p.2))

/-- Lanes of vld: consecutive words of the line. -/
def vldAddrs (a : Arg) : List (Nat × Nat) := (lanesOf a.mask).map (fun l => (l, a.lineAddr + 4 * l))

/-- Lanes of vgld. -/
def vgldAddrs (a : Arg) : List (Nat × Nat) := (lanesOf a.mask).map (fun l => (l, a.laneAddr l))

/-- The first failing lane of a scatter (R384), each lane seeing the buffer lines of the lanes before it. -/
def scatterCause (a : Arg) : List Nat → List Nat → Option Cause
  | _, [] => none
  | tags, l :: t =>
    match storeCause a.pre a.core (a.laneAddr l) 4 tags with
    | some e => some e
    | none => scatterCause a (if a.pre.phased (a.laneAddr l) then tags ++ [a.laneAddr l / 64] else tags) t

/-! ## vx (R386-R390) -/

/-- Operand ports of vx. -/
def vxPorts : List Nat := [0x00B, 0x00C]

/-- Byte e of the active shuffle bank for lane l of a cluster (Table 6.17). -/
def Arg.shufByte (a : Arg) (l : Nat) : Nat :=
  let k := a.pre.core a.core
  (tabGet 0 k.shuffle ((if k.shufBank then 8192 else 0) + 128 * ((lane a.v 0).toNat % 64) + 16 * a.slot + l)).toNat

/-- Clusters whose vx.o2 latch a shuf reads (R388). -/
def Arg.shufSources (a : Arg) : List Nat :=
  distinct ((laneIx.filter (fun l => a.shufByte l < 128)).map (fun l => a.shufByte l / 16))

/-- Latch of a cluster's vx.o2 after the moves. -/
def Arg.vxLatch (a : Arg) (c : Nat) : Latch := (a.vx[c]?).getD {}

/-- A vx.o2 latch among some clusters is invalid: OPERAND.EMPTY at 0x00C (R388). -/
def Arg.lacksVx (a : Arg) (cs : List Nat) : Option Nat :=
  if cs.any (fun c => !(a.vxLatch c).valid) then some 0x00C else none

/-- Control of a reduction: TYPE and SPAN (R390). -/
def redType (a : Arg) : Nat := (lane a.o1 0).toNat % 4
def redSpan (a : Arg) : Bool := (lane a.o1 0).getLsbD 2

/-- Sources of a reduction in order (R390). -/
def redSources (a : Arg) : List Word :=
  if redSpan a then (rangeFrom 0 8).flatMap (fun c => laneIx.map (lane (a.vxLatch c).val))
  else laneIx.map (lane a.v)

/-- One step of a reduction: 0 add, 1 min, 2 max (R390). -/
def redStep (kind type : Nat) (acc x : Word) : Word × BitVec 6 :=
  if type = 1 then
    (if kind = 0 then f32Add acc x else f32MinMax (kind == 2) acc x)
  else if kind = 0 then (acc + x, 0)
  else
    let less := if type = 0 then acc.slt x else acc.ult x
    (if (kind = 1) = (less = true) then acc else x, 0)

/-- A reduction at L = 8 (R390). -/
def redOp (kind : Nat) : Op :=
  { ports := vxPorts, needs := fun _ => [0x00B], weight := 3
    illegal := fun a => if redType a = 3 then some a.port else none
    lacks := fun a => if redSpan a then a.lacksVx (rangeFrom 0 8) else none
    act := fun a s =>
      let r : Word × BitVec 6 := match redSources a with
        | [] => (0, 0)
        | x :: t => t.foldl (fun p y => let q := redStep kind (redType a) p.1 y; (q.1, p.2 ||| q.2)) (x, 0)
      s.addLanes a 8 0x005 (fun _ => r) }

/-! ## va0 -/

/-- VADD (R374). -/
def opVadd : Op := va0Op [1] 1 (fun a _ v => quiet (a + v))
/-- VADD: issue of its slot. -/
def execVadd (m : Mv) (s : State) : Host.Outcome State Fault Refusal :=
  issueTrigger m 0x080 opVadd s

/-- VSUB (R374). -/
def opVsub : Op := va0Op [1] 1 (fun a _ v => quiet (a - v))
/-- VSUB: issue of its slot. -/
def execVsub (m : Mv) (s : State) : Host.Outcome State Fault Refusal :=
  issueTrigger m 0x081 opVsub s

/-- VADDS (R374). -/
def opVadds : Op := va0Op [1] 1 (fun a _ v => satWord (a.toInt + v.toInt))
/-- VADDS: issue of its slot. -/
def execVadds (m : Mv) (s : State) : Host.Outcome State Fault Refusal :=
  issueTrigger m 0x082 opVadds s

/-- VSUBS (R374). -/
def opVsubs : Op := va0Op [1] 1 (fun a _ v => satWord (a.toInt - v.toInt))
/-- VSUBS: issue of its slot. -/
def execVsubs (m : Mv) (s : State) : Host.Outcome State Fault Refusal :=
  issueTrigger m 0x083 opVsubs s

/-- VMIN (R374). -/
def opVmin : Op := va0Op [1] 1 (fun a _ v => quiet (if a.slt v then a else v))
/-- VMIN: issue of its slot. -/
def execVmin (m : Mv) (s : State) : Host.Outcome State Fault Refusal :=
  issueTrigger m 0x084 opVmin s

/-- VMAX (R374). -/
def opVmax : Op := va0Op [1] 1 (fun a _ v => quiet (if a.slt v then v else a))
/-- VMAX: issue of its slot. -/
def execVmax (m : Mv) (s : State) : Host.Outcome State Fault Refusal :=
  issueTrigger m 0x085 opVmax s

/-- VMINU (R374). -/
def opVminu : Op := va0Op [1] 1 (fun a _ v => quiet (if a.ult v then a else v))
/-- VMINU: issue of its slot. -/
def execVminu (m : Mv) (s : State) : Host.Outcome State Fault Refusal :=
  issueTrigger m 0x086 opVminu s

/-- VMAXU (R374). -/
def opVmaxu : Op := va0Op [1] 1 (fun a _ v => quiet (if a.ult v then v else a))
/-- VMAXU: issue of its slot. -/
def execVmaxu (m : Mv) (s : State) : Host.Outcome State Fault Refusal :=
  issueTrigger m 0x087 opVmaxu s

/-- VAND (R374). -/
def opVand : Op := va0Op [1] 1 (fun a _ v => quiet (a &&& v))
/-- VAND: issue of its slot. -/
def execVand (m : Mv) (s : State) : Host.Outcome State Fault Refusal :=
  issueTrigger m 0x088 opVand s

/-- VOR (R374). -/
def opVor : Op := va0Op [1] 1 (fun a _ v => quiet (a ||| v))
/-- VOR: issue of its slot. -/
def execVor (m : Mv) (s : State) : Host.Outcome State Fault Refusal :=
  issueTrigger m 0x089 opVor s

/-- VXOR (R374). -/
def opVxor : Op := va0Op [1] 1 (fun a _ v => quiet (a ^^^ v))
/-- VXOR: issue of its slot. -/
def execVxor (m : Mv) (s : State) : Host.Outcome State Fault Refusal :=
  issueTrigger m 0x08A opVxor s

/-- VANDN (R374). -/
def opVandn : Op := va0Op [1] 1 (fun a _ v => quiet (a &&& ~~~ v))
/-- VANDN: issue of its slot. -/
def execVandn (m : Mv) (s : State) : Host.Outcome State Fault Refusal :=
  issueTrigger m 0x08B opVandn s

/-- VSHL (R374). -/
def opVshl : Op := va0Op [1] 1 (fun a _ v => quiet (a <<< (v.toNat % 32)))
/-- VSHL: issue of its slot. -/
def execVshl (m : Mv) (s : State) : Host.Outcome State Fault Refusal :=
  issueTrigger m 0x08C opVshl s

/-- VSHR (R374). -/
def opVshr : Op := va0Op [1] 1 (fun a _ v => quiet (a >>> (v.toNat % 32)))
/-- VSHR: issue of its slot. -/
def execVshr (m : Mv) (s : State) : Host.Outcome State Fault Refusal :=
  issueTrigger m 0x08D opVshr s

/-- VSRA (R374). -/
def opVsra : Op := va0Op [1] 1 (fun a _ v => quiet (a.sshiftRight (v.toNat % 32)))
/-- VSRA: issue of its slot. -/
def execVsra (m : Mv) (s : State) : Host.Outcome State Fault Refusal :=
  issueTrigger m 0x08E opVsra s

/-- VSEL (R374). -/
def opVsel : Op := va0Op [1, 2] 1 (fun a b v => quiet (if v = 0 then b else a))
/-- VSEL: issue of its slot. -/
def execVsel (m : Mv) (s : State) : Host.Outcome State Fault Refusal :=
  issueTrigger m 0x08F opVsel s

/-- VCLZ (R374). -/
def opVclz : Op := va0Op [] 1 (fun _ _ v => quiet (clz32 v))
/-- VCLZ: issue of its slot. -/
def execVclz (m : Mv) (s : State) : Host.Outcome State Fault Refusal :=
  issueTrigger m 0x090 opVclz s

/-- VPOPC (R374). -/
def opVpopc : Op := va0Op [] 1 (fun _ _ v => quiet (popc32 v))
/-- VPOPC: issue of its slot. -/
def execVpopc (m : Mv) (s : State) : Host.Outcome State Fault Refusal :=
  issueTrigger m 0x091 opVpopc s

/-- VFADD (R375). -/
def opVfadd : Op := va0Op [1] 3 (fun a _ v => f32Add a v)
/-- VFADD: issue of its slot. -/
def execVfadd (m : Mv) (s : State) : Host.Outcome State Fault Refusal :=
  issueTrigger m 0x092 opVfadd s

/-- VFSUB (R375). -/
def opVfsub : Op := va0Op [1] 3 (fun a _ v => f32Sub a v)
/-- VFSUB: issue of its slot. -/
def execVfsub (m : Mv) (s : State) : Host.Outcome State Fault Refusal :=
  issueTrigger m 0x093 opVfsub s

/-- VFMIN (R375). -/
def opVfmin : Op := va0Op [1] 1 (fun a _ v => f32MinMax false a v)
/-- VFMIN: issue of its slot. -/
def execVfmin (m : Mv) (s : State) : Host.Outcome State Fault Refusal :=
  issueTrigger m 0x094 opVfmin s

/-- VFMAX (R375). -/
def opVfmax : Op := va0Op [1] 1 (fun a _ v => f32MinMax true a v)
/-- VFMAX: issue of its slot. -/
def execVfmax (m : Mv) (s : State) : Host.Outcome State Fault Refusal :=
  issueTrigger m 0x095 opVfmax s

/-- VFABS (R375). -/
def opVfabs : Op := va0Op [] 1 (fun _ _ v => quiet (v &&& 0x7FFFFFFF))
/-- VFABS: issue of its slot. -/
def execVfabs (m : Mv) (s : State) : Host.Outcome State Fault Refusal :=
  issueTrigger m 0x096 opVfabs s

/-- VFNEG (R375). -/
def opVfneg : Op := va0Op [] 1 (fun _ _ v => quiet (v ^^^ 0x80000000))
/-- VFNEG: issue of its slot. -/
def execVfneg (m : Mv) (s : State) : Host.Outcome State Fault Refusal :=
  issueTrigger m 0x097 opVfneg s

/-! ## va1 -/

/-- VADD_B (R374). -/
def opVaddB : Op := va1Op [1] 1 (fun a _ v => quiet (a + v))
/-- VADD_B: issue of its slot. -/
def execVaddB (m : Mv) (s : State) : Host.Outcome State Fault Refusal :=
  issueTrigger m 0x098 opVaddB s

/-- VSUB_B (R374). -/
def opVsubB : Op := va1Op [1] 1 (fun a _ v => quiet (a - v))
/-- VSUB_B: issue of its slot. -/
def execVsubB (m : Mv) (s : State) : Host.Outcome State Fault Refusal :=
  issueTrigger m 0x099 opVsubB s

/-- VADDS_B (R374). -/
def opVaddsB : Op := va1Op [1] 1 (fun a _ v => satWord (a.toInt + v.toInt))
/-- VADDS_B: issue of its slot. -/
def execVaddsB (m : Mv) (s : State) : Host.Outcome State Fault Refusal :=
  issueTrigger m 0x09A opVaddsB s

/-- VSUBS_B (R374). -/
def opVsubsB : Op := va1Op [1] 1 (fun a _ v => satWord (a.toInt - v.toInt))
/-- VSUBS_B: issue of its slot. -/
def execVsubsB (m : Mv) (s : State) : Host.Outcome State Fault Refusal :=
  issueTrigger m 0x09B opVsubsB s

/-- VMIN_B (R374). -/
def opVminB : Op := va1Op [1] 1 (fun a _ v => quiet (if a.slt v then a else v))
/-- VMIN_B: issue of its slot. -/
def execVminB (m : Mv) (s : State) : Host.Outcome State Fault Refusal :=
  issueTrigger m 0x09C opVminB s

/-- VMAX_B (R374). -/
def opVmaxB : Op := va1Op [1] 1 (fun a _ v => quiet (if a.slt v then v else a))
/-- VMAX_B: issue of its slot. -/
def execVmaxB (m : Mv) (s : State) : Host.Outcome State Fault Refusal :=
  issueTrigger m 0x09D opVmaxB s

/-- VMINU_B (R374). -/
def opVminuB : Op := va1Op [1] 1 (fun a _ v => quiet (if a.ult v then a else v))
/-- VMINU_B: issue of its slot. -/
def execVminuB (m : Mv) (s : State) : Host.Outcome State Fault Refusal :=
  issueTrigger m 0x09E opVminuB s

/-- VMAXU_B (R374). -/
def opVmaxuB : Op := va1Op [1] 1 (fun a _ v => quiet (if a.ult v then v else a))
/-- VMAXU_B: issue of its slot. -/
def execVmaxuB (m : Mv) (s : State) : Host.Outcome State Fault Refusal :=
  issueTrigger m 0x09F opVmaxuB s

/-- VAND_B (R374). -/
def opVandB : Op := va1Op [1] 1 (fun a _ v => quiet (a &&& v))
/-- VAND_B: issue of its slot. -/
def execVandB (m : Mv) (s : State) : Host.Outcome State Fault Refusal :=
  issueTrigger m 0x0A0 opVandB s

/-- VOR_B (R374). -/
def opVorB : Op := va1Op [1] 1 (fun a _ v => quiet (a ||| v))
/-- VOR_B: issue of its slot. -/
def execVorB (m : Mv) (s : State) : Host.Outcome State Fault Refusal :=
  issueTrigger m 0x0A1 opVorB s

/-- VXOR_B (R374). -/
def opVxorB : Op := va1Op [1] 1 (fun a _ v => quiet (a ^^^ v))
/-- VXOR_B: issue of its slot. -/
def execVxorB (m : Mv) (s : State) : Host.Outcome State Fault Refusal :=
  issueTrigger m 0x0A2 opVxorB s

/-- VANDN_B (R374). -/
def opVandnB : Op := va1Op [1] 1 (fun a _ v => quiet (a &&& ~~~ v))
/-- VANDN_B: issue of its slot. -/
def execVandnB (m : Mv) (s : State) : Host.Outcome State Fault Refusal :=
  issueTrigger m 0x0A3 opVandnB s

/-- VSHL_B (R374). -/
def opVshlB : Op := va1Op [1] 1 (fun a _ v => quiet (a <<< (v.toNat % 32)))
/-- VSHL_B: issue of its slot. -/
def execVshlB (m : Mv) (s : State) : Host.Outcome State Fault Refusal :=
  issueTrigger m 0x0A4 opVshlB s

/-- VSHR_B (R374). -/
def opVshrB : Op := va1Op [1] 1 (fun a _ v => quiet (a >>> (v.toNat % 32)))
/-- VSHR_B: issue of its slot. -/
def execVshrB (m : Mv) (s : State) : Host.Outcome State Fault Refusal :=
  issueTrigger m 0x0A5 opVshrB s

/-- VSRA_B (R374). -/
def opVsraB : Op := va1Op [1] 1 (fun a _ v => quiet (a.sshiftRight (v.toNat % 32)))
/-- VSRA_B: issue of its slot. -/
def execVsraB (m : Mv) (s : State) : Host.Outcome State Fault Refusal :=
  issueTrigger m 0x0A6 opVsraB s

/-- VSEL_B (R374). -/
def opVselB : Op := va1Op [1, 2] 1 (fun a b v => quiet (if v = 0 then b else a))
/-- VSEL_B: issue of its slot. -/
def execVselB (m : Mv) (s : State) : Host.Outcome State Fault Refusal :=
  issueTrigger m 0x0A7 opVselB s

/-- VCLZ_B (R374). -/
def opVclzB : Op := va1Op [] 1 (fun _ _ v => quiet (clz32 v))
/-- VCLZ_B: issue of its slot. -/
def execVclzB (m : Mv) (s : State) : Host.Outcome State Fault Refusal :=
  issueTrigger m 0x0A8 opVclzB s

/-- VPOPC_B (R374). -/
def opVpopcB : Op := va1Op [] 1 (fun _ _ v => quiet (popc32 v))
/-- VPOPC_B: issue of its slot. -/
def execVpopcB (m : Mv) (s : State) : Host.Outcome State Fault Refusal :=
  issueTrigger m 0x0A9 opVpopcB s

/-- VFADD_B (R375). -/
def opVfaddB : Op := va1Op [1] 3 (fun a _ v => f32Add a v)
/-- VFADD_B: issue of its slot. -/
def execVfaddB (m : Mv) (s : State) : Host.Outcome State Fault Refusal :=
  issueTrigger m 0x0AA opVfaddB s

/-- VFSUB_B (R375). -/
def opVfsubB : Op := va1Op [1] 3 (fun a _ v => f32Sub a v)
/-- VFSUB_B: issue of its slot. -/
def execVfsubB (m : Mv) (s : State) : Host.Outcome State Fault Refusal :=
  issueTrigger m 0x0AB opVfsubB s

/-- VFMIN_B (R375). -/
def opVfminB : Op := va1Op [1] 1 (fun a _ v => f32MinMax false a v)
/-- VFMIN_B: issue of its slot. -/
def execVfminB (m : Mv) (s : State) : Host.Outcome State Fault Refusal :=
  issueTrigger m 0x0AC opVfminB s

/-- VFMAX_B (R375). -/
def opVfmaxB : Op := va1Op [1] 1 (fun a _ v => f32MinMax true a v)
/-- VFMAX_B: issue of its slot. -/
def execVfmaxB (m : Mv) (s : State) : Host.Outcome State Fault Refusal :=
  issueTrigger m 0x0AD opVfmaxB s

/-- VFABS_B (R375). -/
def opVfabsB : Op := va1Op [] 1 (fun _ _ v => quiet (v &&& 0x7FFFFFFF))
/-- VFABS_B: issue of its slot. -/
def execVfabsB (m : Mv) (s : State) : Host.Outcome State Fault Refusal :=
  issueTrigger m 0x0AE opVfabsB s

/-- VFNEG_B (R375). -/
def opVfnegB : Op := va1Op [] 1 (fun _ _ v => quiet (v ^^^ 0x80000000))
/-- VFNEG_B: issue of its slot. -/
def execVfnegB (m : Mv) (s : State) : Host.Outcome State Fault Refusal :=
  issueTrigger m 0x0AF opVfnegB s

/-! ## Compares of va0 -/

/-- VCMP_EQ (R376). -/
def opVcmpEq (p : BitVec 2) : Op := vectorCmp 0 p
/-- VCMP_EQ: issue of its slot. -/
def execVcmpEq (m : Mv) (p : BitVec 2) (s : State) : Host.Outcome State Fault Refusal :=
  issueTrigger m ((3 : BitVec 4) ++ (p ++ (0 : BitVec 4))) (opVcmpEq p) s

/-- VCMP_NE (R376). -/
def opVcmpNe (p : BitVec 2) : Op := vectorCmp 1 p
/-- VCMP_NE: issue of its slot. -/
def execVcmpNe (m : Mv) (p : BitVec 2) (s : State) : Host.Outcome State Fault Refusal :=
  issueTrigger m ((3 : BitVec 4) ++ (p ++ (1 : BitVec 4))) (opVcmpNe p) s

/-- VCMP_LT (R376). -/
def opVcmpLt (p : BitVec 2) : Op := vectorCmp 2 p
/-- VCMP_LT: issue of its slot. -/
def execVcmpLt (m : Mv) (p : BitVec 2) (s : State) : Host.Outcome State Fault Refusal :=
  issueTrigger m ((3 : BitVec 4) ++ (p ++ (2 : BitVec 4))) (opVcmpLt p) s

/-- VCMP_LE (R376). -/
def opVcmpLe (p : BitVec 2) : Op := vectorCmp 3 p
/-- VCMP_LE: issue of its slot. -/
def execVcmpLe (m : Mv) (p : BitVec 2) (s : State) : Host.Outcome State Fault Refusal :=
  issueTrigger m ((3 : BitVec 4) ++ (p ++ (3 : BitVec 4))) (opVcmpLe p) s

/-- VCMP_LTU (R376). -/
def opVcmpLtu (p : BitVec 2) : Op := vectorCmp 4 p
/-- VCMP_LTU: issue of its slot. -/
def execVcmpLtu (m : Mv) (p : BitVec 2) (s : State) : Host.Outcome State Fault Refusal :=
  issueTrigger m ((3 : BitVec 4) ++ (p ++ (4 : BitVec 4))) (opVcmpLtu p) s

/-- VCMP_LEU (R376). -/
def opVcmpLeu (p : BitVec 2) : Op := vectorCmp 5 p
/-- VCMP_LEU: issue of its slot. -/
def execVcmpLeu (m : Mv) (p : BitVec 2) (s : State) : Host.Outcome State Fault Refusal :=
  issueTrigger m ((3 : BitVec 4) ++ (p ++ (5 : BitVec 4))) (opVcmpLeu p) s

/-- VCMP_FEQ (R376). -/
def opVcmpFeq (p : BitVec 2) : Op := vectorCmp 6 p
/-- VCMP_FEQ: issue of its slot. -/
def execVcmpFeq (m : Mv) (p : BitVec 2) (s : State) : Host.Outcome State Fault Refusal :=
  issueTrigger m ((3 : BitVec 4) ++ (p ++ (6 : BitVec 4))) (opVcmpFeq p) s

/-- VCMP_FLT (R376). -/
def opVcmpFlt (p : BitVec 2) : Op := vectorCmp 7 p
/-- VCMP_FLT: issue of its slot. -/
def execVcmpFlt (m : Mv) (p : BitVec 2) (s : State) : Host.Outcome State Fault Refusal :=
  issueTrigger m ((3 : BitVec 4) ++ (p ++ (7 : BitVec 4))) (opVcmpFlt p) s

/-- VCMP_FLE (R376). -/
def opVcmpFle (p : BitVec 2) : Op := vectorCmp 8 p
/-- VCMP_FLE: issue of its slot. -/
def execVcmpFle (m : Mv) (p : BitVec 2) (s : State) : Host.Outcome State Fault Refusal :=
  issueTrigger m ((3 : BitVec 4) ++ (p ++ (8 : BitVec 4))) (opVcmpFle p) s

/-- VCMP_FUN (R376). -/
def opVcmpFun (p : BitVec 2) : Op := vectorCmp 9 p
/-- VCMP_FUN: issue of its slot. -/
def execVcmpFun (m : Mv) (p : BitVec 2) (s : State) : Host.Outcome State Fault Refusal :=
  issueTrigger m ((3 : BitVec 4) ++ (p ++ (9 : BitVec 4))) (opVcmpFun p) s

/-! ## vm -/

/-- VMUL (R377). -/
def opVmul : Op := vmOp [1] (fun a _ v => quiet (a * v))
/-- VMUL: issue of its slot. -/
def execVmul (m : Mv) (s : State) : Host.Outcome State Fault Refusal :=
  issueTrigger m 0x010 opVmul s

/-- VMULH (R377). -/
def opVmulh : Op := vmOp [1] (fun a _ v => quiet (BitVec.ofInt 32 (a.toInt * v.toInt / 2 ^ 32)))
/-- VMULH: issue of its slot. -/
def execVmulh (m : Mv) (s : State) : Host.Outcome State Fault Refusal :=
  issueTrigger m 0x011 opVmulh s

/-- VMULHU (R377). -/
def opVmulhu : Op := vmOp [1] (fun a _ v => quiet (BitVec.ofNat 32 (a.toNat * v.toNat / 2 ^ 32)))
/-- VMULHU: issue of its slot. -/
def execVmulhu (m : Mv) (s : State) : Host.Outcome State Fault Refusal :=
  issueTrigger m 0x012 opVmulhu s

/-- VMAD (R377). -/
def opVmad : Op := vmOp [1, 2] (fun a b v => quiet (a * b + v))
/-- VMAD: issue of its slot. -/
def execVmad (m : Mv) (s : State) : Host.Outcome State Fault Refusal :=
  issueTrigger m 0x013 opVmad s

/-- VFMUL (R377). -/
def opVfmul : Op := vmOp [1] (fun a _ v => f32Mul a v)
/-- VFMUL: issue of its slot. -/
def execVfmul (m : Mv) (s : State) : Host.Outcome State Fault Refusal :=
  issueTrigger m 0x014 opVfmul s

/-- VFFMA (R377). -/
def opVffma : Op := vmOp [1, 2] (fun a b v => f32Fma false false a b v)
/-- VFFMA: issue of its slot. -/
def execVffma (m : Mv) (s : State) : Host.Outcome State Fault Refusal :=
  issueTrigger m 0x015 opVffma s

/-- VFFMS (R377). -/
def opVffms : Op := vmOp [1, 2] (fun a b v => f32Fma false true a b v)
/-- VFFMS: issue of its slot. -/
def execVffms (m : Mv) (s : State) : Host.Outcome State Fault Refusal :=
  issueTrigger m 0x016 opVffms s

/-- VFNMA (R377). -/
def opVfnma : Op := vmOp [1, 2] (fun a b v => f32Fma true false a b v)
/-- VFNMA: issue of its slot. -/
def execVfnma (m : Mv) (s : State) : Host.Outcome State Fault Refusal :=
  issueTrigger m 0x017 opVfnma s

/-! ## vf -/

/-- VSIN (R381, R244). -/
def opVsin : Op := specialOp (f32Trig false)
/-- VSIN: issue of its slot. -/
def execVsin (m : Mv) (s : State) : Host.Outcome State Fault Refusal :=
  issueTrigger m 0x018 opVsin s

/-- VCOS (R381, R244). -/
def opVcos : Op := specialOp (f32Trig true)
/-- VCOS: issue of its slot. -/
def execVcos (m : Mv) (s : State) : Host.Outcome State Fault Refusal :=
  issueTrigger m 0x019 opVcos s

/-- VEXP2 (R381, R244). -/
def opVexp2 : Op := specialOp f32Exp2
/-- VEXP2: issue of its slot. -/
def execVexp2 (m : Mv) (s : State) : Host.Outcome State Fault Refusal :=
  issueTrigger m 0x01A opVexp2 s

/-- VLOG2 (R381, R244). -/
def opVlog2 : Op := specialOp f32Log2
/-- VLOG2: issue of its slot. -/
def execVlog2 (m : Mv) (s : State) : Host.Outcome State Fault Refusal :=
  issueTrigger m 0x01B opVlog2 s

/-- VRCP (R381, R244). -/
def opVrcp : Op := specialOp f32Rcp
/-- VRCP: issue of its slot. -/
def execVrcp (m : Mv) (s : State) : Host.Outcome State Fault Refusal :=
  issueTrigger m 0x01C opVrcp s

/-- VRSQRT (R381, R244). -/
def opVrsqrt : Op := specialOp f32Rsqrt
/-- VRSQRT: issue of its slot. -/
def execVrsqrt (m : Mv) (s : State) : Host.Outcome State Fault Refusal :=
  issueTrigger m 0x01D opVrsqrt s

/-- VSQRT (R381, R244). -/
def opVsqrt : Op := specialOp f32Sqrt
/-- VSQRT: issue of its slot. -/
def execVsqrt (m : Mv) (s : State) : Host.Outcome State Fault Refusal :=
  issueTrigger m 0x01E opVsqrt s

/-- VCVT_F32_I32 (R378). -/
def opVcvtF32I32 : Op := 
  vfOp [0x007] 4 (fun a l => asWord (fp32.round (vfRm a) false (FVal.ofInt (lane a.v l).toInt)))
/-- VCVT_F32_I32: issue of its slot. -/
def execVcvtF32I32 (m : Mv) (s : State) : Host.Outcome State Fault Refusal :=
  issueTrigger m 0x020 opVcvtF32I32 s

/-- VCVT_I32_F32 (R378). -/
def opVcvtI32F32 : Op := 
  vfOp [0x007] 4 (fun a l => let p := cvtInt 32 (vfRm a) (dec32 (lane a.v l)); (BitVec.ofInt 32 p.1, p.2))
/-- VCVT_I32_F32: issue of its slot. -/
def execVcvtI32F32 (m : Mv) (s : State) : Host.Outcome State Fault Refusal :=
  issueTrigger m 0x021 opVcvtI32F32 s

/-- VCVT_F32_BF16 (R378). -/
def opVcvtF32Bf16 : Op := widenOp bf16
/-- VCVT_F32_BF16: issue of its slot. -/
def execVcvtF32Bf16 (m : Mv) (s : State) : Host.Outcome State Fault Refusal :=
  issueTrigger m 0x022 opVcvtF32Bf16 s

/-- VCVT_BF16_F32 (R378). -/
def opVcvtBf16F32 : Op := narrowOp bf16
/-- VCVT_BF16_F32: issue of its slot. -/
def execVcvtBf16F32 (m : Mv) (s : State) : Host.Outcome State Fault Refusal :=
  issueTrigger m 0x023 opVcvtBf16F32 s

/-- VCVT_F32_F16 (R378). -/
def opVcvtF32F16 : Op := widenOp fp16
/-- VCVT_F32_F16: issue of its slot. -/
def execVcvtF32F16 (m : Mv) (s : State) : Host.Outcome State Fault Refusal :=
  issueTrigger m 0x024 opVcvtF32F16 s

/-- VCVT_F16_F32 (R378). -/
def opVcvtF16F32 : Op := narrowOp fp16
/-- VCVT_F16_F32: issue of its slot. -/
def execVcvtF16F32 (m : Mv) (s : State) : Host.Outcome State Fault Refusal :=
  issueTrigger m 0x025 opVcvtF16F32 s

/-- VCVT_F32_E4M3 (R378). -/
def opVcvtF32E4m3 : Op := widenOp e4m3
/-- VCVT_F32_E4M3: issue of its slot. -/
def execVcvtF32E4m3 (m : Mv) (s : State) : Host.Outcome State Fault Refusal :=
  issueTrigger m 0x026 opVcvtF32E4m3 s

/-- VCVT_E4M3_F32 (R378). -/
def opVcvtE4m3F32 : Op := narrowOp e4m3
/-- VCVT_E4M3_F32: issue of its slot. -/
def execVcvtE4m3F32 (m : Mv) (s : State) : Host.Outcome State Fault Refusal :=
  issueTrigger m 0x027 opVcvtE4m3F32 s

/-- VCVT_F32_E5M2 (R378). -/
def opVcvtF32E5m2 : Op := widenOp e5m2
/-- VCVT_F32_E5M2: issue of its slot. -/
def execVcvtF32E5m2 (m : Mv) (s : State) : Host.Outcome State Fault Refusal :=
  issueTrigger m 0x028 opVcvtF32E5m2 s

/-- VCVT_E5M2_F32 (R378). -/
def opVcvtE5m2F32 : Op := narrowOp e5m2
/-- VCVT_E5M2_F32: issue of its slot. -/
def execVcvtE5m2F32 (m : Mv) (s : State) : Host.Outcome State Fault Refusal :=
  issueTrigger m 0x029 opVcvtE5m2F32 s

/-- VCVT_F32_FP4 (R378). -/
def opVcvtF32Fp4 : Op := widenOp fp4
/-- VCVT_F32_FP4: issue of its slot. -/
def execVcvtF32Fp4 (m : Mv) (s : State) : Host.Outcome State Fault Refusal :=
  issueTrigger m 0x02A opVcvtF32Fp4 s

/-- VCVT_FP4_F32 (R378). -/
def opVcvtFp4F32 : Op := narrowOp fp4
/-- VCVT_FP4_F32: issue of its slot. -/
def execVcvtFp4F32 (m : Mv) (s : State) : Host.Outcome State Fault Refusal :=
  issueTrigger m 0x02B opVcvtFp4F32 s

/-- VDEC_OX4 (R379). -/
def opVdecOx4 : Op := 
  let blk (a : Arg) : Nat := bits a.fmtEntry.toNat 27 26
  let block (a : Arg) (l : Nat) : List FVal × Bool :=
    let n := 2 ^ blk a
    decodeOx4 (8 * n) 0 ((rangeFrom (l / n * n) n).flatMap (fun i => nibbles (lane a.v i)))
  { vfOp [0x007] 4 (fun a l =>
      let p := block a l
      let v := (p.1[8 * (l % 2 ^ blk a) + vfPos a]?).getD (.fin false 0 0)
      (BitVec.ofNat 32 (fp32.round .rne false v).1, flagIf p.2 flagMAL)) with
    fmtWait := Arg.fmtPending
    illegal := fun a => if blk a = 3 then some a.port else none }
/-- VDEC_OX4: issue of its slot. -/
def execVdecOx4 (m : Mv) (s : State) : Host.Outcome State Fault Refusal :=
  issueTrigger m 0x02C opVdecOx4 s

/-- VFSCALE (R380). -/
def opVfscale : Op := 
  vfOp [0x007] 4 (fun a l =>
    let w := (lane a.o1 l).toNat
    let (sc, _, nv) := decodeScale (w % 65536) (bits w 16 16 == 1)
    let (v, f) := rne32 ((dec32 (lane a.v l)).mul sc)
    (v, f ||| nv))
/-- VFSCALE: issue of its slot. -/
def execVfscale (m : Mv) (s : State) : Host.Outcome State Fault Refusal :=
  issueTrigger m 0x02D opVfscale s

/-! ## vl -/

/-- VLD (R383). -/
def opVld : Op := 
  { ports := vlPorts, needs := fun _ => [0x008, 0x00A], weight := 4, access := true
    dests := fun a => vloadDests a (vldAddrs a)
    lines := fun a => ownLines a (vldAddrs a)
    traps := fun a => if a.mask = 0 then none else addrCause a.pre a.lineAddr 64 false
    act := fun a s => vloadAct a (vldAddrs a) s }
/-- VLD: issue of its slot. -/
def execVld (m : Mv) (s : State) : Host.Outcome State Fault Refusal :=
  issueTrigger m 0x030 opVld s

/-- VST (R383). -/
def opVst : Op := 
  { ports := vlPorts, needs := fun _ => [0x008, 0x009], weight := 4, access := true
    traps := fun a =>
      if a.mask = 0 then none
      else match addrCause a.pre a.lineAddr 64 false with
        | some e => some e
        | none =>
          if (vldAddrs a).any (fun p => a.pre.tagged p.2) then some (causeBarStore, 6, a.lineAddr)
          else phaseOvf a.pre a.core a.lineAddr 64 a.tags
    stores := fun a => if a.mask ≠ 0 ∧ a.pre.phased a.lineAddr then [a.lineAddr / 64] else []
    lines := fun a => storeLines a (vldAddrs a)
    act := fun a s => (vldAddrs a).foldl (fun s p =>
      s.storePlain a.core a.ctx p.2 (leBytes (lane a.o2 p.1).toNat 4)) s }
/-- VST: issue of its slot. -/
def execVst (m : Mv) (s : State) : Host.Outcome State Fault Refusal :=
  issueTrigger m 0x031 opVst s

/-- VGLD (R384). -/
def opVgld : Op := 
  { ports := vlPorts, needs := fun _ => [0x008, 0x00A], weight := 4, access := true
    dests := fun a => vloadDests a (vgldAddrs a)
    lines := fun a => ownLines a (vgldAddrs a)
    traps := fun a => firstOf ((vgldAddrs a).map (fun p => addrCause a.pre p.2 4 false))
    act := fun a s => vloadAct a (vgldAddrs a) s }
/-- VGLD: issue of its slot. -/
def execVgld (m : Mv) (s : State) : Host.Outcome State Fault Refusal :=
  issueTrigger m 0x032 opVgld s

/-- VSCT (R384). -/
def opVsct : Op := 
  { ports := vlPorts, needs := fun _ => [0x008, 0x009], weight := 4, access := true
    traps := fun a => scatterCause a a.tags (lanesOf a.mask)
    lines := fun a => ownLines a (vgldAddrs a)
    stores := fun a => ((vgldAddrs a).filter (fun p => a.pre.phased p.2)).map (fun p => p.2 / 64)
    act := fun a s => (vgldAddrs a).foldl (fun s p =>
      s.storePlain a.core a.ctx p.2 (leBytes (lane a.o2 p.1).toNat 4)) s }
/-- VSCT: issue of its slot. -/
def execVsct (m : Mv) (s : State) : Host.Outcome State Fault Refusal :=
  issueTrigger m 0x033 opVsct s

/-! ## vx -/

/-- SHUF (R388). -/
def opShuf : Op := 
  { ports := vxPorts, weight := 3
    lacks := fun a => a.lacksVx a.shufSources
    act := fun a s =>
      let s := if a.shufSources.isEmpty then s
        else s.modCtx a.core a.ctx (fun cx => cx.consume a.sys (vxPorts.map (latchKey a.slot)))
      s.addLanes a 2 0x005 (fun l =>
        let e := a.shufByte l
        quiet (if 128 ≤ e then 0 else lane (a.vxLatch (e / 16)).val (e % 16))) }
/-- SHUF: issue of its slot. -/
def execShuf (m : Mv) (s : State) : Host.Outcome State Fault Refusal :=
  issueTrigger m 0x038 opShuf s

/-- SHUF_LD (R389). -/
def opShufLd : Op := 
  { ports := vxPorts, needs := fun _ => [0x00B], weight := 3
    act := fun a s => s.modCore a.core (fun k =>
      let base := (if k.shufBank then 0 else 8192) + 128 * ((lane a.o1 0).toNat % 64) + 16 * a.slot
      { k with
        shuffle := (lanesOf a.mask).foldl (fun t l =>
          tabSet 0 t (base + l) ((lane a.v l).extractLsb' 0 8)) k.shuffle
        shufSwap := k.shufSwap || (lane a.o1 0).getLsbD 8 }) }
/-- SHUF_LD: issue of its slot. -/
def execShufLd (m : Mv) (s : State) : Host.Outcome State Fault Refusal :=
  issueTrigger m 0x039 opShufLd s

/-- VREDADD (R390). -/
def opVredadd : Op := redOp 0
/-- VREDADD: issue of its slot. -/
def execVredadd (m : Mv) (s : State) : Host.Outcome State Fault Refusal :=
  issueTrigger m 0x03A opVredadd s

/-- VREDMIN (R390). -/
def opVredmin : Op := redOp 1
/-- VREDMIN: issue of its slot. -/
def execVredmin (m : Mv) (s : State) : Host.Outcome State Fault Refusal :=
  issueTrigger m 0x03B opVredmin s

/-- VREDMAX (R390). -/
def opVredmax : Op := redOp 2
/-- VREDMAX: issue of its slot. -/
def execVredmax (m : Mv) (s : State) : Host.Outcome State Fault Refusal :=
  issueTrigger m 0x03C opVredmax s

/-- VBCAST (R387). -/
def opVbcast : Op := 
  { ports := vxPorts, needs := fun _ => [0x00B], weight := 3
    act := fun a s => s.addLanes a 2 0x005 (fun _ => quiet (lane a.v ((lane a.o1 0).toNat % 16))) }
/-- VBCAST: issue of its slot. -/
def execVbcast (m : Mv) (s : State) : Host.Outcome State Fault Refusal :=
  issueTrigger m 0x03D opVbcast s

/-- XCL (R386). -/
def opXcl (j : BitVec 3) : Op := 
  { ports := vxPorts, weight := 3
    reads := fun a => [(vEmptyKey j.toNat ((lane a.v 0).toNat % 64), 0x040 + (lane a.v 0).toNat % 64)]
    act := fun a s =>
      let v := a.cx.readV j.toNat ((lane a.v 0).toNat % 64)
      s.addLanes a 2 0x005 (fun l => quiet (lane v l)) }
/-- XCL: issue of its slot. -/
def execXcl (m : Mv) (j : BitVec 3) (s : State) : Host.Outcome State Fault Refusal :=
  issueTrigger m ((0x16 : BitVec 7) ++ j) (opXcl j) s

end Sys2Proof.Machine
end

