-- ==== Sys2Proof/Machine/Tasks.lean ====
section
/-!
DEFINITION. Tasks: the TOPB as it is laid out (Table 6.10), its check (R25), gang sizes (R29), locality bins (R26)
and posting; the checks of the loop table (R190).
-/

namespace Sys2Proof.Machine

/-! ## TOPB (Table 6.10) -/

def topbWord (b : List Byte) (o : Nat) : Nat := fieldAt b o 8
def topbM (b : List Byte) : Nat := bits (topbWord b 0) 42 32
def topbN (b : List Byte) : Nat := bits (topbWord b 0) 54 44
def topbFmtLv (b : List Byte) : Nat := bits (topbWord b 0) 19 16
def topbFmtIx (b : List Byte) : Nat := bits (topbWord b 0) 15 12
def topbStage (b : List Byte) : Nat := bits (topbWord b 0) 11 8
/-- Loop word of level n. -/
def topbLevel (b : List Byte) (n : Nat) : Nat := topbWord b (0x10 + 8 * n)
def levelBound (w : Nat) : Nat := bits w 31 0
def levelMark (w : Nat) : Nat := bits w 33 32
def levelStep (w : Nat) : Bool := bits w 34 34 == 1
/-- ADDR of operand 0. -/
def topbAddr0 (b : List Byte) : Nat := topbWord b 0x48

/-- The six levels, outermost first. -/
def levelIx : List Nat := [0, 1, 2, 3, 4, 5]

/-- A level's loop word is spatial over dies, spatial over cores, or stepped in time (Table 1.9). -/
def isDies (w : Nat) : Bool := levelMark w == 2
def isCores (w : Nat) : Bool := levelMark w == 1
def isStepped (w : Nat) : Bool := levelMark w == 0 && levelStep w

/-- The default template (R27): M = N = K = 1, FMTLV 0xF, every BOUND 1. -/
def defaultTopb : List Byte :=
  leBytes (2 ^ 44 + 2 ^ 32 + 0xF0000) 8 ++ leBytes 1 8 ++ levelIx.flatMap (fun _ => leBytes 1 8)
    ++ leBytes 0 192

/-- The check of R25: every bound from 1, at most one DIES level and of bound 1 or 2, M and N from 1 to 1,024, every
mark known. -/
def topbOk (b : List Byte) : Bool :=
  let ws := levelIx.map (topbLevel b)
  ws.all (fun w => levelBound w != 0 && levelMark w != 3 && (!isDies w || levelBound w ≤ 2))
    && (ws.filter isDies).length ≤ 1
    && 1 ≤ topbM b && topbM b ≤ 1024 && 1 ≤ topbN b && topbN b ≤ 1024

/-- Rows and columns of the MAS split (R29). -/
def splitRows (b : List Byte) : Nat := (topbM b + 255) / 256
def splitCols (b : List Byte) : Nat := (topbN b + 255) / 256

/-- Gang size per die (R29). -/
def groupSize (b : List Byte) : Nat :=
  splitRows b * splitCols b *
    ((levelIx.map (topbLevel b)).filter isCores).foldl (fun n w => n * levelBound w) 1

/-- Bound of the DIES level, or 1. -/
def diesBound (b : List Byte) : Nat :=
  ((levelIx.map (topbLevel b)).filter isDies).foldl (fun n w => n * levelBound w) 1

/-- The task has a DIES level. -/
def hasDies (b : List Byte) : Bool := (levelIx.map (topbLevel b)).any isDies

/-- Gang size of the task (R29). -/
def gangSize (b : List Byte) : Nat := groupSize b * diesBound b

/-- Locality bin of an address: bits 47:21 XOR-folded into 6 bits (R26). -/
def binOf (addr : Nat) : Nat :=
  (bits addr 26 21) ^^^ (bits addr 32 27) ^^^ (bits addr 38 33) ^^^ (bits addr 44 39) ^^^ (bits addr 47 45)

/-! ## Stages -/

/-- The stage exists and has no input queue (R21). -/
def State.sourceStage (s : State) (st : Nat) : Bool :=
  st < s.kernel.nstage && (tabGet {} s.kernel.stages st).inq.all (·.isNone)

/-- Die of a queue index. -/
def State.queueDieOf (s : State) (qi : Nat) : Nat := queueDie (tabGet {} s.queues qi)

/-- Dies on which the tile steps of a task without a DIES level may run (R173): that of INQ0, or either. -/
def State.stageDies (s : State) (st : Nat) : List Nat :=
  match firstOf ((tabGet {} s.kernel.stages st).inq) with
  | some qi => [s.queueDieOf qi]
  | none => [0, 1]

/-- Cores of a die in service. -/
def State.coresOf (s : State) (die : Nat) : List Nat :=
  (rangeFrom (64 * die) 64).filter (fun c => (s.core c).inService)

/-- Some group of the task's gang needs more cores than its die has in service (R36). -/
def State.nofit (s : State) (b : List Byte) (st : Nat) : Bool :=
  let need := groupSize b
  let short (d : Nat) : Bool := (s.coresOf d).length < need
  if gangSize b ≤ 1 then false
  else if hasDies b then (rangeFrom 0 (diesBound b)).any short
  else (s.stageDies st).all short

/-- Tasks BINNED (R155, R340). -/
def State.binnedCount (s : State) : Nat := (s.tasks.filter (fun t => t.state == .binned)).length

/-- Changes a task. -/
def State.modTask (s : State) (i : Nat) (f : Task → Task) : State :=
  { s with tasks := s.tasks.map (fun t => if t.id == i then f t else t) }

/-- Fails a task for a kernel error that has a record but no context (R20, R36). -/
def State.failTask (s : State) (i : Nat) (cause : BitVec 8) : State :=
  let s := s.modTask i (fun t => { t with state := .failed })
  let s := s.sendRecord { dhseq := 0, kind := 0x02, code := cause }
  s.kernelError

/-- A task is posted and binned (R24-R26, R36): one whose gang fits no die, or whose check fails, is FAILED. -/
def State.postTask (s : State) (b : List Byte) (st : Nat) (va : Dword) (origin : Option Origin)
    (bound : Option (List Byte × BitVec 16 × List (Nat × Nat))) : State :=
  let i := s.nextId
  let bin := binOf (topbAddr0 b)
  let t : Task := { id := i, topb := b, stage := st, topbVa := va, origin := origin, state := .posted, bin := bin
                    bound := bound, order := 0, released := 0, lastCore := none, answered := false }
  let s := { s with nextId := i + 1, tasks := s.tasks ++ [t] }
  if !topbOk b then s.failTask i causeLoopNest
  else if s.nofit b st then s.failTask i causeGangNofit
  else
    let s := s.modTask i (fun t => { t with state := .binned })
    { s with bins := tabSet [] s.bins bin (tabGet [] s.bins bin ++ [i]) }

/-! ## The loop table (R190) -/

/-- Fields of a loop-table entry (Table 6.6). -/
def loopStart (w : Nat) : Nat := bits w 50 38
def loopLast (w : Nat) : Nat := bits w 63 51
def loopLb (w : Nat) : Bool := bits w 37 37 == 1

/-- A level is active (R329): TEMPORAL with STEP 0 and END not 0. -/
def loopActive (w : Nat) : Bool := bits w 36 34 == 0 && loopLast w != 0

/-- An active level is well formed (R190). -/
def State.loopFormed (s : State) (c w : Nat) : Bool :=
  loopStart w ≤ loopLast w && loopLast w < s.kernel.nbund
    && (rangeFrom (loopStart w) (loopLast w + 1 - loopStart w)).all (fun i => tabGet false (s.core c).untagged i)
    && (!loopLb w || loopLast w - loopStart w < 64)

/-- The active levels of a table are well formed and nest (R190). -/
def State.loopsOk (s : State) (c : Nat) (t : Tab (BitVec 128)) : Bool :=
  let ws := levelIx.map (fun n => (tabGet 0 t n).toNat)
  let act := ws.filter loopActive
  let rec nest : List Nat → Bool
    | [] => true
    | a :: r => r.all (fun b => loopStart a ≤ loopStart b && loopLast b ≤ loopLast a) && nest r
  act.all (s.loopFormed c) && nest act

/-- The check of a loop operation that leaves `w` at level n (R331). -/
def State.loopOpOk (s : State) (c x n : Nat) (w : BitVec 128) : Bool :=
  let cx := s.ctx c x
  n ≤ 5 && bits (tabGet 0 cx.loops n).toNat 36 34 == 0 && bits w.toNat 31 0 != 0
    && s.loopsOk c (tabSet 0 cx.loops n w)

end Sys2Proof.Machine
end

