-- ==== Sys2Proof/Machine/Control.lean ====
section
/-!
DEFINITION. Meanings of plain slots (11: R289-R294, R436, R437) and of the control operations (13): branches, loops,
waits, yields and halts, traps and return, phases and fences, tasks, control and status registers, the timer.
-/

namespace Sys2Proof.Machine

/-! ## Slots without a trigger -/

/-- NOP (R289): a bundle whose slot holds nothing. -/
def execNop (_ : BitVec 3) (_ _ : Bool) (s : State) : Host.Outcome State Fault Refusal :=
  issueOne .nop s

/-- IMMEDIATE_CARRIER (R293). -/
def execImmediateCarrier (i : BitVec 21) (s : State) : Host.Outcome State Fault Refusal :=
  issueOne (.carrier i) s

/-- DISCARD_MOVE (R289): the source is read, a queue it names is popped, and nothing is written. -/
def execDiscardMove (m : Mv) (s : State) : Host.Outcome State Fault Refusal :=
  issueOne (.move m 0) s

/-- MOVE (R292). -/
def execMove (m : Mv) (d : BitVec 10) (s : State) : Host.Outcome State Fault Refusal :=
  issueOne (.move m d) s

/-- QUEUE_PUSH (R436). -/
def execQueuePush (m : Mv) (k : BitVec 2) (s : State) : Host.Outcome State Fault Refusal :=
  issueOne (.push m ((0x3E : BitVec 8) ++ k) k.toNat) s

/-- QUEUE_PUSH_SHARED (R436). -/
def execQueuePushShared (m : Mv) (k : BitVec 2) (s : State) : Host.Outcome State Fault Refusal :=
  issueOne (.push m ((0x94 : BitVec 8) ++ k) k.toNat) s

/-- QUEUE_POP (R437). -/
def execQueuePop (g : BitVec 3) (e h : Bool) (k : BitVec 2) (d : BitVec 10) (s : State) :
    Host.Outcome State Fault Refusal :=
  issueOne (.move { g := g, e := e, h := h, s := (0x20 : BitVec 7) ++ k } d) s

/-- QUEUE_POP_SHARED (R437). -/
def execQueuePopShared (g : BitVec 3) (e h : Bool) (k : BitVec 2) (d : BitVec 10) (s : State) :
    Host.Outcome State Fault Refusal :=
  issueOne (.move { g := g, e := e, h := h, s := (0x54 : BitVec 7) ++ k } d) s

/-- QUEUE_PEEK (R437). -/
def execQueuePeek (g : BitVec 3) (e h : Bool) (k : BitVec 2) (d : BitVec 10) (s : State) :
    Host.Outcome State Fault Refusal :=
  issueOne (.move { g := g, e := e, h := h, s := (0x21 : BitVec 7) ++ k } d) s

/-- QUEUE_PEEK_SHARED (R437). -/
def execQueuePeekShared (g : BitVec 3) (e h : Bool) (k : BitVec 2) (d : BitVec 10) (s : State) :
    Host.Outcome State Fault Refusal :=
  issueOne (.move { g := g, e := e, h := h, s := (0x55 : BitVec 7) ++ k } d) s

/-! ## Branches (R328) -/

/-- Program counter of the bundle. -/
def Arg.pc (a : Arg) : BitVec 13 := (a.cx.plane a.sys).pc

/-- A branch to a target of the moved value. -/
def brOp (target : Arg → BitVec 13) : Op := { weight := 2, branch := fun a => some (target a) }

/-! ## Loops (R331, R332) -/

/-- Operand ports of lp. -/
def lpPorts : List Nat := [0x308, 0x309, 0x30A]

/-- A loop operation: it leaves `word` at its level, and a counter of 0 where `zero` says so. -/
def loopOp (needs : List Nat) (level : Arg → Nat) (bad : Arg → Bool) (word : Arg → Nat → Nat) (zero : Bool) : Op :=
  let entry (a : Arg) : BitVec 128 := BitVec.ofNat 128 (word a (tabGet 0 a.cx.loops (level a)).toNat)
  { ports := lpPorts, needs := fun _ => needs, weight := 2, userOnly := true
    traps := fun a =>
      if bad a || !a.pre.loopOpOk a.core a.ctx (level a) (entry a) then some (causeLoopNest, 0, a.port) else none
    fin := fun a s => s.modCtx a.core a.ctx (fun cx =>
      ({ cx with
        loops := tabSet 0 cx.loops (level a) (entry a)
        loopctr := if zero then tabSet 0 cx.loopctr (level a) 0 else cx.loopctr }).dirty 33) }

/-- A loop word with BOUND replaced. -/
def withBound (w b : Nat) : Nat := w / 2 ^ 32 * 2 ^ 32 + b % 2 ^ 32

/-- A loop word with START, END and LB replaced. -/
def withBody (w first last : Nat) (lb : Bool) : Nat :=
  w / 2 ^ 64 * 2 ^ 64 + last % 2 ^ 13 * 2 ^ 51 + first % 2 ^ 13 * 2 ^ 38 + (if lb then 2 ^ 37 else 0) + w % 2 ^ 37

/-- A loop word with the increments replaced: increment words A and B. -/
def withIncs (w a b : Nat) : Nat := a % 2 ^ 32 * 2 ^ 96 + b % 2 ^ 32 * 2 ^ 64 + w % 2 ^ 64

/-! ## Waits (R333) -/

/-- Operand ports of sy. -/
def syPorts : List Nat := [0x310, 0x311]

/-- ID a lies below t (R211). -/
def idBelow (a t : Word) : Bool := 1 ≤ (t - a).toNat && (t - a).toNat ≤ 2 ^ 31 - 1

/-- PH of the barrier word at an address. -/
def State.barPh (s : State) (addr : Nat) : Bool := bits (leNat (s.sRead addr 8)) 31 31 == 1

/-- Fields of a `wait` control value (Table 13.3). -/
def waitKind (v : Dword) : Nat := v.toNat % 16
def waitCh (v : Dword) : Nat := bits v.toNat 6 4
def waitPh (v : Dword) : Bool := v.getLsbD 8
def waitScope (v : Dword) : Nat := bits v.toNat 14 12

/-- What a `wait` on these operands blocks on. -/
def waitBlock (v x : Dword) : Block :=
  match waitKind v with
  | 0 => .waitCycle x
  | 1 => .waitTdone (waitCh v) (x.extractLsb' 0 32)
  | _ => .waitBarrier x.toNat (waitPh v)

/-- The condition of a `wait` holds. -/
def State.waitHolds (s : State) (c : Nat) (b : Block) : Bool :=
  match b with
  | .waitCycle t => t.toNat ≤ s.cycle.toNat
  | .waitTdone ch i => idBelow i (tabGet 0 (s.core c).tdone ch)
  | .waitBarrier a ph => s.barPh a == ph
  | _ => true

/-- `wait` (R333), one meaning for its three kinds, told apart by the moved value. -/
def waitOp : Op :=
  { ports := syPorts, needs := fun _ => [0x310], weight := 2
    illegal := fun a =>
      if 3 ≤ waitKind a.val || (waitKind a.val == 2 && 4 < waitScope a.val) then some a.port else none
    traps := fun a => if waitKind a.val == 2 then addrCause a.pre a.x1.toNat 8 true else none
    gate := fun a =>
      let b := waitBlock a.val a.x1
      if waitKind a.val == 2 && (a.cx.acquiring || a.cx.lateAt a.x1.toNat 8) then .stall
      else if a.pre.waitHolds a.core b then .go else .block b
    act := fun a s => if waitKind a.val == 2 then s.consume a.core a.ctx a.x1.toNat 8 else s }

/-! ## Control and status registers (R66, R343) -/

/-- Bits of a register cleared by a W1C write. -/
def w1c {w : Nat} (old : BitVec w) (v : Dword) : BitVec w := old &&& ~~~ (v.extractLsb' 0 w)

/-- A write of a control and status register, field by field; a register that only system mode writes keeps its value
under a user write (Table 0.2). -/
def State.csrWrite (s : State) (c x n : Nat) (sys : Bool) (v : Dword) : State :=
  let w : Word := v.extractLsb' 0 32
  let ctx (f : Ctx → Ctx) : State := s.modCtx c x f
  let core (f : Core → Core) : State := s.modCore c f
  if n == 0x018 then ctx (fun cx => { cx with acflags := w1c cx.acflags v })
  else if n == 0x026 then
    ctx (fun cx =>
      if 6 ≤ v.toNat % 16 && v.toNat % 16 ≤ 0xE then cx
      else ({ cx with fmtFix := v.extractLsb' 8 4, fmtLevel := v.extractLsb' 0 4 }).dirty 34)
  else if n == 0x050 then ctx (fun cx => { cx with qmode := v.extractLsb' 0 15 })
  else if n == 0x058 then ctx (fun cx => { cx with strStream := v.extractLsb' 16 5, strDest := v.extractLsb' 0 11 })
  else if !sys then s
  else if n == 0x00B then core (fun k => { k with frzcnt := v })
  else if n == 0x00C then core (fun k => { k with pwrlim := v.extractLsb' 0 16 })
  else if n == 0x010 then ctx (fun cx => { cx with trapCause := v.extractLsb' 0 8 })
  else if n == 0x011 then ctx (fun cx => { cx with trapPc := v.extractLsb' 0 13 })
  else if n == 0x012 then ctx (fun cx => { cx with trapInfo := v })
  else if 0x020 ≤ n && n ≤ 0x025 then
    ctx (fun cx => ({ cx with loopctr := tabSet 0 cx.loopctr (n - 0x020) w }).dirty 33)
  else if 0x040 ≤ n && n ≤ 0x04E then ctx (fun cx => { cx with qstall := tabSet 0 cx.qstall (n - 0x040) w })
  else if n == 0x068 then ctx (fun cx => { cx with dirtymap := w1c cx.dirtymap v })
  else if n == 0x070 then
    core (fun k => { k with perfFrz := v.getLsbD 16, perfHen := v.getLsbD 8, perfEn := v.extractLsb' 0 4 })
  else if n == 0x071 then core (fun k => { k with perfSel := w })
  else if 0x072 ≤ n && n ≤ 0x075 then
    core (fun k => { k with
      pmc := tabSet 0 k.pmc (n - 0x072) v, pmcSet := k.pmcSet ||| (1 <<< (n - 0x072)) })
  else if n == 0x078 then core (fun k => { k with hcapsel := w })
  else if (0x079 ≤ n && n ≤ 0x07A) || (0x080 ≤ n && n ≤ 0x09F) then
    core (fun k => { k with capW1c := k.capW1c ++ [(n, w)] })
  else s

/-- PRIV of a CSR access: the CSR number (R66). -/
def csrPriv (a : Arg) : Option Nat :=
  let n := a.val.toNat % 1024
  if !a.sys && csrSystemOnly n then some n else none

/-- SLOT.ILLEGAL of a CSR access: a number Table 2.4 does not list (R66). -/
def csrIllegal (a : Arg) : Option Nat :=
  let n := a.val.toNat % 1024
  if (a.pre.csr a.core a.ctx n).isNone then some n else none

/-- A result of sy in sy.res. -/
def State.syResult (s : State) (a : Arg) (L : Nat) (v : Dword) : State :=
  s.addRecord a L (.latch 0x14C) (ofDword v) 0xFFFF 0

/-! ## Tasks (R340) -/

/-- What a `task.post` reads. -/
def postRanges (va : Dword) : List (Nat × Nat) := if va.toNat % 256 = 0 then [(va.toNat, 256)] else []

/-- The status of a `task.post` of a context (Table 13.4), and the TOPB where it could be read. -/
def State.postStatus (s : State) (c x : Nat) (va : Dword) : Nat × Option (List Byte) :=
  let topb := if va.toNat % 256 = 0 then s.vReadFor (some (c, x)) va.toNat 256 else none
  match topb with
  | none => (1, none)
  | some b =>
    let st := topbStage b
    if !s.sourceStage st then (2, some b)
    else if (tabGet {} s.kernel.stages st).state != .opened || s.kernel.state != .running then (3, some b)
    else if 4096 ≤ s.binnedCount then (4, some b)
    else (0, some b)

/-! ## br -/

/-- JMP (R328). -/
def opJmp : Op := brOp (fun a => a.val.extractLsb' 0 13)
/-- JMP: issue of its slot. -/
def execJmp (m : Mv) (s : State) : Host.Outcome State Fault Refusal :=
  issueTrigger m 0x301 opJmp s

/-- JMP_R (R328). -/
def opJmpR : Op := brOp (fun a => a.pc + a.val.extractLsb' 0 13)
/-- JMP_R: issue of its slot. -/
def execJmpR (m : Mv) (s : State) : Host.Outcome State Fault Refusal :=
  issueTrigger m 0x302 opJmpR s

/-- CALL (R328). -/
def opCall : Op :=
  { brOp (fun a => a.val.extractLsb' 0 13) with
    act := fun a s => s.addRecord a 1 (.latch 0x14B) (ofDword ((a.pc + 1).zeroExtend 64)) 0xFFFF 0 }
/-- CALL: issue of its slot. -/
def execCall (m : Mv) (s : State) : Host.Outcome State Fault Refusal :=
  issueTrigger m 0x303 opCall s

/-! ## lp -/

/-- LOOP_SET (R331). -/
def opLoopSet : Op :=
  loopOp [0x308] (fun a => a.val.toNat % 8) (fun _ => false) (fun a w => withBound w (a.x1.toNat % 2 ^ 32)) true
/-- LOOP_SET: issue of its slot. -/
def execLoopSet (m : Mv) (s : State) : Host.Outcome State Fault Refusal :=
  issueTrigger m 0x30B opLoopSet s

/-- LOOP_BODY (R331). -/
def opLoopBody : Op :=
  loopOp [0x308, 0x309, 0x30A] (fun a => a.val.toNat % 8) (fun _ => false)
    (fun a w => withIncs (withBody w (bits a.x1.toNat 12 0) (bits a.x1.toNat 25 13) (a.x1.getLsbD 26))
      a.x2.toNat a.x3.toNat) false
/-- LOOP_BODY: issue of its slot. -/
def execLoopBody (m : Mv) (s : State) : Host.Outcome State Fault Refusal :=
  issueTrigger m 0x30C opLoopBody s

/-- REPEAT (R332). -/
def opRepeatOp : Op :=
  loopOp [0x308] (fun a => a.x1.toNat % 8) (fun a => bits a.x1.toNat 13 8 == 0)
    (fun a w => withBound (withBody w (a.pc.toNat + 1) (a.pc.toNat + bits a.x1.toNat 13 8) true) a.val.toNat) true
/-- REPEAT: issue of its slot. -/
def execRepeatOp (m : Mv) (s : State) : Host.Outcome State Fault Refusal :=
  issueTrigger m 0x30D opRepeatOp s

/-! ## sy -/

/-- WAIT_CYCLE (R333, KIND 0). -/
def opWaitCycle : Op := waitOp
/-- WAIT_CYCLE: issue of its slot. -/
def execWaitCycle (m : Mv) (s : State) : Host.Outcome State Fault Refusal :=
  issueTrigger m 0x312 opWaitCycle s

/-- WAIT_TDONE (R333, KIND 1). -/
def opWaitTdone : Op := waitOp
/-- WAIT_TDONE: issue of its slot. -/
def execWaitTdone (m : Mv) (s : State) : Host.Outcome State Fault Refusal :=
  issueTrigger m 0x312 opWaitTdone s

/-- WAIT_BARRIER (R333, KIND 2). -/
def opWaitBarrier : Op := waitOp
/-- WAIT_BARRIER: issue of its slot. -/
def execWaitBarrier (m : Mv) (s : State) : Host.Outcome State Fault Refusal :=
  issueTrigger m 0x312 opWaitBarrier s

/-- YIELD (R334). -/
def opYield : Op :=
  { weight := 2
    fin := fun a s => s.modCtx a.core a.ctx (fun cx => { cx with
      state := if cx.state == .dead then .dead else .ready, seatedNow := false, readySince := s.cycle }) }
/-- YIELD: issue of its slot. (DEDUCED, log 21.) -/
def execYield (m : Mv) (s : State) : Host.Outcome State Fault Refusal :=
  issueTrigger m 0x313 opYield s

/-- HALT (R335). -/
def opHalt : Op :=
  { weight := 2
    fin := fun a s =>
      if a.sys then
        let s := s.modCtx a.core a.ctx (fun cx => { cx with sysHalted := true, seatedNow := false })
        s.sendRecord { causeRecord causeFwErr a.core a.ctx a.pc with aux := causeBreak }
      else
        let s := s.blockCtx a.core a.ctx .halt
        let s := s.modCtx a.core a.ctx (fun cx => { cx with userHalted := true })
        s.sendRecord (causeRecord causeBreak a.core a.ctx (s.ctx a.core a.ctx).user.pc) }
/-- HALT: issue of its slot. (DEDUCED, log 21.) -/
def execHalt (m : Mv) (s : State) : Host.Outcome State Fault Refusal :=
  issueTrigger m 0x314 opHalt s

/-- TRAP (R336). -/
def opTrapOp : Op :=
  { weight := 2, raises := fun a => some (causeTrap, a.val.toNat % 256) }
/-- TRAP: issue of its slot. -/
def execTrapOp (m : Mv) (s : State) : Host.Outcome State Fault Refusal :=
  issueTrigger m 0x315 opTrapOp s

/-- BREAK (R336). -/
def opBreakOp : Op :=
  { weight := 2, raises := fun a => some (causeBreak, a.val.toNat % 256) }
/-- BREAK: issue of its slot. -/
def execBreakOp (m : Mv) (s : State) : Host.Outcome State Fault Refusal :=
  issueTrigger m 0x316 opBreakOp s

/-- ERET (R337). -/
def opEret : Op :=
  { weight := 2, sysOnly := true
    gate := fun a => if a.cx.sys.due.isEmpty then .go else .drain
    fin := fun a s => s.modCtx a.core a.ctx Ctx.returnFromTrap }
/-- ERET: issue of its slot. -/
def execEret (m : Mv) (s : State) : Host.Outcome State Fault Refusal :=
  issueTrigger m 0x317 opEret s

/-- PHASE (R338, R122). -/
def opPhase : Op :=
  { weight := 2, userOnly := true
    fin := fun a s => s.blockCtx a.core a.ctx .phase }
/-- PHASE: issue of its slot. (DEDUCED, log 21.) -/
def execPhase (m : Mv) (s : State) : Host.Outcome State Fault Refusal :=
  issueTrigger m 0x318 opPhase s

/-- FENCE (R339). -/
def opFence : Op :=
  { weight := 2
    illegal := fun a => if 4 < a.val.toNat % 8 then some a.port else none
    act := fun a s => s.beginRelease a.core a.ctx (a.val.toNat % 8) .nothing }
/-- FENCE: issue of its slot. -/
def execFence (m : Mv) (s : State) : Host.Outcome State Fault Refusal :=
  issueTrigger m 0x319 opFence s

/-- FENCE_Q (R339, R137). -/
def opFenceQ : Op :=
  { weight := 2
    act := fun a s =>
      let m : BitVec 15 := a.val.extractLsb' 0 15
      if m = 0 then s
      else
        let i := s.nextId
        ({ s with nextId := i + 1 } : State).modCtx a.core a.ctx (fun cx => { cx with
          fences := cx.fences ++ [{ serial := i, mask := m }] }) }
/-- FENCE_Q: issue of its slot. -/
def execFenceQ (m : Mv) (s : State) : Host.Outcome State Fault Refusal :=
  issueTrigger m 0x31A opFenceQ s

/-- FENCE_ST (R339, R145). -/
def opFenceSt : Op :=
  { weight := 2
    act := fun a s =>
      let m : BitVec 32 := a.val.extractLsb' 0 32
      if m = 0 then s
      else s.modCtx a.core a.ctx (fun cx => { cx with completing := cx.completing ++ [.fenceSt m s.nextId] }) }
/-- FENCE_ST: issue of its slot. -/
def execFenceSt (m : Mv) (s : State) : Host.Outcome State Fault Refusal :=
  issueTrigger m 0x31B opFenceSt s

/-- TASK_POST (R340): a TOPB in a host window is read by RDMA READ while the bundle is held (R263). -/
def opTaskPost : Op :=
  { weight := 2
    traps := fun a =>
      match (a.pre.postStatus a.core a.ctx a.val).2 with
      | some b =>
        if topbOk b || !a.pre.canRead (some (a.core, a.ctx)) (postRanges a.val) then none else some (causeLoopNest, 0, a.port)
      | none => none
    gate := fun a =>
      if a.pre.canRead (some (a.core, a.ctx)) (postRanges a.val) then .go
      else .start (fun s => s.fetchHost (some (a.core, a.ctx)) (.post a.core a.ctx) (postRanges a.val))
    act := fun a s =>
      let st := a.pre.postStatus a.core a.ctx a.val
      let s := (s.dropHostData (some (a.core, a.ctx)) (postRanges a.val)).syResult a 2 (BitVec.ofNat 64 st.1)
      match st with
      | (0, some b) => (s.postTask b (topbStage b) a.val none none).markEffect a.core a.ctx
      | _ => s }
/-- TASK_POST: issue of its slot. -/
def execTaskPost (m : Mv) (s : State) : Host.Outcome State Fault Refusal :=
  issueTrigger m 0x31C opTaskPost s

/-- TASK_DONE (R341, R64). -/
def opTaskDone : Op :=
  { weight := 2, userOnly := true
    gate := fun a => if a.cx.quiet then .go else .drain
    fin := fun a s => s.modCtx a.core a.ctx (fun cx => { cx with
      doneIssued := true, completing := cx.completing.filter (· != .taskDone) }) }
/-- TASK_DONE: issue of its slot. -/
def execTaskDone (m : Mv) (s : State) : Host.Outcome State Fault Refusal :=
  issueTrigger m 0x31D opTaskDone s

/-- CSR_RD (R343). -/
def opCsrRd : Op :=
  { weight := 2, priv := csrPriv, illegal := csrIllegal
    act := fun a s => s.syResult a 1 ((a.pre.csr a.core a.ctx (a.val.toNat % 1024)).getD 0)
    fin := fun a s =>
      if a.val.toNat % 1024 == 0x061 then
        s.modCore a.core (fun k => { k with occPeak := BitVec.ofNat 14 k.occ })
      else s }
/-- CSR_RD: issue of its slot. -/
def execCsrRd (m : Mv) (s : State) : Host.Outcome State Fault Refusal :=
  issueTrigger m 0x31E opCsrRd s

/-- CSR_WR (R343). -/
def opCsrWr : Op :=
  { ports := syPorts, needs := fun _ => [0x310], weight := 2, priv := csrPriv, illegal := csrIllegal
    fin := fun a s => s.csrWrite a.core a.ctx (a.val.toNat % 1024) a.sys a.x1 }
/-- CSR_WR: issue of its slot. -/
def execCsrWr (m : Mv) (s : State) : Host.Outcome State Fault Refusal :=
  issueTrigger m 0x31F opCsrWr s

/-- CODE_MARK (R342). -/
def opCodeMark : Op :=
  { weight := 2, userOnly := true, act := fun a s => s.markEffect a.core a.ctx }
/-- CODE_MARK: issue of its slot. -/
def execCodeMark (m : Mv) (s : State) : Host.Outcome State Fault Refusal :=
  issueTrigger m 0x320 opCodeMark s

/-- TIMER (R344). -/
def opTimer : Op :=
  { weight := 2
    act := fun a s => s.modCtx a.core a.ctx (fun cx => { cx with
      timer := if a.val = 0 then none else some a.val }) }
/-- TIMER: issue of its slot. -/
def execTimer (m : Mv) (s : State) : Host.Outcome State Fault Refusal :=
  issueTrigger m 0x321 opTimer s

end Sys2Proof.Machine
end

