-- ==== Sys2Proof/Machine/Port.lean ====
section
/-!
DEFINITION. The port of the device to the fabric (R115, R268, R269, R275, R280): routes, remote operations on their
way out, and how a remote operation fails; engine command queues (R135, R137, R157) and completion (R138, R420).
-/

namespace Sys2Proof.Machine

/-! ## Segment operations (Table 10.4) -/

def opWrite : BitVec 8 := 0x01
def opReduce : BitVec 8 := 0x02
def opAtomic : BitVec 8 := 0x03
def opReadReq : BitVec 8 := 0x04
def opReadData : BitVec 8 := 0x05
def opAck : BitVec 8 := 0x06
def opRefusal : BitVec 8 := 0x07
def opCollective : BitVec 8 := 0x08
/-- ROP of a write that is a channel element or a channel credit, and of a collective contribution that is a setup
contribution (DESIGN CHOICE, log 25: Table 10.4 names no field that tells them apart). -/
def ropElement : BitVec 8 := 0x01
def ropCredit : BitVec 8 := 0x02
def ropSetup : BitVec 8 := 0x01
/-- ROP bit of a flit whose data are poisoned (R100), and ROP of a response that says the operation failed (R104, R112)
(DESIGN CHOICE, log 25: Table 10.4 names no field for either). -/
def ropPoison : BitVec 8 := 0x80
def ropFailed : BitVec 8 := 0xFF

/-- A channel element. -/
def RemoteOp.isElement (q : RemoteOp) : Bool :=
  q.op == opWrite && q.stream == 0 && q.rop == ropElement

/-! ## Routes (R268, R269) -/

/-- Group and member of a fabric ID (R12). -/
def groupOf (f : BitVec 11) : Nat := f.toNat / 32
def memberOf (f : BitVec 11) : Nat := f.toNat % 32

/-- Route entry of a group on a die. -/
def State.route (s : State) (die group : Nat) : Nat := (tabGet 0 s.routes (64 * die + group)).toNat

/-- Local link from member m to member t of one group (R268). -/
def localLink (m t : Nat) : Nat := (t + 31 - m) % 32

/-- Link n is UP. -/
def State.linkUp (s : State) (n : Nat) : Bool := (tabGet {} s.links n).state == .up

/-- Next hops of a destination that are UP (R269). -/
def State.nextHops (s : State) (die : Nat) (dst : BitVec 11) : List Nat :=
  if groupOf dst = groupOf s.fabid then
    let k := localLink (memberOf s.fabid) (memberOf dst)
    if s.linkUp k then [k] else []
  else
    let e := s.route die (groupOf dst)
    if bits e 1 0 != 1 then []
    else ((rangeFrom 0 8).filter (fun j => bits e (8 + j) (8 + j) == 1)).filterMap (fun j =>
      let n := bits e (16 + 6 * j + 5) (16 + 6 * j)
      if s.linkUp n then some n else none)

/-- The destination lies in a group whose route is NONE (R280). -/
def State.routeNone (s : State) (die : Nat) (dst : BitVec 11) : Bool :=
  groupOf dst != groupOf s.fabid && bits (s.route die (groupOf dst)) 1 0 == 0

/-! ## Failure of a remote operation (R276, R280) -/

/-- Ends a context with REMOTE.ERR for an operation (R251): the record of Table 22.6 (R471). -/
def State.remoteErr (s : State) (c x : Nat) (o : RemoteOp) : State :=
  s.endCtx c x { causeRecord causeRemoteErr c x 0 with
    fabid := o.dst, stream := o.stream, seq := o.seq, addr := o.vaddr }

/-- An operation is no longer uncommitted (R74, R142). -/
def State.commitDone (s : State) (c x : Nat) (stream : BitVec 5) (dst : BitVec 11) : State :=
  s.modCtx c x (fun cx => cx.commitDone stream dst)

/-- Changes the transfer of a channel that has an ID. -/
def State.modXfer (s : State) (c ch : Nat) (id : BitVec 32) (f : Xfer → Xfer) : State :=
  s.modCore c (fun k => { k with
    buffers := tabSet [] k.buffers ch ((tabGet [] k.buffers ch).map (fun x => if x.id == id then f x else x)) })

/-- The transfer of a channel that has an ID. -/
def State.xfer (s : State) (c ch : Nat) (id : BitVec 32) : Option Xfer :=
  (tabGet [] (s.core c).buffers ch).find? (fun x => x.id == id)

/-- A remote operation fails: its context ends, and a command of a copy channel then completes (R276, R280, R471); a response
is dropped. What is sent is never committed (R472). -/
def State.failOut (s : State) (o : Out) : State :=
  match o.kind with
  | .response => s
  | .channel ch id =>
    ((s.remoteErr o.core o.ctx o.op).commitDone o.core o.ctx o.op.stream o.op.dst).modXfer o.core ch id
      (fun x => { x with stage := .finished, counted := 0 })
  | .read ch id =>
    (s.remoteErr o.core o.ctx o.op).modXfer o.core ch id (fun x => { x with stage := .finished, counted := 0 })
  | .setup e =>
    { s.remoteErr o.core o.ctx o.op with
      chans := tabSet {} s.chans e { tabGet {} s.chans e with broken := true, setup := false } }
  | .collective e =>
    { s.remoteErr o.core o.ctx o.op with chans := tabSet {} s.chans e { tabGet {} s.chans e with running := none } }
  | _ => s.remoteErr o.core o.ctx o.op

/-- Die whose route table an outgoing operation uses. -/
def Out.die (o : Out) : Nat := dieOf o.core

/-- Elements of a channel and setup contributions of a ring reach their peer in the order in which they were sent
(R169, R468): one waits while an earlier one of its entry is unanswered. (DEDUCED, log 72.) -/
def State.behind (os : List Out) (o : Out) : Bool :=
  match o.kind with
  | .element e _ => os.any (fun p => match p.kind with
    | .element f _ => e == f
    | _ => false)
  | .setup e => os.any (fun p => p.kind == .setup e)
  | _ => false

/-- An operation enters the port: the local arrival port serves the device's own ID (R115), a group without a route
fails it (R280), and otherwise it waits for its flits to leave. -/
def State.sendOp (s : State) (o : Out) : State :=
  if o.op.dst = s.fabid then
    match o.kind with
    | .response => { s with inbox := s.inbox ++ [o.op] }
    | _ =>
      if State.behind s.out o then { s with out := s.out ++ [{ o with stage := .refused s.cycle, firstSent := some s.cycle }] }
      else { s with inbox := s.inbox ++ [o.op], out := s.out ++ [{ o with stage := .sent, firstSent := some s.cycle }] }
  else if s.routeNone o.die o.op.dst then s.failOut o
  else { s with out := s.out ++ [o] }

/-- A response of this device to an operation (R269, R420): it echoes what the source matches it by.
(DESIGN CHOICE, log 22.) -/
def State.respond (s : State) (code rop : BitVec 8) (q : RemoteOp) (data : List Byte) (poison : List Nat := []) : State :=
  s.sendOp {
    op := { op := code, rop := rop, stream := q.stream, sctx := q.sctx, score := q.score, seq := q.seq, src := s.fabid
            dst := q.src, vaddr := q.vaddr, tag := q.tag, auxop := q.auxop, data := data, poison := poison }
    kind := .response, core := 64 * (q.stream.toNat % 2), ctx := 0, stage := .port 0, link := none
    firstSent := none, issued := s.cycle }

/-- The responses and the operation they answer carry the same tag. (DESIGN CHOICE, log 22.) -/
def Out.answers (o : Out) (r : RemoteOp) : Bool :=
  o.op.tag == r.tag && o.op.auxop == r.auxop && o.op.dst == r.src
    && (match o.kind with
      | .response => false
      | _ => true)

/-- Cycles between a refusal and the resending (R168: 256 ns at 3.0 GHz). -/
def resendCycles : Dword := 768

/-- A refusal reaches the source (R168); the refusal of a stream operation is counted (event 0x13). -/
def State.refused (s : State) (r : RemoteOp) : State :=
  let s := match s.out.find? (fun o => o.answers r) with
    | some o => (match o.kind with
      | .channel .. => s.event o.core 0x13 1
      | _ => s)
    | none => s
  { s with out := s.out.map (fun o =>
      if o.answers r then { o with stage := .refused (s.cycle + resendCycles) } else o) }

/-- The destination refuses an operation. -/
def State.refuse (s : State) (q : RemoteOp) : State :=
  if q.src = s.fabid then s.refused { q with src := s.fabid } else s.respond opRefusal 0 q []

/-! ## Engine command queues (R157) -/

/-- Pushes a command of a trigger into the queue of a unit. -/
def State.pushCmd (s : State) (a : Arg) (unit : Nat) (op : CmdOp) (seq : BitVec 24) : State :=
  let i := s.nextId
  let cmd : Cmd := { op := op, unit := unit, core := a.core, ctx := a.ctx, sys := a.sys, serial := i, seq := seq
                     issued := s.cycle, step := (s.ctx a.core a.ctx).step }
  let s := { s with nextId := i + 1 }
  let s := s.modCore a.core (fun k => { k with
    queues := tabSet [] k.queues (4 * unit + a.ctx) (tabGet [] k.queues (4 * unit + a.ctx) ++ [cmd]) })
  s.modCtx a.core a.ctx (fun cx => { cx with live := cx.live ++ [(i, unit)] })

/-- A command pushed after a `fence.q` waits for those pushed before it (R137). -/
def Ctx.fenced (cx : Ctx) (cmd : Cmd) : Bool :=
  cx.fences.any (fun f => f.serial < cmd.serial && f.mask.getLsbD cmd.unit
    && cx.live.any (fun l => l.1 < f.serial && f.mask.getLsbD l.2))

/-- The command a unit takes next: round-robin over the contexts after the one served last, heads that it can take (R157); a
head that it cannot take is passed over like an empty queue. (DESIGN CHOICE, log 86.) -/
def State.nextCmd (s : State) (c u : Nat) (ok : Cmd → Bool) : Option Cmd :=
  let k := s.core c
  if k.accepted.contains u then none
  else firstOf ([1, 2, 3, 4].map (fun d =>
    let x := (tabGet 3 k.served u + d) % 4
    match tabGet [] k.queues (4 * u + x) with
    | cmd :: _ => if !(k.ctx x).fenced cmd && ok cmd then some cmd else none
    | [] => none))

/-- The unit takes a command from the head of its queue. -/
def State.dequeue (s : State) (cmd : Cmd) : State :=
  s.modCore cmd.core (fun k => { k with
    queues := tabSet [] k.queues (4 * cmd.unit + cmd.ctx) (tabGet [] k.queues (4 * cmd.unit + cmd.ctx)).tail
    served := tabPut k.served cmd.unit cmd.ctx
    accepted := cmd.unit :: k.accepted })

/-- A side log holds the `vatom` with a number that holds the later accesses of its context: it is still to be performed
(R426). -/
def State.logHolds (s : State) (i : Nat) : Bool := s.sideLogs.any (fun e => e.hold == some i)

/-- A command has been performed: it holds no later access (R426), unless a side log holds it, and marks its tile step where
`mark` says so (R33). (DEDUCED, log 26.) -/
def State.performed (s : State) (cmd : Cmd) (mark : Bool) : State :=
  let s := s.modCtx cmd.core cmd.ctx (fun cx => { cx with
    acquireHold := cx.acquireHold.filter (fun i => i != cmd.serial || s.logHolds i) })
  match mark, cmd.step with
  | true, some i => s.modStep i (fun t => { t with emark := true })
  | _, _ => s

/-- A command is complete: it no longer stands among the live ones (R137, R138). -/
def State.retireCmd (s : State) (cmd : Cmd) : State :=
  s.modCtx cmd.core cmd.ctx (fun cx =>
    let live := cx.live.filter (fun l => l.1 != cmd.serial)
    { cx with
      live := live
      acquireHold := cx.acquireHold.filter (fun i => i != cmd.serial || s.logHolds i)
      fences := cx.fences.filter (fun f => live.any (fun l => l.1 < f.serial)) })

/-- A fault found after issue, for the pushing context (R104, R245). -/
def State.deferFault (s : State) (cmd : Cmd) (cause : BitVec 8) (addr : Nat) : State :=
  s.pendCause cmd.core cmd.ctx cause (trapInfoWord none cmd.unit addr)

/-- Lands the value of a command in its register (R50): the long-latency access is due now. -/
def State.landEngine (s : State) (c x serial : Nat) (v : Dword) : State :=
  s.modCtx c x (fun cx => { cx with late := cx.late.map (fun l =>
    if l.kind == .engine serial then { l with kind := .value (ofDword v) } else l) })

/-- The register of a command becomes full with the value it held (R426). -/
def State.refillEngine (s : State) (c x serial : Nat) : State :=
  s.modCtx c x (fun cx =>
    let keys := cx.late.filterMap (fun l => if l.kind == .engine serial then l.dst.map LateDst.key else none)
    let cx := { cx with late := cx.late.filter (fun l => l.kind != .engine serial) }
    keys.foldl (fun cx k => cx.setEmpty k false) cx)

/-- A completion of a core's command is reported to the barrier word at an S-address (R420, R212): an untagged word
counts as a tag drop. -/
def State.reportBar (s : State) (c addr bytes : Nat) : State :=
  if s.tagged addr && s.tagged (addr + 4) then s.barUpdate addr (2 ^ 32 - bytes % 2 ^ 32) 0
  else s.event c 0x0C 1

/-- Accesses that the context issued before a command are performed (R134), those that follow a release still under way among
them. -/
def State.pushOrdered (s : State) (cmd : Cmd) : Bool :=
  let cx := s.ctx cmd.core cmd.ctx
  !cx.late.any (fun l => l.isAccess && l.order ≤ cmd.order)
    && !cx.completing.any (fun d => match d with
      | .release _ _ o => o ≤ cmd.order
      | _ => false)

/-- A `fence.st` before a command is still under way: a remote operation behind it waits (R145). -/
def State.fencedOff (s : State) (cmd : Cmd) : Bool :=
  (s.ctx cmd.core cmd.ctx).completing.any (fun d => match d with
    | .fenceSt _ o => o ≤ cmd.order
    | _ => false)

/-! ## Accesses of a command -/

/-- An access of a command by a unit with a side log. -/
def Cmd.access (cmd : Cmd) (die : Nat) (u : LogUnit) : Access :=
  { die := die, log := u, core := cmd.core, ctx := cmd.ctx, issuer := cmd.unit }

/-! ## Nested-loop descriptors (R196, R197) -/

def descLog2e (d : List Byte) : Nat := bits (fieldAt d 0 8) 10 8
def descNdim (d : List Byte) : Nat := bits (fieldAt d 0 8) 2 0
def descBase (d : List Byte) : Nat := fieldAt d 8 8
def descCount (d : List Byte) (i : Nat) : Nat := bits (fieldAt d (0x10 + 16 * i) 8) 31 0
def descStride (d : List Byte) (i : Nat) : Nat := fieldAt d (0x18 + 16 * i) 8
/-- Element bytes. -/
def descElem (d : List Byte) : Nat := 2 ^ descLog2e d
/-- Product of the counts. -/
def descTotal (d : List Byte) : Nat := (rangeFrom 0 (descNdim d)).foldl (fun n i => n * descCount d i) 1

/-- The descriptor keeps every limit of R197. -/
def descOk (d : List Byte) : Bool :=
  let dims := rangeFrom 0 (descNdim d)
  1 ≤ descNdim d && descNdim d ≤ 6 && descLog2e d ≤ 6
    && dims.all (fun i => descCount d i != 0 && descStride d i % descElem d == 0)
    && descBase d % descElem d == 0 && descTotal d * descElem d < 2 ^ 32

/-- Address of element n in visit order: dimension 0 innermost, modulo 2^64 (R196). (DEDUCED, log 27.) -/
def descAddr (d : List Byte) (n : Nat) : Nat :=
  ((rangeFrom 0 (descNdim d)).foldl (fun (p : Nat × Nat) i =>
    let c := max 1 (descCount d i)
    (p.1 + p.2 % c * descStride d i, p.2 / c)) (descBase d, n)).1 % 2 ^ 64

end Sys2Proof.Machine
end

