-- ==== Sys2Proof/Machine/Copy.lean ====
section
/-!
DEFINITION. The copy unit (16: R417-R428): checks and pushes of its triggers, acceptance into the time-sorted buffers
(R159), eligibility (R160), pieces (R161, R421-R427), completion (R138, R420).
-/

namespace Sys2Proof.Machine

/-! ## The control word (Table 16.2) -/

def ctlSsp (w : Dword) : Nat := bits w.toNat 63 62
def ctlDsp (w : Dword) : Nat := bits w.toNat 61 60
def ctlOp (w : Dword) : Nat := bits w.toNat 59 56
def ctlTyp (w : Dword) : Nat := bits w.toNat 55 52
def ctlWord (w : Dword) : Bool := w.getLsbD 55
def ctlRet (w : Dword) : Bool := w.getLsbD 54
def ctlOrd (w : Dword) : Nat := bits w.toNat 53 52
def ctlBv (w : Dword) : Bool := w.getLsbD 51
def ctlBar (w : Dword) : Nat := bits w.toNat 50 31
def ctlCh (w : Dword) : Nat := bits w.toNat 19 17
def ctlTix (w : Dword) : Nat := bits w.toNat 30 23
def ctlScope (w : Dword) : Nat := bits w.toNat 16 14
def ctlDst (w : Dword) : Nat := bits w.toNat 5 0
/-- Length of a remote trigger and of `rget`. -/
def ctlLenR (w : Dword) : Nat := bits w.toNat 16 0 + 1
/-- Length of a `copy`, by its destination space. -/
def copyLen (w : Dword) : Nat := if ctlDsp w == 2 then bits w.toNat 22 0 + 1 else bits w.toNat 30 0 + 1
/-- Bytes of an atomic. -/
def ctlSize (w : Dword) : Nat := if ctlWord w then 4 else 8
/-- An atomic with ORD 1 or 3 holds the later accesses of its context (R426). -/
def ctlHolds (w : Dword) : Bool := ctlOrd w % 2 == 1

/-- The TYPE codes that an operator accepts (Table 6.16). -/
def opTypeOk (op typ : Nat) : Bool :=
  match op with
  | 0 => typ == 0 || typ == 1 || typ == 6
  | 3 | 4 => true
  | 1 | 2 | 5 | 6 => typ == 0 || typ == 6
  | _ => false

/-- The atomic of an OP code (Table 16.4). -/
def atomicOf : Nat → AtomicOp
  | 0 => .add | 1 => .and | 2 => .or | 3 => .min | 4 => .max | 5 => .swap | 6 => .cas | 7 => .fadd | 8 => .minu
  | _ => .maxu

/-! ## Checks at issue (Table 16.3) -/

/-- Operand ports of the copy unit. -/
def cpPorts : List Nat := [0x240, 0x241, 0x242]

/-- AUX of an address trap: log2 of the access size (Table 2.8). (DESIGN CHOICE, log 17.) -/
def sizeAux (n : Nat) : Nat := if 2 ^ Nat.log2 n = n then Nat.log2 n else (Config.oddSizeAux n).toNat

/-- The checks of the operand sides (in V-space or not, address, length), of the alignments (value checked, address,
size) and of the barrier word at own-slice offset 8 * bar, in the order of R247. (DESIGN CHOICE, log 17.) -/
def sideCause (s : State) (c unit : Nat) (sides : List (Bool × Nat × Nat)) (aligns : List (Nat × Nat × Nat))
    (bar : Option Nat) : Option Cause :=
  firstOf [
    (sides.find? (fun p => !p.1 && sTop < p.2.1 + p.2.2)).map (fun p => (causeSaddrRange, sizeAux p.2.2, p.2.1)),
    (aligns.find? (fun p => p.1 % p.2.2 != 0)).map (fun p => (causeAlign, Nat.log2 p.2.2, p.2.1)),
    (match bar with
      | some b =>
        let addr := c * 0x800000 + 8 * b
        if s.phased addr then some (causeRegionKind, 3, addr) else none
      | none => none),
    (sides.find? (fun p => p.1 && 2 ^ 52 ≤ p.2.1)).map (fun p => (causeXlatePerm, unit, p.2.1))]

/-- Channel of a local trigger and of a remote one (R323). -/
def localCh (a : Arg) : Nat := bits a.port 5 3
def remoteCh (a : Arg) : Nat := ctlCh a.x3

/-- Stream of a remote trigger (R323). -/
def portStream (a : Arg) : BitVec 5 := BitVec.ofNat 5 a.port

/-- A trigger of the copy unit. -/
def cpOp (chan : Arg → Nat) (mk : Arg → CmdOp) (bad : Arg → Bool) (sides : Arg → List (Bool × Nat × Nat))
    (aligns : Arg → List (Nat × Nat × Nat)) : Op :=
  { ports := cpPorts, needs := fun _ => cpPorts, weight := 2, access := true
    illegal := fun a => if bad a then some a.port else none
    traps := fun a => sideCause a.pre a.core (2 + chan a) (sides a) (aligns a)
      (if ctlBv a.x3 then some (ctlBar a.x3) else none)
    unit := fun a => some (2 + chan a)
    act := fun a s => s.pushCmd a (2 + chan a) (mk a) 0 }

/-- SLOT.ILLEGAL of `copy`: a reserved space, or a tile that cannot be filled so. -/
def copyBad (a : Arg) : Bool :=
  2 ≤ ctlSsp a.x3 || ctlDsp a.x3 == 3 || (ctlDsp a.x3 == 2 &&
    (let t := tabGet {} (a.pre.core a.core).tiles (ctlTix a.x3)
     !t.v || t.sub || copyLen a.x3 != t.rows.toNat * t.rbytes.toNat))

/-- SLOT.ILLEGAL of an atomic: a reserved OP, `fadd` on a doubleword, a reserved SCOPE that is read. -/
def atomicBad (a : Arg) : Bool :=
  9 < ctlOp a.x3 || (ctlOp a.x3 == 7 && !ctlWord a.x3) || (ctlOrd a.x3 != 0 && 4 < ctlScope a.x3)

/-- SLOT.ILLEGAL of `rred`. -/
def redBad (a : Arg) : Bool := 2 ≤ ctlSsp a.x3 || !opTypeOk (ctlOp a.x3) (ctlTyp a.x3)

/-- Sides of the descriptor copies: the descriptors themselves (R422). -/
def descSides (a : Arg) : List (Bool × Nat × Nat) :=
  [(a.x3.getLsbD 0, a.x1.toNat, 128), (a.x3.getLsbD 1, a.x2.toNat, 128)]

/-- Sides of `rput` and `rred`: local source and remote address. -/
def remoteSides (a : Arg) : List (Bool × Nat × Nat) :=
  [(ctlSsp a.x3 != 0, a.x1.toNat, ctlLenR a.x3), (true, a.x2.toNat, ctlLenR a.x3)]

/-- Destination registers of an atomic with return. -/
def retDests (a : Arg) : List Nat := if ctlRet a.x3 then destKeys (lateS a.sys (ctlDst a.x3)) else []

/-! ## Pushes with a register to land in, and remote pushes -/

/-- Marks DST empty for the next command's value, where it has one, and notes an acquire (R426). -/
def State.armDst (s : State) (a : Arg) (ret holds : Bool) : State :=
  let i := s.nextId
  let s := match ret, lateS a.sys (ctlDst a.x3) with
    | true, some d => (s.addLate a.core a.ctx (.engine i) (some d) 0 false).markEmpty a.core a.ctx d
    | _, _ => s
  if holds then s.modCtx a.core a.ctx (fun cx => { cx with acquireHold := cx.acquireHold ++ [i] }) else s

/-- A local trigger whose value may return to a register. -/
def State.startLocal (s : State) (a : Arg) (op : CmdOp) (ret holds : Bool) : State :=
  (s.armDst a ret holds).pushCmd a (2 + localCh a) op 0

/-- Takes the next sequence number of a (stream, destination) pair and sets STRFENCE (R141, R420). -/
def State.takeSeq (s : State) (c x : Nat) (stream : BitVec 5) (dest : BitVec 11) : State × BitVec 24 :=
  let k := strKey stream.toNat dest.toNat
  let n := tabGet 0 (s.ctx c x).strNext k
  (s.modCtx c x (fun cx => { cx with
    strNext := if stream = 0 then cx.strNext else tabSet 0 cx.strNext k (n + 1)
    uncommitted := tabSet 0 cx.uncommitted k (tabGet 0 cx.uncommitted k + 1)
    strFence := cx.strFence ||| (1 <<< stream.toNat) }), if stream = 0 then 0 else n)

/-- A remote trigger on a stream. -/
def State.startRemote (s : State) (a : Arg) (op : CmdOp) (ret holds : Bool) : State :=
  let p := (s.armDst a ret holds).takeSeq a.core a.ctx (portStream a) (ctlDest a.x3)
  p.1.pushCmd a (2 + remoteCh a) op p.2

/-! ## The triggers (Table 16.1) -/

/-- COPY (R417-R421). -/
def opCopy : Op :=
  cpOp localCh (fun a => .copy a.x1 a.x2 a.x3 a.val) copyBad
    (fun a => [(ctlSsp a.x3 != 0, a.x1.toNat, copyLen a.x3)]
      ++ (if ctlDsp a.x3 == 2 then [] else [(ctlDsp a.x3 != 0, a.x2.toNat, copyLen a.x3)])) (fun _ => [])
/-- COPY: issue of its slot. -/
def execCopy (m : Mv) (n : BitVec 3) (s : State) : Host.Outcome State Fault Refusal :=
  issueTrigger m ((0x8 : BitVec 4) ++ (n ++ (0 : BitVec 3))) opCopy s

/-- COPY_TR8 (R417-R419, R422). -/
def opCopyTr8 : Op :=
  cpOp localCh (fun a => .copyTr8 a.x1 a.x2 a.x3 a.val) (fun a => 2 ≤ ctlSsp a.x3 || 2 ≤ ctlDsp a.x3) descSides
    (fun a => [(a.x1.toNat, a.x1.toNat, 128), (a.x2.toNat, a.x2.toNat, 128)])
/-- COPY_TR8: issue of its slot. -/
def execCopyTr8 (m : Mv) (n : BitVec 3) (s : State) : Host.Outcome State Fault Refusal :=
  issueTrigger m ((0x8 : BitVec 4) ++ (n ++ (1 : BitVec 3))) opCopyTr8 s

/-- COPY_TR16 (R417-R419, R422). -/
def opCopyTr16 : Op :=
  cpOp localCh (fun a => .copyTr16 a.x1 a.x2 a.x3 a.val) (fun a => 2 ≤ ctlSsp a.x3 || 2 ≤ ctlDsp a.x3) descSides
    (fun a => [(a.x1.toNat, a.x1.toNat, 128), (a.x2.toNat, a.x2.toNat, 128)])
/-- COPY_TR16: issue of its slot. -/
def execCopyTr16 (m : Mv) (n : BitVec 3) (s : State) : Host.Outcome State Fault Refusal :=
  issueTrigger m ((0x8 : BitVec 4) ++ (n ++ (2 : BitVec 3))) opCopyTr16 s

/-- COPY_ND (R417-R419, R422). -/
def opCopyNd : Op :=
  cpOp localCh (fun a => .copyNd a.x1 a.x2 a.x3 a.val) (fun a => 2 ≤ ctlSsp a.x3 || 2 ≤ ctlDsp a.x3) descSides
    (fun a => [(a.x1.toNat, a.x1.toNat, 128), (a.x2.toNat, a.x2.toNat, 128)])
/-- COPY_ND: issue of its slot. -/
def execCopyNd (m : Mv) (n : BitVec 3) (s : State) : Host.Outcome State Fault Refusal :=
  issueTrigger m ((0x8 : BitVec 4) ++ (n ++ (3 : BitVec 3))) opCopyNd s

/-- RGET (R417-R419, R427). -/
def opRget : Op :=
  { cpOp localCh (fun a => .rget a.x1 a.x2 a.x3 a.val) (fun a => ctlDsp a.x3 == 3)
      (fun a => [(true, a.x1.toNat, ctlLenR a.x3)]
        ++ (if ctlDsp a.x3 == 2 then [] else [(ctlDsp a.x3 != 0, a.x2.toNat, ctlLenR a.x3)])) (fun _ => []) with
    dests := fun a => if ctlDsp a.x3 == 2 then destKeys (lateS a.sys (ctlDst a.x3)) else []
    act := fun a s => s.startLocal a (.rget a.x1 a.x2 a.x3 a.val) (ctlDsp a.x3 == 2) false }
/-- RGET: issue of its slot. -/
def execRget (m : Mv) (n : BitVec 3) (s : State) : Host.Outcome State Fault Refusal :=
  issueTrigger m ((0x8 : BitVec 4) ++ (n ++ (4 : BitVec 3))) opRget s

/-- VATOM (R417-R419, R426). -/
def opVatom : Op :=
  { cpOp localCh (fun a => .vatom a.x1 a.x2 a.x3 a.val) atomicBad (fun a => [(true, a.x1.toNat, ctlSize a.x3)])
      (fun a => [(a.x1.toNat, a.x1.toNat, ctlSize a.x3)]) with
    dests := retDests
    act := fun a s => s.startLocal a (.vatom a.x1 a.x2 a.x3 a.val) (ctlRet a.x3) (ctlHolds a.x3) }
/-- VATOM: issue of its slot. -/
def execVatom (m : Mv) (n : BitVec 3) (s : State) : Host.Outcome State Fault Refusal :=
  issueTrigger m ((0x8 : BitVec 4) ++ (n ++ (5 : BitVec 3))) opVatom s

/-- RPUT_ST (R417-R420, R424). -/
def opRputSt : Op :=
  { cpOp remoteCh (fun a => .rput (portStream a) a.x1 a.x2 a.x3 a.val) (fun a => 2 ≤ ctlSsp a.x3) remoteSides
      (fun _ => []) with
    act := fun a s => s.startRemote a (.rput (portStream a) a.x1 a.x2 a.x3 a.val) false false }
/-- RPUT_ST: issue of its slot. -/
def execRputSt (m : Mv) (t : BitVec 5) (s : State) : Host.Outcome State Fault Refusal :=
  issueTrigger m ((0x13 : BitVec 5) ++ t) opRputSt s

/-- RRED_ST (R417-R420, R425). -/
def opRredSt : Op :=
  { cpOp remoteCh (fun a => .rred (portStream a) a.x1 a.x2 a.x3 a.val) redBad remoteSides
      (fun a =>
        let n := elemBytes (ctlOp a.x3) (ctlTyp a.x3)
        [(a.x1.toNat, a.x1.toNat, n), (a.x2.toNat, a.x2.toNat, n), (ctlLenR a.x3, a.x1.toNat, n)]) with
    act := fun a s => s.startRemote a (.rred (portStream a) a.x1 a.x2 a.x3 a.val) false false }
/-- RRED_ST: issue of its slot. -/
def execRredSt (m : Mv) (t : BitVec 5) (s : State) : Host.Outcome State Fault Refusal :=
  issueTrigger m ((0x14 : BitVec 5) ++ t) opRredSt s

/-- RATOM_ST (R417-R420, R426). -/
def opRatomSt : Op :=
  { cpOp remoteCh (fun a => .ratom (portStream a) a.x1 a.x2 a.x3 a.val) atomicBad
      (fun a => [(true, a.x1.toNat, ctlSize a.x3)]) (fun a => [(a.x1.toNat, a.x1.toNat, ctlSize a.x3)]) with
    dests := retDests
    act := fun a s =>
      s.startRemote a (.ratom (portStream a) a.x1 a.x2 a.x3 a.val) (ctlRet a.x3) (ctlHolds a.x3) }
/-- RATOM_ST: issue of its slot. -/
def execRatomSt (m : Mv) (t : BitVec 5) (s : State) : Host.Outcome State Fault Refusal :=
  issueTrigger m ((0x15 : BitVec 5) ++ t) opRatomSt s

/-! ## Commands in a time-sorted buffer -/

/-- Control word of a copy-unit command. -/
def CmdOp.ctl : CmdOp → Dword
  | .copy _ _ w _ | .copyTr8 _ _ w _ | .copyTr16 _ _ w _ | .copyNd _ _ w _ | .rget _ _ w _ | .vatom _ _ w _
  | .rput _ _ _ w _ | .rred _ _ _ w _ | .ratom _ _ _ w _ | .gather _ _ w _ | .scatter _ _ w _ => w
  | _ => 0

/-- Issue time T of a copy-unit command; 0 for the atomics (R417). -/
def CmdOp.time : CmdOp → Dword
  | .copy _ _ _ t | .copyTr8 _ _ _ t | .copyTr16 _ _ _ t | .copyNd _ _ _ t | .rget _ _ _ t | .rput _ _ _ _ t
  | .rred _ _ _ _ t => t
  | _ => 0

/-- The barrier word that a command of core c names (R420, R413). -/
def CmdOp.barrier (c : Nat) : CmdOp → Option Nat
  | .row _ _ _ w _ => if w.getLsbD 0 then some (bits w.toNat 29 3 * 8) else none
  | op => if ctlBv op.ctl then some (c * 0x800000 + ctlBar op.ctl * 8) else none

/-- Descriptor addresses of a descriptor copy, with their spaces (true V). -/
def CmdOp.descs : CmdOp → Option ((Bool × Nat) × (Bool × Nat))
  | .copyTr8 a b w _ | .copyTr16 a b w _ | .copyNd a b w _ =>
    some ((w.getLsbD 0, a.toNat), (w.getLsbD 1, b.toNat))
  | _ => none

/-- The tile that a `copy` fills. -/
def CmdOp.fillTile : CmdOp → Option Nat
  | .copy _ _ w _ | .gather _ _ w _ => if ctlDsp w == 2 then some (ctlTix w) else none
  | _ => none

/-- The pair of descriptors breaks R197 or R422. -/
def descPairBad (op : CmdOp) (a b : List Byte) : Bool :=
  let tr (e : Nat) : Bool :=
    descNdim a != 2 || descNdim b != 2 || descLog2e a != e || descLog2e b != e
      || descCount a 0 != descCount b 1 || descCount a 1 != descCount b 0
  !descOk a || !descOk b || (match op with
    | .copyTr8 .. => tr 0
    | .copyTr16 .. => tr 1
    | _ => descLog2e a != descLog2e b || descTotal a != descTotal b)

/-- Tile t of core c. -/
def State.tile (s : State) (c t : Nat) : Tile := tabGet {} (s.core c).tiles t

/-- Changes tile t of core c. -/
def State.modTile (s : State) (c t : Nat) (f : Tile → Tile) : State :=
  s.modCore c (fun k => { k with tiles := tabSet {} k.tiles t (f (tabGet {} k.tiles t)) })

/-- Commands of a context on one stream and destination that stand in the queues and buffers of the copy channels: neither
has committed. -/
def State.pairCmds (s : State) (c x : Nat) (st : BitVec 5) (dest : BitVec 11) : List Cmd :=
  let k := s.core c
  let mine (d : Cmd) : Bool := d.ctx == x && d.op.stream == some st && d.op.dest == dest
  (rangeFrom 0 8).flatMap (fun h =>
    ((tabGet [] k.buffers h).map (·.cmd) ++ tabGet [] k.queues (4 * (h + 2) + x)).filter mine)

/-- A remote command can be accepted (R420, R141): fewer than 128 operations of its pair are accepted and uncommitted, and its
number lies within 127 of the oldest of them (R213). -/
def State.pairReady (s : State) (c : Nat) (cmd : Cmd) (st : BitVec 5) : Bool :=
  let ds := s.pairCmds c cmd.ctx st cmd.op.dest
  let n := ((rangeFrom 0 8).flatMap (fun h => tabGet [] (s.core c).buffers h)).filter (fun x =>
    x.cmd.ctx == cmd.ctx && x.cmd.op.stream == some st && x.cmd.op.dest == cmd.op.dest)
  n.length < 128 && (match minBy (fun (d : Cmd) => d.serial) ds with
    | some d => (cmd.seq - d.seq).toNat ≤ 127
    | none => true)

/-- A channel can take a command (R159, R420, R423): its buffer has a place and TNEXT is less than 128 above TDONE (R211), the
pair of a remote command takes one more, a tile to fill is EMPTY; one that names descriptors, which are read at its
acceptance (R196), follows the accesses before it (R134). -/
def State.cpReady (s : State) (c ch : Nat) (cmd : Cmd) : Bool :=
  let k := s.core c
  let room := (tabGet [] k.buffers ch).length < 128 && (tabGet 0 k.tnext ch - tabGet 0 k.tdone ch).toNat < 128
  let pair := match cmd.op.stream with
    | some st => s.pairReady c cmd st
    | none => true
  let tile := match cmd.op.fillTile with
    | some t => (s.tile c t).state == .empty
    | none => true
  room && pair && tile && (cmd.op.descs.isNone || s.pushOrdered cmd)

/-- A context consumes poisoned data that an engine read for it (R100): it ends with ECC.UNCORR. -/
def State.endPoison (s : State) (a : Access) (v : Bool) (addr n : Nat) : State :=
  let pa : Nat := match (if a.tlb then s.paOf a.die addr else (s.walk addr).map (fun e => leafPa e.2 e.1 addr)) with
    | some pa => pa
    | none => 0
  s.endCtx a.core a.ctx (if v then eccRecord .hbm a.core a.ctx ((s.hPoisonAt pa n).getD pa)
    else eccRecord .sspace a.core a.ctx ((s.poisonAt addr n).getD addr))

/-- The first copy engine of a die whose side log is not full, which reads the descriptors of its channels; engine 0 where
every log is. (DESIGN CHOICE, log 71.) -/
def State.descEngine (s : State) (die : Nat) : LogUnit :=
  .copyEngine die (((rangeFrom 0 16).find? (fun n => !s.logFull (.copyEngine die n))).getD 0)

/-- A command waits behind a unit whose side log is full: its context takes SIDELOG.FULL once for this wait (R110).
(DESIGN CHOICE, log 71.) -/
def State.tellFull (s : State) (x : Xfer) (va : Nat) : State × Xfer :=
  if x.told then (s, x) else (s.deferFault x.cmd causeSidelogFull va, { x with told := true })

/-- Reads the descriptors that are still missing (R196, R422): it may hold the channel, wait for a walk or the host, or
end the command. -/
def State.fetchDescs (s : State) (die : Nat) (x : Xfer) : State × Xfer :=
  match x.cmd.op.descs with
  | none => (s, x)
  | some (p, q) =>
    if x.stage != .waiting then (s, x)
    else if !x.srcDesc.isEmpty && !x.dstDesc.isEmpty then (s, x)
    else
      let a := x.cmd.access die (s.descEngine die)
      let src := x.srcDesc.isEmpty
      let side := if src then p else q
      let put (s : State) (bs : List Byte) : State × Xfer :=
        let x := if src then { x with srcDesc := bs, buffer := [] } else { x with dstDesc := bs, buffer := [] }
        if !x.srcDesc.isEmpty && !x.dstDesc.isEmpty && descPairBad x.cmd.op x.srcDesc x.dstDesc then
          (s.deferFault x.cmd causeLoopNest 0, { x with stage := .finished })
        else (s, x)
      if !x.buffer.isEmpty then put s x.buffer
      else match s.readSide a side.1 side.2 128 with
        | .data s bs p =>
          if p.isEmpty then put s bs else (s.endPoison a side.1 side.2 128, { x with stage := .finished })
        | .fails cause addr => (s.deferFault x.cmd cause addr, { x with stage := .finished })
        | .held s => (s, { x with stage := .held (BitVec.ofNat 64 side.2) })
        | .waits s => (s, x)
        | .host w h => (s.sendHost (.xfer x.cmd.core (x.cmd.unit - 2) x.id) w.qp (some (BitVec.ofNat 64 side.2))
            (.rdmaRead w.qp w.key h 128), { x with stage := .hostWait w.qp true 128 })
        | .full va => s.tellFull x va

/-- Writes a transfer back, unless its operation has already failed meanwhile. -/
def State.putXfer (s : State) (c ch : Nat) (x : Xfer) : State :=
  s.modXfer c ch x.id (fun y => if y.stage == .finished then y else x)

/-- Acceptance of a copy command (R157, R159, R160): it takes its transfer ID and enters the buffer.
(DESIGN CHOICE, log 71.) -/
def State.cpAccept (s : State) (cmd : Cmd) : State :=
  let c := cmd.core
  let ch := cmd.unit - 2
  let s := s.dequeue cmd
  let id := tabGet 0 (s.core c).tnext ch
  let t := cmd.op.time
  let x : Xfer := {
    cmd := cmd, id := id, teff := if t.toNat ≤ s.cycle.toNat then s.cycle else t, accepted := s.cycle
    eligible := false, begun := false, moved := 0, counted := 0, srcDesc := [], dstDesc := [], stage := .waiting
    buffer := [], poison := [] }
  let s := match cmd.op.fillTile with
    | some t => s.modTile c t (fun e => { e with state := .filling })
    | none => s
  let p := s.fetchDescs (dieOf c) x
  let p := p.1.fetchDescs (dieOf c) p.2
  p.1.modCore c (fun k => { k with
    tnext := tabSet 0 k.tnext ch (id + 1)
    buffers := tabSet [] k.buffers ch (tabGet [] k.buffers ch ++ [p.2]) })

/-! ## Eligibility (R160) -/

/-- Commands accepted before an ID on a channel. -/
def beforeId (xs : List Xfer) (id : BitVec 32) : List Xfer := xs.takeWhile (fun x => x.id != id)

/-- COPY_ELIGIBLE (R160): the command becomes eligible at its effective time; until then the engines read its descriptors
(R196). -/
def execCopyEligible (core ch : Nat) (id : BitVec 32) (s : State) : Host.Outcome State Fault Refusal :=
  .next (match s.xfer core ch id with
    | some x =>
      let p := s.fetchDescs (dieOf core) x
      let s := p.1.putXfer core ch p.2
      let xs := tabGet [] (s.core core).buffers ch
      if x.teff.toNat ≤ s.cycle.toNat
          && (beforeId xs id).all (fun y => x.teff.toNat < y.teff.toNat || y.begun || y.stage == .finished)
      then s.modXfer core ch id (fun x => { x with eligible := true }) else s
    | none => s)

/-! ## Pieces (R161, R421-R427) -/

/-- A command keeps a later one of its channel from being performed (R135, R136) until it is performed. A remote write that
has left keeps no other remote one, whose order is that of the streams (R143), and no `rget` (R148). -/
def Xfer.keeps (y : Xfer) (m : Cmd) : Bool :=
  match y.stage with
  | .waiting | .held _ | .hostWait _ _ _ => true
  | .sent => (match y.cmd.op, m.op with
    | .rget .., _ => true
    | _, .rget .. => false
    | _, op => op.stream.isNone)
  | .finished => false

/-- A read of the command holds its channel (R112). -/
def Xfer.isHeld (x : Xfer) : Bool :=
  match x.stage with
  | .held _ => true
  | _ => false

/-- The command may be performed now: accesses before it are (R134), no `fence.st` before a remote one is under way (R145), and
the release of ORD 2 or 3 is complete (R131, R426): no write before it is logged, no `vatom` before it is still to be
performed, and at fabric scope none before it is uncommitted. -/
def State.cmdReady (s : State) (cmd : Cmd) : Bool :=
  let isAtomic := match cmd.op with
    | .vatom .. | .ratom .. => true
    | _ => false
  s.pushOrdered cmd && !(cmd.op.stream.isSome && s.fencedOff cmd) && (!isAtomic || ctlOrd cmd.op.ctl < 2 ||
    (!s.logsHold cmd.core cmd.ctx && !s.vatomsOpen cmd.core cmd.ctx cmd.order
      && (ctlScope cmd.op.ctl != 4 || !s.streamsOpen cmd.core cmd.ctx (BitVec.allOnes 32) cmd.order)))

/-- Transfers of a channel that an engine may take: none while a read holds the channel (R112). -/
def State.channelCandidates (s : State) (c ch : Nat) : List (Nat × Nat × Xfer) :=
  let xs := tabGet [] (s.core c).buffers ch
  if xs.any Xfer.isHeld then []
  else (xs.filter (fun x => x.eligible && x.stage == .waiting && s.cmdReady x.cmd
    && (beforeId xs x.id).all (fun y => x.teff.toNat < y.teff.toNat || !y.keeps x.cmd))).map (fun x => (c, ch, x))

/-- The transfer that an engine of a die takes: the smallest effective time, then core, channel and acceptance (R161). -/
def State.pickXfer (s : State) (die : Nat) : Option (Nat × Nat × Xfer) :=
  minBy (fun (p : Nat × Nat × Xfer) => p.2.2.teff.toNat)
    ((rangeFrom (64 * die) 64).flatMap (fun c =>
      if (s.core c).buffers.isEmpty then [] else (rangeFrom 0 8).flatMap (s.channelCandidates c)))

/-- A segment of an access: V-space or S-space, address, bytes. -/
abbrev Seg := Bool × Nat × Nat

/-- Segments of n bytes of a tile from a byte offset: row by row (R423). -/
def tileSegs (c : Nat) (t : Tile) : Nat → Nat → Nat → List Seg
  | 0, _, _ => []
  | fuel + 1, off, n =>
    let rb := max 1 t.rbytes.toNat
    let m := min n (rb - off % rb)
    if m = 0 then []
    else (false, c * 0x800000 + t.base.toNat + off / rb * t.pitch.toNat + off % rb, m) :: tileSegs c t fuel (off + m) (n - m)

/-- Writes bytes into a tile from a byte offset; poison travels with them (R100). -/
def State.writeTile (s : State) (c : Nat) (t : Tile) (off : Nat) (bs : List Byte) (ps : List Nat) : State :=
  ((tileSegs c t (bs.length + 1) off bs.length).foldl (fun (p : State × List Byte × List Nat) g =>
    (p.1.sMove c g.2.1 (p.2.1.take g.2.2) (cutPlaces p.2.2 0 g.2.2), p.2.1.drop g.2.2,
      cutPlaces p.2.2 g.2.2 p.2.1.length)) (s, bs, ps)).1

/-- Places of the poisoned bytes of [off, off+n) of a tile. -/
def State.tilePoison (s : State) (c : Nat) (t : Tile) (off n : Nat) : List Nat :=
  ((tileSegs c t (n + 1) off n).foldl (fun (p : Nat × List Nat) g =>
    (p.1 + g.2.2, p.2 ++ (s.poisonMap g.2.1 g.2.2).map (· + p.1))) (0, [])).2

/-- Reads n bytes of a tile from a byte offset. -/
def State.readTile (s : State) (c : Nat) (t : Tile) (off n : Nat) : List Byte :=
  (tileSegs c t (n + 1) off n).flatMap (fun g => s.sRead g.2.1 g.2.2)

/-- A piece of a command: what it reads, what it writes, and the fault of the element behind it that ends the command
(R421, R422). -/
structure Piece where
  reads  : List Seg
  writes : List Seg
  ends   : Option (BitVec 8 × Nat) := none

/-- Bytes of segments. -/
def segBytes (gs : List Seg) : Nat := gs.foldl (fun n g => n + g.2.2) 0

/-- The segments behind the first n bytes. -/
def dropSegs : Nat → List Seg → List Seg
  | _, [] => []
  | n, g :: t => if g.2.2 ≤ n then dropSegs (n - g.2.2) t else (g.1, g.2.1 + n, g.2.2 - n) :: t

/-- The segments of the first n bytes. -/
def takeSegs : Nat → List Seg → List Seg
  | _, [] => []
  | n, g :: t => if n = 0 then [] else (g.1, g.2.1, min n g.2.2) :: takeSegs (n - g.2.2) t

/-- 64-byte lines that segments touch, each once. -/
def segLines (gs : List Seg) : Nat := (distinct (gs.flatMap (fun g => touchedLines g.2.1 g.2.2))).length

/-- Asks the host for a segment of a transfer. -/
def State.askHost (s : State) (x : Xfer) (g : Seg) (w : Window) (read : Bool) (o : HostOut) : State × Xfer :=
  (s.sendHost (.xfer x.cmd.core (x.cmd.unit - 2) x.id) w.qp (some (BitVec.ofNat 64 g.2.1)) o,
    { x with stage := .hostWait w.qp read g.2.2 })

/-- Reads segments into the buffer of a transfer, one after the other; the flag says that all are read. -/
def State.readSegs (a : Access) : List Seg → State → Xfer → State × Xfer × Bool
  | [], s, x => (s, x, true)
  | g :: t, s, x =>
    match s.readSide a g.1 g.2.1 g.2.2 with
    | .data s bs p => State.readSegs a t s { x with
        buffer := x.buffer ++ bs, poison := x.poison ++ p.map (· + x.buffer.length) }
    | .fails cause b => (s.deferFault x.cmd cause b, { x with stage := .finished, buffer := [] }, false)
    | .held s => (s, { x with stage := .held (BitVec.ofNat 64 g.2.1) }, false)
    | .waits s => (s, x, false)
    | .host w h => let p := s.askHost x g w true (.rdmaRead w.qp w.key h g.2.2); (p.1, p.2, false)
    | .full va => let p := s.tellFull x va; (p.1, p.2, false)

/-- Writes segments from the buffer of a transfer, from byte `wrote` on; the flag says that all are written. -/
def State.writeSegs (a : Access) : List Seg → State → Xfer → State × Xfer × Bool
  | [], s, x => (s, x, true)
  | g :: t, s, x =>
    let bs := (x.buffer.drop x.wrote).take g.2.2
    match s.writeSide a g.1 g.2.1 bs (cutPlaces x.poison x.wrote g.2.2) with
    | .done s => State.writeSegs a t s { x with wrote := x.wrote + g.2.2, told := false }
    | .host w h => let p := s.askHost x g w false (.rdmaWrite w.qp w.key h bs); (p.1, p.2, false)
    | _ => (s, x, false)

/-- Looks at segments before the first is written, then writes them: a write that fails ends the command with none of them
made (R421). Where the unit's log takes a first part of them only, that part is written and the command waits with the rest
(R110). -/
def State.putSegs (s : State) (a : Access) (gs : List Seg) (x : Xfer) : State × Xfer × Bool :=
  match State.probeWrites a .store gs (s.logRoom a.log) 0 s with
  | .go => State.writeSegs a gs s x
  | .fails cause b => (s.deferFault x.cmd cause b, { x with stage := .finished, buffer := [] }, false)
  | .waits s => (s, x, false)
  | .full va fit => match State.writeSegs a (takeSegs fit gs) s x with
    | (s, x, true) => let p := s.tellFull x va; (p.1, p.2, false)
    | r => r

/-- Moves a piece: read whole, then written (R421); what is read and written already is not moved again.
(DEDUCED, log 27.) -/
def State.movePiece (s : State) (a : Access) (x : Xfer) (p : Piece) : State × Xfer :=
  match State.readSegs a (dropSegs x.buffer.length p.reads) s x with
  | (s, x, false) => (s, x)
  | (s, x, true) =>
    match s.putSegs a (dropSegs x.wrote p.writes) x with
    | (s, x, false) => (s, x)
    | (s, x, true) =>
      let n := segBytes p.writes
      let s := if x.cmd.unit < 10 then s.event x.cmd.core 0x11 (segLines p.writes) else s
      let x := { x with moved := x.moved + n, counted := x.counted + n, buffer := [], poison := [], wrote := 0 }
      match p.ends with
      | some (cause, b) => (s.deferFault x.cmd cause b, { x with stage := .finished })
      | none => (s, x)

/-- Bytes from an address to the end of its 64 KiB page, where it lies in V-space. -/
def toPageEnd (v : Bool) (addr : Nat) : Nat := if v then 0x10000 - addr % 0x10000 else 0x10000

/-- The transfer is finished once it has moved a number of bytes. -/
def Xfer.doneAt (x : Xfer) (total : Nat) : Xfer :=
  if total ≤ x.moved && x.stage == .waiting then { x with stage := .finished } else x

/-- A piece of a plain copy. -/
def State.pieceCopy (s : State) (a : Access) (x : Xfer) (src dst ctl : Dword) : State × Xfer :=
  let sv := ctlSsp ctl != 0
  let dv := ctlDsp ctl == 1
  let sa := src.toNat + x.moved
  let da := dst.toNat + x.moved
  let n := min (min 4096 (copyLen ctl - x.moved)) (min (toPageEnd sv sa) (toPageEnd dv da))
  let outs : List Seg := if ctlDsp ctl == 2 then tileSegs x.cmd.core (s.tile x.cmd.core (ctlTix ctl)) (n + 1) x.moved n
    else [(dv, da, n)]
  let p := s.movePiece a x { reads := [(sv, sa, n)], writes := outs }
  (p.1, p.2.doneAt (copyLen ctl))

/-- Element of the destination for element n of the source: in visit order, or transposed. (DEDUCED, log 27.) -/
def pairElem (op : CmdOp) (sd : List Byte) (n : Nat) : Nat :=
  match op with
  | .copyTr8 .. | .copyTr16 .. =>
    let c0 := max 1 (descCount sd 0)
    n % c0 * descCount sd 1 + n / c0
  | _ => n

/-- The fault of an element whose address lies outside its space (R422). -/
def elemFault (g : Seg) : Option (BitVec 8 × Nat) :=
  if g.1 then (if 2 ^ 52 ≤ g.2.1 then some (causeXlatePerm, g.2.1) else none)
  else if sTop < g.2.1 + g.2.2 then some (causeSaddrRange, g.2.1) else none

/-- The elements of a piece from element i on, at most as many as the fuel says: it ends before an element that lies outside
its space (R422). (DEDUCED, log 27.) -/
def elemPiece (src dst : Nat → Seg) : Nat → Nat → Piece
  | 0, _ => { reads := [], writes := [] }
  | fuel + 1, i =>
    match firstOf [elemFault (src i), elemFault (dst i)] with
    | some f => { reads := [], writes := [], ends := some f }
    | none =>
      let p := elemPiece src dst fuel (i + 1)
      { p with reads := src i :: p.reads, writes := dst i :: p.writes }

/-- A piece of a descriptor copy: elements in the source's visit order (R422). (DEDUCED, log 27.) -/
def State.pieceDesc (s : State) (a : Access) (x : Xfer) : State × Xfer :=
  let e := descElem x.srcDesc
  let total := descTotal x.srcDesc
  let ctl := x.cmd.op.ctl
  let i := x.moved / e
  let src (n : Nat) : Seg := (ctlSsp ctl != 0, descAddr x.srcDesc n, e)
  let dst (n : Nat) : Seg := (ctlDsp ctl != 0, descAddr x.dstDesc (pairElem x.cmd.op x.srcDesc n), e)
  let p := s.movePiece a x (elemPiece src dst (min (4096 / e) (total - i)) i)
  (p.1, p.2.doneAt (total * e))

/-- A remote operation of a command. AUXOP of a write or reduction carries its length (DESIGN CHOICE, log 22: R271 has the receiver gather
all flits of an operation and Table 10.4 names no field for its length). -/
def State.remoteOp (s : State) (cmd : Cmd) (op rop : BitVec 8) (stream : BitVec 5) (va auxop : Dword)
    (data : List Byte) (poison : List Nat := []) : RemoteOp :=
  { op := op, rop := rop, stream := stream, sctx := BitVec.ofNat 2 cmd.ctx, score := BitVec.ofNat 7 cmd.core
    seq := cmd.seq, src := s.fabid, dst := cmd.op.dest, vaddr := va, tag := BitVec.ofNat 64 cmd.serial
    auxop := auxop, data := data, poison := poison }

/-- Sends the operation of a transfer. -/
def State.sendXfer (s : State) (x : Xfer) (read : Bool) (op : RemoteOp) : State :=
  let ch := x.cmd.unit - 2
  s.sendOp { op := op, kind := if read then .read ch x.id else .channel ch x.id, core := x.cmd.core, ctx := x.cmd.ctx
             stage := .port 0, link := none, firstSent := none, issued := x.cmd.issued }

/-- A piece of the local read of `rput` and `rred`; once all is read the operation leaves. A read that fails sends an
operation without data, which writes nothing (R424). (DEDUCED, log 23.) -/
def State.pieceRemote (s : State) (a : Access) (x : Xfer) (op : BitVec 8) (rop : BitVec 8)
    (stream : BitVec 5) (src rdst ctl : Dword) : State × Xfer :=
  let sv := ctlSsp ctl != 0
  let at_ := x.buffer.length
  let sa := src.toNat + at_
  let n := min (min 4096 (ctlLenR ctl - at_)) (toPageEnd sv sa)
  let send (s : State) (x : Xfer) (bs : List Byte) (count : Nat) : State × Xfer :=
    let ps := x.poison
    let x := { x with stage := .sent, buffer := [], counted := count, told := false }
    (s.sendXfer x false (s.remoteOp x.cmd op rop stream rdst (BitVec.ofNat 64 bs.length) bs ps), x)
  if n = 0 then send s x x.buffer (ctlLenR ctl)
  else match s.readSide a sv sa n with
    | .data s bs p =>
      let b := x.buffer ++ bs
      let x := { x with poison := x.poison ++ p.map (· + at_) }
      if ctlLenR ctl ≤ b.length then send s x b (ctlLenR ctl) else (s, { x with buffer := b })
    | .fails cause b => send (s.deferFault x.cmd cause b) { x with poison := [] } [] 0
    | .held s => (s, { x with stage := .held (BitVec.ofNat 64 sa) })
    | .waits s => (s, x)
    | .host w h => s.askHost x (sv, sa, n) w true (.rdmaRead w.qp w.key h n)
    | .full va => s.tellFull x va

/-- ROP of a reduction: operator, and its TYPE above it (DESIGN CHOICE, log 24: Table 10.4 names no field for TYPE). -/
def redRop (op typ : Nat) : BitVec 8 := BitVec.ofNat 8 (op + 16 * (typ % 8))

/-- Stack whose atomic unit performs an atomic: that of the address, or the first of the die while no leaf is known. -/
def State.stackOf (s : State) (die va : Nat) : Nat :=
  match s.paOf die va with
  | some pa => bits pa 38 36
  | none => 4 * die

/-- An atomic unit of a die. -/
def LogUnit.isAtomic (u : LogUnit) (die : Nat) : Bool :=
  match u with
  | .atomic k => k / 4 == die
  | _ => false

/-- Atomic unit that takes an atomic: one whose log holds an entry of the page keeps the page (R108), else that of the stack.
(DEDUCED, log 30.) -/
def State.atomicUnit (s : State) (die va : Nat) : LogUnit :=
  let size := pageSize (((s.tlbFind die va).map (·.level)).getD 0)
  match s.sideLogs.find? (fun e => e.unit.isAtomic die && e.va.toNat / size == va / size) with
  | some e => e.unit
  | none => .atomic (s.stackOf die va)

/-- Performs a `vatom` (R426); a poisoned old value that is to be returned ends the context (R100). -/
def State.pieceAtomic (s : State) (die : Nat) (x : Xfer) (va v ctl e : Dword) : State × Xfer :=
  let n := ctlSize ctl
  let ret := ctlRet ctl
  let cmd := x.cmd
  let a : Access := { cmd.access die (s.atomicUnit die va.toNat) with
    serial := if ret then cmd.serial else 0, hold := if ctlHolds ctl then some cmd.serial else none }
  let finish (s : State) : State × Xfer := (s.performed cmd true, { x with stage := .finished, counted := n })
  let fail (s : State) (cause : BitVec 8) : State × Xfer :=
    ((s.deferFault cmd cause va.toNat).refillEngine cmd.core cmd.ctx cmd.serial |>.performed cmd false,
      { x with stage := .finished })
  if ret && !s.logFull a.log && s.xlate die va.toNat == .invalid then
    ({ s.takeMiss die va.toNat with faults := s.faults ++ [{ unit := a.log, va := va, migration := false }] },
      { x with stage := .held va })
  else match s.vStore a va.toNat (.atomic (atomicOf (ctlOp ctl)) (ctlWord ctl) v e) (leBytes v.toNat n) [] with
    | .done s old poison =>
      let p := finish s
      if !ret then p
      else if poison.isEmpty then (p.1.landEngine cmd.core cmd.ctx cmd.serial (dwordOf old), p.2)
      else (p.1.endPoison a true va.toNat n, p.2)
    | .logged s => finish s
    | .fails cause => fail s cause
    | .host _ => fail s causeXlatePerm
    | .waits s => (s, x)
    | .invalid s => (s, x)
    | .full b => s.tellFull x b

/-- A piece of a `rget`: its request leaves first; data that has come back is written locally (R427). -/
def State.pieceGet (s : State) (a : Access) (x : Xfer) (rsrc dst ctl : Dword) : State × Xfer :=
  if x.buffer.isEmpty then
    let len := if ctlDsp ctl == 2 then 8 else ctlLenR ctl
    let x := { x with stage := .sent }
    (s.sendXfer x true (s.remoteOp x.cmd opReadReq 0 0 rsrc (BitVec.ofNat 64 len) []), x)
  else
    let dv := ctlDsp ctl == 1
    let da := dst.toNat + x.moved
    let n := min (min 4096 (x.buffer.length - x.moved)) (toPageEnd dv da)
    match s.putSegs a [(dv, da, n)] { x with wrote := x.moved } with
    | (s, y, done) =>
      let m := y.wrote - x.moved
      let y := { y with moved := y.wrote, counted := y.counted + m, wrote := 0 }
      (s.event x.cmd.core 0x11 (segLines [(dv, da, m)]), if done then y.doneAt y.buffer.length else y)

/-- One piece of a transfer by engine `eng` of a die. -/
def State.piece (s : State) (die eng : Nat) (x : Xfer) : State × Xfer :=
  let a := x.cmd.access die (.copyEngine die eng)
  let x := { x with begun := true }
  match x.cmd.op with
  | .copy src dst ctl _ => s.pieceCopy a x src dst ctl
  | .copyTr8 .. | .copyTr16 .. | .copyNd .. =>
    if x.srcDesc.isEmpty || x.dstDesc.isEmpty then s.fetchDescs die x else s.pieceDesc a x
  | .rget rsrc dst ctl _ => s.pieceGet a x rsrc dst ctl
  | .vatom va v ctl e => s.pieceAtomic die x va v ctl e
  | .rput st src rdst ctl _ => s.pieceRemote a x opWrite 0 st src rdst ctl
  | .rred st src rdst ctl _ => s.pieceRemote a x opReduce (redRop (ctlOp ctl) (ctlTyp ctl)) st src rdst ctl
  | .ratom st rva v ctl e =>
    let x := { x with stage := .sent, counted := ctlSize ctl }
    (s.sendXfer x false (s.remoteOp x.cmd opAtomic (BitVec.ofNat 8 (ctlOp ctl)) st rva e
      (leBytes v.toNat (ctlSize ctl))), x)
  | .row st _ va _ _ =>
    let bs := x.buffer
    let x := { x with stage := .sent, buffer := [], counted := bs.length }
    (s.sendXfer x false (s.remoteOp x.cmd opWrite 0 st va (BitVec.ofNat 64 bs.length) bs x.poison), x)
  | _ => (s, { x with stage := .finished })

/-- The V-address of the next write of a command, or of its access. -/
def Xfer.nextVa (x : Xfer) : Nat :=
  match x.cmd.op with
  | .copy _ d _ _ | .rget _ d _ _ => d.toNat + x.moved
  | .copyTr8 .. | .copyTr16 .. | .copyNd .. =>
    if x.dstDesc.isEmpty then 0
    else descAddr x.dstDesc (pairElem x.cmd.op x.srcDesc (x.moved / descElem x.srcDesc))
  | .vatom va _ _ _ => va.toNat
  | .rput _ src _ _ _ | .rred _ src _ _ _ => src.toNat + x.buffer.length
  | _ => 0

/-- COPY_PIECE (R161): engine `engine` of a die takes the transfer that comes first. A stalled engine takes none; behind
engines that are all stalled the context of that transfer takes SIDELOG.FULL (R110). -/
def execCopyPiece (die engine : Nat) (s : State) : Host.Outcome State Fault Refusal :=
  .next (
    match s.pickXfer die with
    | some (c, ch, x) =>
      if s.logFull (.copyEngine die engine) then
        if (rangeFrom 0 16).all (fun n => s.logFull (.copyEngine die n)) then
          let p := s.tellFull x x.nextVa
          p.1.putXfer c ch p.2
        else s
      else
        let s := s.modXfer c ch x.id (fun x => { x with begun := true })
        let p := s.piece die engine x
        p.1.putXfer c ch p.2
    | none => s)

/-! ## Completion (R138, R420) -/

/-- A `mepi.rm` is complete once its last row is written and every row has committed (R138, R415). -/
def State.retireRows (s : State) (cmd : Cmd) : State :=
  let k := s.core cmd.core
  let busy := (match k.me with
    | some r => r.cmd.serial == cmd.serial
    | none => false) || k.buffers.any (fun p => p.2.any (fun x => match x.cmd.op with
      | .row _ _ _ _ q => q == cmd.serial
      | _ => false))
  if busy then s else s.retireCmd cmd

/-- The transfer completes (R138, R420, R423): it leaves its buffer, TDONE advances, the barrier word is told, a tile
becomes READY. Every command of a copy channel counts as a copy command, for event 0x10 and for sample 0x02 (R220, R221).
(DESIGN CHOICE, log 88.) -/
def State.copyComplete (s : State) (c ch : Nat) (x : Xfer) : State :=
  let xs := (tabGet [] (s.core c).buffers ch).filter (fun y => y.id != x.id)
  let s := s.modCore c (fun k => { k with
    buffers := tabSet [] k.buffers ch xs
    tdone := tabSet 0 k.tdone ch (match xs with
      | y :: _ => y.id
      | [] => tabGet 0 k.tnext ch) })
  let s := match x.cmd.op.fillTile with
    | some t => s.modTile c t (fun e => { e with state := .ready, epoch := e.epoch + 1 })
    | none => s
  let s := match x.cmd.op.barrier c with
    | some addr => s.reportBar c addr x.counted
    | none => s
  let s := (s.sample c 0x02 (s.cycle - x.accepted).toNat).event c 0x10 1
  match x.cmd.op with
  | .row _ _ _ _ parent => s.retireRows { x.cmd with serial := parent }
  | _ => s.retireCmd x.cmd

/-- COPY_COMPLETE (R138, R211, R423): a transfer whose last piece is done completes; any other stays as it is. -/
def execCopyComplete (core ch : Nat) (id : BitVec 32) (s : State) : Host.Outcome State Fault Refusal :=
  .next (match s.xfer core ch id with
    | some x => if x.stage == .finished then s.copyComplete core ch x else s
    | none => s)

end Sys2Proof.Machine
end

