-- ==== Sys2Proof/Machine/Cells.lean ====
section
/-!
DEFINITION. The cell array (15: R391-R400): format codes (Table 6.4), operand layout (R407), the flow of operands and
results, the microinstruction of a cell, the exact arithmetic of format mode (R239-R241).
-/

namespace Sys2Proof.Machine

/-! ## Format-table entries (Tables 6.3 and 6.4) -/

def entTscale (e : Dword) : Nat := bits e.toNat 63 48
def entNscale (e : Dword) : Nat := bits e.toNat 47 32
def entBlk (e : Dword) : Nat := bits e.toNat 27 26
def entSenc (e : Dword) : Bool := e.getLsbD 25
def entA (e : Dword) : Nat := bits e.toNat 23 20
def entB (e : Dword) : Nat := bits e.toNat 19 16
def entC (e : Dword) : Nat := bits e.toNat 15 12
def entO (e : Dword) : Nat := bits e.toNat 11 8
def entSat (e : Dword) : Bool := e.getLsbD 7
/-- Block length. -/
def blockLen (e : Dword) : Nat := 8 * 2 ^ entBlk e

/-- Bits of an element of a format code. -/
def fmtWidth : Nat → Nat
  | 0 | 6 => 32
  | 1 | 2 | 7 => 16
  | 3 | 4 | 8 => 8
  | _ => 4

/-- Integer formats (R408). -/
def isIntFmt (c : Nat) : Bool := 6 ≤ c && c ≤ 9

/-- Steps of one firing (R395). -/
def stepsPer (a b : Nat) : Nat :=
  if fmtWidth a = 4 && fmtWidth b = 4 then 4 else if 16 ≤ fmtWidth a || 16 ≤ fmtWidth b then 1 else 2

/-- The floating format of a code. -/
def floatFmt : Nat → FFmt
  | 1 => bf16 | 2 => fp16 | 3 => e4m3 | 4 => e5m2 | 5 => fp4 | _ => fp32

/-- Exact value of an element of a code that is neither OX4 nor block-scaled. -/
def elemVal (code n : Nat) : FVal :=
  if isIntFmt code then FVal.ofInt (sextNat (fmtWidth code) n) else (floatFmt code).decode n

/-- Codes and combination that an array operation accepts (R184, R185, R408). (DESIGN CHOICE, log 78.) -/
def fmtCombOk (e : Dword) : Bool :=
  let a := entA e
  let b := entB e
  let c := entC e
  let ints := isIntFmt a && isIntFmt b
  a ≤ 0xB && b ≤ 0xB && (c == 0 || c == 1 || c == 6) && (c == 6) == ints
    && !((10 ≤ a || 10 ≤ b) && entBlk e == 3)

/-- Bytes of a row of K elements (R407). -/
def rowBytes (code k nscale : Nat) : Nat :=
  if code = 0xB then ((k + 1) / 2 + 63) / 64 * 64 + 2 * nscale else (k * fmtWidth code + 7) / 8

/-! ## Operands (Tables 15.13 and 15.14, R407) -/

/-- An operand of an array operation. -/
structure Operand where
  core   : Nat
  src    : Nat
  tile   : Option Nat
  base   : Nat
  ext    : Nat
  rot    : Nat
  tpitch : Nat
  rpitch : Nat
  rows   : List Line

/-- An operand from its two words and, for SRC 1, the registers read at issue. -/
def operandOf (c : Nat) (w0 w1 : Dword) (rows : List Line) : Operand :=
  { core := c, src := bits w0.toNat 63 62
    tile := if w0.getLsbD 61 then some (bits w0.toNat 60 53) else none
    base := bits w0.toNat 29 0, ext := bits w1.toNat 63 56, rot := bits w1.toNat 55 53
    tpitch := bits w1.toNat 51 32, rpitch := bits w1.toNat 31 12, rows := rows }

/-- Bank offset of a row under a rotation. -/
def Operand.rotOff (o : Operand) (i : Nat) : Nat :=
  let g := 2 ^ (o.rot - 1)
  let r := i % 128
  o.base % 0x100000 + i / 128 * o.tpitch + (r / (8 * g) * g + r % g) * o.rpitch

/-- S-address of row i of a bank tile. -/
def Operand.rowAddr (o : Operand) (i : Nat) : Nat :=
  if o.rot = 0 then o.base + i / 128 * o.tpitch + i % 128 * o.rpitch
  else
    let bank := (bits o.base 22 20 + i % 128 / 2 ^ (o.rot - 1)) % 8
    o.core * 0x800000 + bank * 0x100000 + o.rotOff i

/-- Row i, of n bytes, lies outside the own slice or runs past the end of its bank (Table 15.15). -/
def Operand.rowOut (o : Operand) (i n : Nat) : Bool :=
  if o.rot = 0 then
    let a := o.rowAddr i
    a < o.core * 0x800000 || o.core * 0x800000 + 0x800000 < a + n || a / 0x100000 != (a + n - 1) / 0x100000
  else 0x100000 < o.rotOff i + n

/-- n bits at a bit offset of bytes from an address. -/
def State.bitsAt (s : State) (addr off n : Nat) : Nat :=
  leNat (s.sRead (addr + off / 8) ((off % 8 + n + 7) / 8)) / 2 ^ (off % 8) % 2 ^ n

/-- n bits at a bit offset of row i of an operand. -/
def State.operandBits (s : State) (o : Operand) (i off n : Nat) : Nat :=
  if o.src = 1 then (lane (o.rows.getD (8 * (off / 32) + i / 16) 0) (i % 16)).toNat / 2 ^ (off % 32) % 2 ^ n
  else s.bitsAt (o.rowAddr i) off n

/-! ## The array operation that runs -/

/-- Fields of the microcode store (Tables 15.1 and 15.7). -/
def ucWord (u : List Word) (i : Nat) : Nat := (u.getD i 0).toNat
def ucFlow (u : List Word) : Nat := bits (ucWord u 0) 2 0
def ucPack (u : List Word) : Nat := bits (ucWord u 0) 4 3
def ucSkr (u : List Word) : Nat := (bits (ucWord u 1) 4 2 + 1) % 8
def ucSkc (u : List Word) : Nat := (bits (ucWord u 2) 4 2 + 1) % 8
def ucInit (u : List Word) : Nat := bits (ucWord u 3) 4 2
def ucNoinit (u : List Word) : Bool := bits (ucWord u 3) 1 1 == 1
def ucPre (u : List Word) : Bool := bits (ucWord u 3) 0 0 == 1
/-- Writes word i of the microcode store; the reserved bits of words 1 and 2 are RO (Table 15.7). -/
def ucodePut (t : Tab Word) (i : Nat) (w : Word) : Tab Word :=
  tabSet 0 t i (if i = 1 || i = 2 then w &&& 0xFFFFFFFC else w)
/-- Slice offset of the preload area. -/
def ucPreoff (u : List Word) : Nat :=
  (ucWord u 4 % 32 + ucWord u 5 % 32 * 2 ^ 5 + ucWord u 6 % 32 * 2 ^ 10 + ucWord u 7 % 4 * 2 ^ 15) * 64
/-- The words of the program: up to the first LAST, or all eight (R391). -/
def ucProgram : List Word → List Word
  | [] => []
  | w :: t => if w.getLsbD 5 then [w] else w :: ucProgram t
/-- TY of a word. -/
def ucTy (w : Word) : Nat := bits w.toNat 7 6

/-- What an array operation works on: operands, region, flow, the pass and its place. -/
structure Geo where
  a    : Operand
  b    : Operand
  k    : Nat
  m    : Nat
  n    : Nat
  mrow : Nat
  mcol : Nat
  acc  : Bool
  prog : List Word
  fmt  : Bool
  pack : Nat
  flow : Nat
  skr  : Nat
  skc  : Nat
  init : Nat
  entry : Dword
  wa   : Nat
  wb   : Nat
  /-- Steps of a firing, block length, steps of a whole pass, steps done before this pass resumed. -/
  per  : Nat
  blk  : Nat
  steps : Nat
  done : Nat
  p    : Nat
  q    : Nat

/-- Number of 128-wide parts. -/
def parts (n : Nat) : Nat := (n + 127) / 128

/-- The array operation of a command. -/
def CeRun.geo (r : CeRun) : Geo :=
  match r.cmd.op with
  | .mstart a0 a1 b0 b1 rowsA rowsB _ _ =>
    let prog := ucProgram r.ucode
    let fmt := prog.any (fun w => ucTy w == 2)
    let ea := if fmt then entA r.entry else 6
    let eb := if fmt then entB r.entry else 6
    let per := if fmt then stepsPer ea eb else 1
    let k := bits a0.toNat 49 30 + 1
    let m := bits a1.toNat 63 56 + 1
    let n := bits b1.toNat 63 56 + 1
    let flow := ucFlow r.ucode
    { a := operandOf r.cmd.core a0 a1 rowsA, b := operandOf r.cmd.core b0 b1 rowsB, k := k, m := m, n := n
      mrow := bits b0.toNat 49 42, mcol := bits b0.toNat 41 34, acc := b0.getLsbD 50, prog := prog, fmt := fmt
      pack := ucPack r.ucode, flow := flow, skr := ucSkr r.ucode, skc := ucSkc r.ucode, init := ucInit r.ucode
      entry := r.entry, wa := fmtWidth ea, wb := fmtWidth eb, per := per, blk := blockLen r.entry
      steps := if flow = 1 then m else (k + per - 1) / per, done := r.done
      p := if flow = 0 then r.pass / parts n else if flow = 3 then r.pass else 0
      q := if flow = 0 then r.pass % parts n else if flow = 1 || flow = 4 then r.pass else 0 }
  | _ =>
    let o := operandOf r.cmd.core 0 0 []
    { a := o, b := o, k := 1, m := 1, n := 1, mrow := 0, mcol := 0, acc := false, prog := [], fmt := false, pack := 0
      flow := 0, skr := 0, skc := 0, init := 0, entry := 0, wa := 32, wb := 32, per := 1, blk := 8, steps := 0, done := 0
      p := 0, q := 0 }

/-- Passes of the operation (Table 15.9). -/
def Geo.passes (g : Geo) : Nat :=
  match g.flow with
  | 0 => parts g.m * parts g.n
  | 1 => parts g.n
  | 2 => 1
  | 3 => parts g.m
  | _ => parts g.n

/-- Ticks of the pass: those of the steps that remain, and the skew of the last cell (R399, R400). -/
def Geo.ticks (g : Geo) : Nat := g.steps - g.done + 127 * (g.skr + g.skc)

/-- One operand is block-scaled. -/
def Geo.scaledA (g : Geo) : Bool := g.fmt && entA g.entry == 0xB
def Geo.scaledB (g : Geo) : Bool := g.fmt && entB g.entry == 0xB
/-- The elements are decoded block by block. -/
def Geo.blocked (g : Geo) : Bool := g.fmt && (10 ≤ entA g.entry || 10 ≤ entB g.entry)
/-- Cells compute in 32-bit integers of format mode. -/
def Geo.intMode (g : Geo) : Bool := g.fmt && entC g.entry == 6

/-! ## Edge feeds (R399, R400) -/

/-- Row of operand A that feed x delivers in step j, and its first element; none where there is nothing to read. -/
def Geo.rowA (g : Geo) (x j : Nat) : Option (Nat × Nat) :=
  let k0 := j * g.per
  match g.flow with
  | 1 => if x * g.per < g.k then some (j, x * g.per) else none
  | 2 => if x < g.m then some (x, k0) else none
  | 4 => if 128 * g.q + x < g.n then some (128 * g.q + x, k0) else none
  | _ => if 128 * g.p + x < g.m then some (128 * g.p + x, k0) else none

/-- Row of operand B that feed x delivers in step j, and its first element. -/
def Geo.rowB (g : Geo) (x j : Nat) : Option (Nat × Nat) :=
  let k0 := j * g.per
  match g.flow with
  | 1 => none
  | 2 => if x < g.n then some (x, k0) else none
  | 3 => if 128 * g.p + x < g.m then some (128 * g.p + x, k0) else none
  | _ => if 128 * g.q + x < g.n then some (128 * g.q + x, k0) else none

/-- Step performed in a tick by what lags the pass by so many ticks (R399). -/
def Geo.stepLag (g : Geo) (lag tick : Nat) : Option Nat :=
  if lag ≤ tick && tick - lag < g.steps - g.done then some (g.done + tick - lag) else none

/-- Skew along the feeds of A and of B. -/
def Geo.skewA (g : Geo) : Nat := if g.flow = 4 then g.skc else g.skr
def Geo.skewB (g : Geo) : Nat := if g.flow = 3 then g.skr else g.skc

/-- Key of feed x in step j. -/
def feedKey (x j : Nat) : Nat := 2 ^ 20 * x + j

/-- Feeds of one operand that a tick delivers, with their keys and what they read: one to each edge cell that fires; in DIAG,
where every cell takes feeds of its own, to each cell (R399, Table 15.8). -/
def Geo.feeds (g : Geo) (skew tick : Nat) (line : Nat → Nat) (row : Nat → Nat → Option (Nat × Nat)) : List (Nat × Nat × Nat) :=
  if g.flow = 2 then (rangeFrom 0 16384).filterMap (fun i => match g.stepLag (i / 128 * g.skr + i % 128 * g.skc) tick with
    | some j => (row (line i) j).map (fun p => (feedKey i j, p))
    | none => none)
  else (rangeFrom 0 128).filterMap (fun x => match g.stepLag (skew * x) tick with
    | some j => (row x j).map (fun p => (feedKey x j, p))
    | none => none)

/-- The feeds of operand A and of operand B in a tick. -/
def Geo.feedsA (g : Geo) (tick : Nat) : List (Nat × Nat × Nat) := g.feeds g.skewA tick (· / 128) g.rowA
def Geo.feedsB (g : Geo) (tick : Nat) : List (Nat × Nat × Nat) := g.feeds g.skewB tick (· % 128) g.rowB

/-- The tick of the pass that delivers its last edge feed (R408): that of the last step on the last feed with a row.
(DEDUCED, log 43.) -/
def Geo.lastRead (g : Geo) : Nat :=
  let j := g.steps - 1
  if g.flow = 2 then
    j - g.done + max ((min g.m 128 - 1) * g.skr + 127 * g.skc) (127 * g.skr + (min g.n 128 - 1) * g.skc)
  else (rangeFrom 0 128).foldl (fun n x =>
    let n := if (g.rowA x j).isSome then max n (j - g.done + g.skewA * x) else n
    if (g.rowB x j).isSome then max n (j - g.done + g.skewB * x) else n) 0

/-- Bytes of row i that the block scales start at. -/
def Geo.scaleOff (g : Geo) : Nat := ((g.k + 1) / 2 + 63) / 64 * 64

/-- What one feed reads: the elements, the scale word of their block, and the bank reads as address and bits.
(DEDUCED, log 38.) -/
def State.readFeed (s : State) (g : Geo) (o : Operand) (w : Nat) (scaled : Bool) (row k0 : Nat) :
    Nat × BitVec 16 × List (Nat × Nat) :=
  let n := min g.per (g.k - k0) * w
  let addr := o.rowAddr row
  let sc := addr + g.scaleOff + 2 * (k0 / g.blk)
  (s.operandBits o row (k0 * w) n,
    if scaled then BitVec.ofNat 16 (leNat (s.sRead sc 2)) else 0,
    if o.src = 1 then []
    else (addr + k0 * w / 8, n) :: (if scaled && k0 % g.blk = 0 then [(sc, 16)] else []))

/-- Reads feeds of an operand: the elements and the scale words by key, and the bank reads. -/
def State.readAll (s : State) (g : Geo) (o : Operand) (w : Nat) (scaled : Bool) (fs : List (Nat × Nat × Nat)) (t : Tab Word)
    (u : Tab (BitVec 16)) : Tab Word × Tab (BitVec 16) × List (Nat × Nat) :=
  let rs := fs.map (fun p => (p.1, s.readFeed g o w scaled p.2.1 p.2.2))
  (tabSetAll 0 t (rs.map (fun r => (r.1, BitVec.ofNat 32 r.2.1))), tabSetAll 0 u (rs.map (fun r => (r.1, r.2.2.1))),
    rs.flatMap (fun r => r.2.2.2))

/-- Reads the feeds of a tick into the tables of the run; the reads come back. (DEDUCED, log 38.) -/
def State.readFeeds (s : State) (g : Geo) (r : CeRun) : CeRun × List (Nat × Nat) :=
  let a := s.readAll g g.a g.wa g.scaledA (g.feedsA r.tick) r.feedA r.scaleA
  let b := s.readAll g g.b g.wb g.scaledB (g.feedsB r.tick) r.feedB r.scaleB
  ({ r with feedA := a.1, scaleA := a.2.1, feedB := b.1, scaleB := b.2.1 }, a.2.2 ++ b.2.2)

/-- Cycles in which the reads of a tick take a bank, at 64 B a cycle. -/
def bankCycles (reads : List (Nat × Nat)) (b : Nat) : Nat :=
  ((reads.filter (fun p => p.1 / 0x100000 == b)).foldl (fun n p => n + p.2) 0 + 511) / 512

/-- Banks that the reads of a tick take. -/
def readBanks (reads : List (Nat × Nat)) : List Nat := distinct (reads.map (fun p => p.1 / 0x100000))

/-- Array cycles of a tick: the program length, or as many as its bank reads take at 64 B a cycle (R400).
(DEDUCED, log 37.) -/
def tickCycles (len : Nat) (reads : List (Nat × Nat)) : Nat :=
  (readBanks reads).foldl (fun n b => max n (bankCycles reads b)) len

/-- Banks of the core that the tile fetch of a tick takes in its next cycles, each as often as it has cycles left there: a
fetch takes the first cycles of its tick (R83). (DEDUCED, log 37.) -/
def fetchOf (reads : List (Nat × Nat)) : List Nat :=
  (readBanks reads).flatMap (fun b => List.replicate (bankCycles reads b) (b % 8))

/-- The banks that the fetch takes in the cycles after this one. -/
def fetchLeft (banks : List Nat) : List Nat := (distinct banks).foldl (fun l b => l.erase b) banks

/-! ## A cell -/

/-- A cell in a pass: its registers, the block scales that travel with out-A, out-B and L0, the elements of the block
so far (R399), and the flags it raised. (DEDUCED, log 39.) -/
structure SimCell where
  l0 : Word := 0
  l1 : Word := 0
  a  : Word := 0
  outA : Word := 0
  outB : Word := 0
  scA : BitVec 16 := 0
  scB : BitVec 16 := 0
  scL : BitVec 16 := 0
  blk : List (Nat × Nat) := []
  flags : BitVec 6 := 0
  deriving Inhabited

/-- Applies f to each field of fw bits. -/
def mapFields (fw : Nat) (f : Nat → Nat → Nat) (x y : Word) : Word :=
  BitVec.ofNat 32 ((rangeFrom 0 (32 / fw)).foldl (fun v i =>
    v + f (x.toNat / 2 ^ (fw * i) % 2 ^ fw) (y.toNat / 2 ^ (fw * i) % 2 ^ fw) % 2 ^ fw * 2 ^ (fw * i)) 0)

/-- Bits of a packed field (Table 15.7). -/
def packBits (pk : Nat) : Nat := if pk = 1 then 16 else if pk = 2 then 8 else 32

/-- A constant of Table 15.5, in every field where the accumulator is packed. (DEDUCED, log 40.) -/
def cellConst (fw ck : Nat) : Word :=
  match ck with
  | 1 => mapFields fw (fun _ _ => 1) 0 0
  | 2 => 0xFFFFFFFF
  | 3 => 0x3F800000
  | 4 => 0x7F800000
  | 5 => 0xFF800000
  | 6 => mapFields fw (fun _ _ => 2 ^ (fw - 1) - 1) 0 0
  | 7 => mapFields fw (fun _ _ => 2 ^ (fw - 1)) 0 0
  | _ => 0

/-- X < Y of two FP32 words; NV for a signalling NaN only (R236). -/
def cellLess (x y : Word) : Bool × BitVec 6 := ((floatTest 7 x y).1, (floatTest 6 x y).2)

/-- Combine result of TY 0 or 1 (Table 15.2). -/
def combine (ty fw comb : Nat) (x y l0 l1 : Word) : Word × BitVec 6 :=
  let int (f : Nat → Nat → Nat) : Word × BitVec 6 := (mapFields fw f x y, 0)
  let lt (u v : Nat) : Bool := sextNat fw u < sextNat fw v
  let flt (p : Bool × BitVec 6) (neg : Bool) : Word × BitVec 6 := (if p.1 != neg then 1 else 0, p.2)
  match comb with
  | 0x0 => if ty = 0 then f32Mul x y else int (fun u v => u * v)
  | 0x1 => if ty = 0 then f32Add x y else int (fun u v => u + v)
  | 0x2 => if ty = 0 then f32Sub x y else int (fun u v => u + 2 ^ fw - v)
  | 0x3 => if ty = 0 then f32MinMax false x y else int (fun u v => if lt v u then v else u)
  | 0x4 => if ty = 0 then f32MinMax true x y else int (fun u v => if lt u v then v else u)
  | 0x5 => (x &&& y, 0)
  | 0x6 => (x ||| y, 0)
  | 0x7 => (x ^^^ y, 0)
  | 0x8 => if ty = 0 then flt (floatTest 6 x y) false else int (fun u v => if u = v then 1 else 0)
  | 0x9 => if ty = 0 then flt (floatTest 6 x y) true else int (fun u v => if u = v then 0 else 1)
  | 0xA => (x, 0)
  | _ =>
    if ty = 0 then
      let p := cellLess x y
      (if p.1 then l0 else l1, p.2)
    else
      let mask := mapFields fw (fun u v => if lt u v then 2 ^ fw - 1 else 0) x y
      ((l0 &&& mask) ||| (l1 &&& ~~~ mask), 0)

/-- Accumulate of TY 0 or 1 (Table 15.3): the new A, the fields in which `sel` takes CR, flags. -/
def accumulate (ty fw acc : Nat) (a cr : Word) : Word × Word × BitVec 6 :=
  let int (f : Nat → Nat → Nat) : Word × Word × BitVec 6 := (mapFields fw f a cr, 0, 0)
  let lt (u v : Nat) : Bool := sextNat fw u < sextNat fw v
  match acc with
  | 0 => if ty = 0 then ((f32Add a cr).1, 0, (f32Add a cr).2) else int (fun u v => u + v)
  | 1 => if ty = 0 then ((f32MinMax false a cr).1, 0, (f32MinMax false a cr).2)
    else int (fun u v => if lt v u then v else u)
  | 2 => if ty = 0 then ((f32MinMax true a cr).1, 0, (f32MinMax true a cr).2)
    else int (fun u v => if lt u v then v else u)
  | 3 => (a ||| cr, 0, 0)
  | 4 => (a &&& cr, 0, 0)
  | 5 => (a, 0, 0)
  | 6 => (cr, 0, 0)
  | _ =>
    if ty = 0 then
      let p := cellLess cr a
      if p.1 then (cr, BitVec.allOnes 32, p.2) else (a, 0, p.2)
    else
      let mask := mapFields fw (fun u v => if lt v u then 2 ^ fw - 1 else 0) a cr
      ((cr &&& mask) ||| (a &&& ~~~ mask), mask, 0)

/-- Field of a microinstruction. -/
def ucField (w : Word) (hi lo : Nat) : Nat := bits w.toNat hi lo

/-- An output selection (Table 15.6): the value written to out-A or out-B with its block scale. (DEDUCED, log 39.) -/
def outSel (code : Nat) (inA inB : Word × BitVec 16) (c : SimCell) (cr : Word) : Option (Word × BitVec 16) :=
  match code with
  | 0 => some inA
  | 1 => some inB
  | 2 => some (c.l0, c.scL)
  | 3 => some (c.l1, 0)
  | 4 => some (c.a, 0)
  | 5 => some (cr, 0)
  | _ => none

/-- Writes the outputs that a microinstruction selects. -/
def writeOuts (w : Word) (inA inB : Word × BitVec 16) (cr : Word) (c : SimCell) : SimCell :=
  let a := (outSel (ucField w 15 13) inA inB c cr).getD (c.outA, c.scA)
  let b := (outSel (ucField w 12 10) inA inB c cr).getD (c.outB, c.scB)
  { c with outA := a.1, scA := a.2, outB := b.1, scB := b.2 }

/-- The write that LW selects (Table 15.1), after the accumulate. -/
def writeLocal (w : Word) (cr : Word) (c : SimCell) : SimCell :=
  match ucField w 9 8 with
  | 1 => { c with l0 := cr }
  | 2 => { c with l1 := cr }
  | 3 => { c with l0 := c.l1, l1 := cr }
  | _ => c

/-- One microinstruction of TY 0 or 1 (R394). -/
def microStep (pack : Nat) (inA inB : Word × BitVec 16) (c : SimCell) (w : Word) : SimCell :=
  let ty := ucTy w
  let fw := if ty = 0 then 32 else packBits pack
  let pick (code : Nat) : Word :=
    match code with
    | 0 => inA.1 | 1 => inB.1 | 2 => c.l0 | 3 => c.l1 | 4 => c.a
    | _ => cellConst fw (ucField w 18 16)
  let x := pick (ucField w 24 22)
  let y := pick (ucField w 21 19)
  let comb := ucField w 31 28
  let acc := ucField w 27 25
  let (cr, fc) := combine ty fw comb x y c.l0 c.l1
  let fused := ty = 0 && comb = 0 && acc = 0
  let (a, take, fa) := if fused then
      let p := f32Fma false false x y c.a
      (p.1, (0 : Word), p.2)
    else accumulate ty fw acc c.a cr
  let l1 := (c.l0 &&& take) ||| (c.l1 &&& ~~~ take)
  writeOuts w inA inB cr { writeLocal w cr { c with l1 := l1 } with
    a := a, flags := c.flags ||| (if fused then fa else fc ||| fa) }

/-! ## Format mode (R239-R241, R395) -/

/-- Values of a block of elements of a code, with the tag of their scale word, and whether a marker was malformed. -/
def blockVals (code tag B : Nat) (ns : List Nat) : List FVal × Bool :=
  let pad := ns ++ (rangeFrom 0 (B - ns.length)).map (fun _ => 0)
  if code = 0xA then decodeOx4 B 0 pad
  else if code = 0xB then
    match tag with
    | 0 => (pad.map fp4.decode, false)
    | 1 => (pad.map (fun n => FVal.ofInt (sextNat 4 n)), false)
    | 2 => decodeOx4 B 0 pad
    | _ => (pad.map (fun _ => .fin false 0 0), false)
  else (pad.map (elemVal code), false)

/-- Exact sum of products, with the flags of forming it. -/
def exactDot : List FVal → List FVal → FVal × BitVec 6
  | [], _ => (.fin false 0 0, 0)
  | _, [] => (.fin false 0 0, 0)
  | a :: as, b :: bs =>
    (as.zip bs).foldl (fun (acc : FVal × BitVec 6) p =>
      let m := p.1.mul p.2
      let v := acc.1.add m.1
      (v.1, acc.2 ||| m.2 ||| v.2)) (a.mul b)

/-- The accumulator after a whole block (R239), or element by element where no operand is scaled (R241).
(DEDUCED, log 39.) -/
def blockAcc (g : Geo) (acc : Word) (blk : List (Nat × Nat)) (scA scB : BitVec 16) : Word × BitVec 6 :=
  let one : FVal := .fin false 1 0
  let sa := if g.scaledA then decodeScale scA.toNat (entSenc g.entry) else (one, 0, 0)
  let sb := if g.scaledB then decodeScale scB.toNat (entSenc g.entry) else (one, 0, 0)
  let va := blockVals (entA g.entry) sa.2.1 g.blk (blk.map (·.1))
  let vb := blockVals (entB g.entry) sb.2.1 g.blk (blk.map (·.2))
  let mal : BitVec 6 := flagIf (va.2 || vb.2) flagMAL
  if g.scaledA || g.scaledB then
    let d := exactDot va.1 vb.1
    let sc := sa.1.mul sb.1
    let m := d.1.mul sc.1
    let v := (dec32 acc).add m.1
    let r := rne32 (v.1, 0)
    (r.1, mal ||| sa.2.2 ||| sb.2.2 ||| d.2 ||| sc.2 ||| m.2 ||| v.2 ||| r.2)
  else
    ((va.1.zip vb.1).take blk.length).foldl (fun (st : Word × BitVec 6) p =>
      let m := p.1.mul p.2
      let v := (dec32 st.1).add m.1
      let r := rne32 (v.1, 0)
      (r.1, st.2 ||| m.2 ||| v.2 ||| r.2)) (acc, mal)

/-- One firing in format mode: the elements k0 to k0 + P - 1 of A and B. `last` says that they end their block or the
row. LW and the outputs follow as in the other types; CR is a free value. (DESIGN CHOICE, log 69.) -/
def fmtStep (g : Geo) (k0 : Nat) (last : Bool) (inA inB : Word × BitVec 16) (y : Word × BitVec 16) (c : SimCell)
    (w : Word) : SimCell :=
  let el (v : Word) (wd i : Nat) : Nat := v.toNat / 2 ^ (wd * i) % 2 ^ wd
  let xs := (rangeFrom 0 (min g.per (g.k - k0))).map (fun i => (el inA.1 g.wa i, el y.1 g.wb i))
  let c :=
    if g.intMode then
      { c with a := xs.foldl (fun a p => a + BitVec.ofInt 32 (sextNat g.wa p.1 * sextNat g.wb p.2)) c.a }
    else if g.blocked then
      let blk := c.blk ++ xs
      if last then
        let r := blockAcc g c.a blk inA.2 y.2
        { c with a := r.1, blk := [], flags := c.flags ||| r.2 }
      else { c with blk := blk }
    else
      let r := blockAcc g c.a xs 0 0
      { c with a := r.1, flags := c.flags ||| r.2 }
  let cr := Config.formatCr g.entry inA.1 y.1
  writeOuts w inA inB cr (writeLocal w cr c)

/-! ## A pass -/

/-- Cells of the array by 128 * row + column. -/
abbrev Grid := Array SimCell

/-- The cell at (r, c). -/
def Grid.at (gr : Grid) (r c : Nat) : SimCell := gr.getD (128 * r + c) {}

/-- The edge feeds of a pass: by feed, the words and the scale words of A and of B by key. -/
structure EdgeFeeds where
  a  : Array (Tab Word)
  b  : Array (Tab Word)
  sa : Array (Tab (BitVec 16))
  sb : Array (Tab (BitVec 16))

/-- A table of feeds, by feed. -/
def byFeed {α : Type} (t : Tab α) : Array (Tab α) :=
  t.foldr (fun p ar => ar.modify (p.1 / 2 ^ 20) (p :: ·)) (Array.replicate 16384 [])

/-- The edge feeds that a run has read. -/
def CeRun.edge (r : CeRun) : EdgeFeeds :=
  { a := byFeed r.feedA, b := byFeed r.feedB, sa := byFeed r.scaleA, sb := byFeed r.scaleB }

/-- The inputs of cell (r, c) in step j (Table 15.8), from the outputs of the last tick and the edge feeds. -/
def Geo.inputs (g : Geo) (e : EdgeFeeds) (gr : Grid) (r c j : Nat) : (Word × BitVec 16) × (Word × BitVec 16) :=
  let fA (x : Nat) := (tabGet 0 (e.a.getD x []) (feedKey x j), tabGet 0 (e.sa.getD x []) (feedKey x j))
  let fB (x : Nat) := (tabGet 0 (e.b.getD x []) (feedKey x j), tabGet 0 (e.sb.getD x []) (feedKey x j))
  let west := gr.at r (c - 1)
  let north := gr.at (r - 1) c
  match g.flow with
  | 0 => (if c = 0 then fA r else (west.outA, west.scA), if r = 0 then fB c else (north.outB, north.scB))
  | 1 => (if c = 0 then fA r else (west.outA, west.scA), (0, 0))
  | 2 => (fA (128 * r + c), fB (128 * r + c))
  | 3 => (if c = 0 then fA r else (west.outA, west.scA), if c = 0 then fB r else (west.outB, west.scB))
  | _ => (if r = 0 then fA c else (north.outA, north.scA), if r = 0 then fB c else (north.outB, north.scB))

/-- Width of the fields that INIT and the accumulate of R401 see: those of the last word (Table 15.7).
(DEDUCED, log 40.) -/
def Geo.accBits (g : Geo) : Nat :=
  match g.prog.getLast? with
  | some w => if ucTy w == 1 then packBits g.pack else 32
  | none => 32

/-- What a cell takes over before it fires (Table 15.8). -/
def Geo.before (g : Geo) (gr : Grid) (r c : Nat) (me : SimCell) : SimCell :=
  match g.flow with
  | 1 =>
    if r = 0 then { me with a := cellConst g.accBits g.init, blk := [] }
    else { me with a := (gr.at (r - 1) c).outB, blk := (gr.at (r - 1) c).blk }
  | 2 =>
    let l0 := if r = 0 || c = 0 then me.l0 else (gr.at (r - 1) (c - 1)).outA
    let l1 := if c = 0 then me.l1 else (gr.at r (c - 1)).outA
    { me with l0 := l0, l1 := l1, a := if r = 0 then me.a else (gr.at (r - 1) c).outA }
  | _ => me

/-- Cell (r, c) in a tick: it fires its step, if it has one there (R399). (DEDUCED, log 39.) -/
def Geo.fire (g : Geo) (e : EdgeFeeds) (gr : Grid) (tick r c : Nat) : SimCell :=
  let me := gr.at r c
  let lag := r * g.skr + c * g.skc
  if tick < lag || g.steps - g.done ≤ tick - lag then me
  else
    let j := g.done + tick - lag
    let k0 := if g.flow = 1 then r * g.per else j * g.per
    if g.flow = 1 && g.k ≤ k0 then
      { me with outB := (gr.at (r - 1) c).outB, scB := (gr.at (r - 1) c).scB, blk := (gr.at (r - 1) c).blk }
    else
      let io := g.inputs e gr r c j
      let me := g.before gr r c me
      if g.fmt then
        let last := (k0 + g.per) % g.blk = 0 || g.k ≤ k0 + g.per
        let y := if g.flow = 1 then (me.l0, me.scL) else io.2
        match g.prog with
        | w :: _ => fmtStep g k0 last io.1 io.2 y me w
        | [] => me
      else g.prog.foldl (microStep g.pack io.1 io.2) me

/-- Cell numbers. -/
def cellIx : List Nat := rangeFrom 0 16384

/-- All cells in one tick: each sees the outputs of the last one (R392). -/
def Geo.tick (g : Geo) (e : EdgeFeeds) (gr : Grid) (t : Nat) : Grid :=
  (cellIx.map (fun i => g.fire e gr t (i / 128) (i % 128))).toArray

/-- What a pass leaves: the grid, and the values captured on the way, by key. -/
structure PassOut where
  grid : Grid
  caps : Tab Word

/-- Captures a value of each cell in the tick of its step `at_`: A of the cell (a drain), or out-B of the last row of
WS in every step. -/
def Geo.capture (g : Geo) (at_ : Option Nat) (gr : Grid) (t : Nat) (caps : Tab Word) : Tab Word :=
  match at_ with
  | some j =>
    cellIx.foldl (fun caps i =>
      if t + g.done = j + i / 128 * g.skr + i % 128 * g.skc then tabPut caps i (gr.at (i / 128) (i % 128)).a else caps) caps
  | none =>
    if g.flow = 1 then
      (rangeFrom 0 128).foldl (fun caps c =>
        let lag := 127 * g.skr + c * g.skc
        if lag ≤ t && t - lag < g.steps then tabPut caps (128 * (t - lag) + c) (gr.at 127 c).outB else caps) caps
    else caps

/-- Runs n ticks from tick t on feeds. -/
def Geo.runOn (g : Geo) (e : EdgeFeeds) (at_ : Option Nat) : Nat → Nat → PassOut → PassOut
  | 0, _, o => o
  | n + 1, t, o =>
    let gr := g.tick e o.grid t
    g.runOn e at_ n (t + 1) { grid := gr, caps := g.capture at_ gr t o.caps }

/-- Runs n ticks from tick t. -/
def Geo.run (g : Geo) (r : CeRun) (at_ : Option Nat) (n t : Nat) (o : PassOut) : PassOut := g.runOn r.edge at_ n t o

/-- The grid of a core's cells at pass start, with the block scales of the weights. -/
def gridOf (k : Core) (r : CeRun) : Grid :=
  (cellIx.map (fun i =>
    let c := tabGet {} k.cells i
    ({ l0 := c.l0, l1 := c.l1, a := c.a, outA := c.outA, outB := c.outB, scL := tabGet 0 r.scaleW i } : SimCell))).toArray

/-- The cells of a grid. -/
def cellsOf (gr : Grid) : Tab Cell :=
  cellIx.filterMap (fun i =>
    let c := gr.getD i {}
    let v : Cell := { l0 := c.l0, l1 := c.l1, a := c.a, outA := c.outA, outB := c.outB }
    if v = {} then none else some (i, v))

/-- Flags of all cells (R396). -/
def gridFlags (gr : Grid) : BitVec 6 := gr.foldl (fun f c => f ||| c.flags) 0

/-! ## Results into the MAS (R401) -/

/-- One result word with the tensor scale and the rounding of CFMT. -/
def Geo.finish (g : Geo) (v : Word) : Word × BitVec 6 :=
  let (v, f) := if g.scaledA || g.scaledB then
      let m := (dec32 v).mul (bf16.decode (entTscale g.entry))
      let r := rne32 (m.1, 0)
      (r.1, m.2 ||| r.2)
    else (v, 0)
  if g.fmt && entC g.entry == 1 then
    let r := bf16.round .rne false (dec32 v)
    (BitVec.ofNat 32 (r.1 * 65536), f ||| r.2)
  else (v, f)

/-- The word a result leaves in the MAS: it overwrites, or it is combined as the last microinstruction accumulates.
(DEDUCED, log 40.) -/
def Geo.intoMas (g : Geo) (old v : Word) : Word × BitVec 6 :=
  if !g.acc then (v, 0)
  else match g.prog.getLast? with
    | none => (v, 0)
    | some w =>
      let ty := if ucTy w == 2 then (if g.intMode then 1 else 0) else ucTy w
      let acc := ucField w 27 25
      let r := accumulate ty g.accBits (if acc = 7 then 1 else acc) old v
      (r.1, r.2.2)

/-- The results of the pass: row and column of the region, and the word. -/
def Geo.results (g : Geo) (o : PassOut) : List (Nat × Nat × Word) :=
  let inRegion (p : Nat × Nat × Word) : Bool := p.1 < g.m && p.2.1 < g.n
  (if g.flow = 1 then
    o.caps.map (fun p => (p.1 / 128, 128 * g.q + p.1 % 128, p.2))
  else cellIx.map (fun i =>
    (128 * g.p + i / 128, 128 * g.q + i % 128, (o.grid.getD i {}).a))).filter inRegion

/-- DIRTYMAP.MAS of a context (R76, R94). -/
def Ctx.dirtyMas (cx : Ctx) : Ctx := cx.dirty 35

/-- Rows of the MAS were written on behalf of a context: P, CTX, DIRTYMAP.MAS (R93, R94). -/
def State.masRows (s : State) (c x : Nat) (rows : List Nat) (p : Bool) : State :=
  if rows.isEmpty then s
  else (s.modCore c (fun k => { k with
    masP := rows.foldl (fun t r => tabSet false t r p) k.masP
    masCtx := rows.foldl (fun t r => tabSet 0 t r (BitVec.ofNat 2 x)) k.masCtx })).modCtx c x Ctx.dirtyMas

/-- Writes results into the MAS and ORs the flags into ACFLAGS (R401, R70). -/
def State.masWrite (s : State) (c x : Nat) (g : Geo) (rs : List (Nat × Nat × Word)) : State :=
  let go (acc : Tab Word × BitVec 6) (p : Nat × Nat × Word) : Tab Word × BitVec 6 :=
    let key := 256 * (g.mrow + p.1) + g.mcol + p.2.1
    let v := g.finish p.2.2
    let w := g.intoMas (tabGet 0 acc.1 key) v.1
    (tabSet 0 acc.1 key w.1, acc.2 ||| v.2 ||| w.2)
  let r := rs.foldl go ((s.core c).mas, 0)
  let s := s.modCore c (fun k => { k with mas := r.1 })
  let s := s.modCtx c x (fun cx => cx.raiseFlags r.2)
  s.masRows c x (distinct (rs.map (fun p => g.mrow + p.1))) false

end Sys2Proof.Machine
end

