-- ==== Sys2Proof/Machine/Array.lean ====
section
/-!
DEFINITION. The ce, me and ft units (15: R402-R416): checks and pushes of their triggers, acceptance, what each array
cycle does, due points, K-chunk drains (R410), `mstart.g` (R411), the epilogue (R413-R415).
-/

namespace Sys2Proof.Machine

/-! ## Triggers -/

/-- Operand ports of ft, ce and me. -/
def ftPorts : List Nat := [0x258]
def cePorts : List Nat := [0x2C0, 0x2C1, 0x2C2]
def mePorts : List Nat := [0x2D0, 0x2D1, 0x2D2]

/-- The first of the checks that fails, as a cause. -/
def causeIf (b : Bool) (c : BitVec 8) (aux addr : Nat) : Option Cause := if b then some (c, aux, addr) else none

/-- A region word breaks the bounds of the MAS (Table 15.14). -/
def regionBad (w : Dword) : Bool :=
  256 < bits w.toNat 7 0 + bits w.toNat 23 16 + 1 || 256 < bits w.toNat 15 8 + bits w.toNat 31 24 + 1

/-- Rows and columns of a region word. -/
def regRow (w : Dword) : Nat := bits w.toNat 7 0
def regCol (w : Dword) : Nat := bits w.toNat 15 8
def regM (w : Dword) : Nat := bits w.toNat 23 16 + 1
def regN (w : Dword) : Nat := bits w.toNat 31 24 + 1

/-- A command of the ce unit. -/
def ceOp (needs : List Nat) (mk : Arg → CmdOp) (bad : Arg → Bool) (traps : Arg → Option Cause) : Op :=
  { ports := cePorts, needs := fun _ => needs, weight := 2, access := true
    illegal := fun a => if bad a then some a.port else none
    traps := traps, unit := fun _ => some 0
    act := fun a s => s.pushCmd a 0 (mk a) 0 }

/-- The checks of `cld` and `cst` (R405). -/
def cellMoveOp (mk : Arg → CmdOp) : Op :=
  ceOp [0x2C0] mk (fun a => a.val.toNat % 4 == 3) (fun a =>
    let base := a.x1.toNat
    let rp := bits a.val.toNat 31 12
    let own := a.core * 0x800000
    firstOf [
      causeIf (base % 64 != 0 || rp % 64 != 0 || rp < 512) causeAlign 6 base,
      causeIf (base < own || own + 0x800000 < base + 127 * rp + 512) causeTileBounds 6 base])

/-- Lines of the v registers that an SRC 1 operand takes (R407), at 8 * word + cluster. -/
def operandRows (cx : Ctx) (w0 : Dword) (words : Nat) : List Line :=
  if bits w0.toNat 63 62 = 1 then
    (rangeFrom 0 words).flatMap (fun w => (rangeFrom 0 8).map (fun cl => cx.readV cl (bits w0.toNat 5 0 + w)))
  else []

/-- Full/empty keys of the same registers. -/
def operandKeys (w0 : Dword) (words : Nat) : List Nat :=
  if bits w0.toNat 63 62 = 1 then
    (rangeFrom 0 words).flatMap (fun w => (rangeFrom 0 8).map (fun cl => vEmptyKey cl (bits w0.toNat 5 0 + w)))
  else []

/-- K of an `mstart`, and the words of a row of SRC 1. -/
def mstartK (a : Arg) : Nat := bits a.x1.toNat 49 30 + 1
def rowWords (code k : Nat) : Nat := (k * fmtWidth code + 31) / 32

/-- SLOT.ILLEGAL of one operand (Table 15.15). -/
def operandBad (s : State) (c : Nat) (w0 w1 : Dword) (code k : Nat) : Bool :=
  let o := operandOf c w0 w1 []
  2 ≤ o.src || 4 < o.rot
    || (match o.tile with
      | some t => !(s.tile c t).v
      | none => false)
    || (o.src == 1 && (127 < o.ext || 63 < bits w0.toNat 5 0 + rowWords code k - 1 || code == 0xB))

/-- ALIGN of one operand. -/
def operandAlign (c : Nat) (w0 w1 : Dword) : Option Cause :=
  let o := operandOf c w0 w1 []
  causeIf (o.src == 0 && (o.base % 64 != 0 || o.tpitch % 64 != 0 || o.rpitch % 64 != 0)) causeAlign 6 o.base

/-- TILE.BOUNDS of one operand. -/
def operandBounds (c : Nat) (w0 w1 : Dword) (code k nscale : Nat) : Option Cause :=
  let o := operandOf c w0 w1 []
  causeIf (o.src == 0 && (rangeFrom 0 (o.ext + 1)).any (fun i => o.rowOut i (rowBytes code k nscale)))
    causeTileBounds 6 o.base

/-- `mstart` and `mstart.g` (R406-R408, R411). -/
def mstartOp (gang : Bool) : Op :=
  let e (a : Arg) := a.fmtEntry
  { ports := cePorts, needs := fun _ => cePorts, weight := 2, access := true
    fmtWait := Arg.fmtPending
    illegal := fun a =>
      let k := mstartK a
      if operandBad a.pre a.core a.x1 a.x2 (entA (e a)) k || operandBad a.pre a.core a.x3 a.val (entB (e a)) k
          || 256 < bits a.x3.toNat 49 42 + bits a.x2.toNat 63 56 + 1
          || 256 < bits a.x3.toNat 41 34 + bits a.val.toNat 63 56 + 1 || !fmtCombOk (e a)
      then some a.port else none
    dests := fun a =>
      operandKeys a.x1 (rowWords (entA (e a)) (mstartK a)) ++ operandKeys a.x3 (rowWords (entB (e a)) (mstartK a))
    traps := fun a =>
      let k := mstartK a
      let ns := entNscale (e a)
      let few (code : Nat) : Bool := code == 0xB && ns < (k + blockLen (e a) - 1) / blockLen (e a)
      firstOf [
        operandAlign a.core a.x1 a.x2, operandAlign a.core a.x3 a.val,
        operandBounds a.core a.x1 a.x2 (entA (e a)) k ns, operandBounds a.core a.x3 a.val (entB (e a)) k ns,
        causeIf (few (entA (e a)) || few (entB (e a))) causeFmtScales 0 a.port]
    unit := fun _ => some 0
    gate := fun a =>
      match ([(operandOf a.core a.x1 a.x2 []).tile, (operandOf a.core a.x3 a.val []).tile].filterMap id).find?
          (fun t => (a.pre.tile a.core t).state != .ready) with
      | some t => .block (.tileReady t)
      | none => .go
    act := fun a s =>
      let k := mstartK a
      let i := s.nextId
      let tiles := ([(operandOf a.core a.x1 a.x2 []).tile, (operandOf a.core a.x3 a.val []).tile]).filterMap id
      let s := s.modCore a.core (fun c => { c with tileUse := c.tileUse ++ tiles.map (fun t => (t, i)) })
      let member : Option (Nat × Nat) := match s.stepOf a.core a.ctx with
        | some t => if gang && 1 < (s.steps.filter (fun (u : TileStep) => u.task == t.task && u.inst == t.inst)).length
          then some (t.id, t.groupCmds) else none
        | none => none
      let s := match member with
        | some (t, _) => s.modStep t (fun t => { t with groupCmds := t.groupCmds + 1 })
        | none => s
      s.pushCmd a 0 (.mstart a.x1 a.x2 a.x3 a.val
        (operandRows a.cx a.x1 (rowWords (entA (e a)) k)) (operandRows a.cx a.x3 (rowWords (entB (e a)) k))
        a.cx.fmtIndex (member.map (fun (p : Nat × Nat) => p.2))) 0 }

/-- Destination word of the local me operations (R413). -/
def meAddr (w : Dword) : Nat := bits w.toNat 29 0
def mePitch (w : Dword) : Nat := bits w.toNat 49 30

/-- Codes that the epilogue accepts in CFMT and OFMT (R184, R185, R414). -/
def epiFmtOk (e : Dword) : Bool := entO e ≤ 9 && (entC e == 0 || entC e == 1 || entC e == 6)

/-- A local operation of the me unit; `width` gives the bits of a written element. -/
def meOp (mk : Arg → CmdOp) (fmt : Bool) (width : Arg → Nat) : Op :=
  { ports := mePorts, needs := fun _ => [0x2D0, 0x2D1], weight := 2, access := true
    fmtWait := fun a => fmt && a.fmtPending
    illegal := fun a => if regionBad a.x1 || (fmt && !epiFmtOk a.fmtEntry) then some a.port else none
    traps := fun a =>
      let addr := meAddr a.x2
      let rb := (regN a.x1 * width a + 7) / 8
      firstOf [
        causeIf (sTop < addr + (regM a.x1 - 1) * mePitch a.x2 + rb) causeSaddrRange 6 addr,
        causeIf (addr % 64 != 0 || mePitch a.x2 % 64 != 0) causeAlign 6 addr]
    unit := fun _ => some 1
    act := fun a s => s.pushCmd a 1 (mk a) 0 }

/-- Fields of the remote word (Table 15.17). -/
def rwPitch (w : Dword) : Nat := bits w.toNat 39 20
def rwCh (w : Dword) : Nat := bits w.toNat 18 16
def rwStream (w : Dword) : BitVec 5 := w.extractLsb' 11 5
def rwDest (w : Dword) : BitVec 11 := w.extractLsb' 0 11

/-- `fmt.wr` (R416). -/
def opFmtWr : Op :=
  { ports := ftPorts, needs := fun _ => ftPorts, weight := 2, access := true, unit := fun _ => some 14
    act := fun a s => s.pushCmd a 14 (.fmtWr a.x1 a.val) 0 }
/-- FMT_WR: issue of its slot. -/
def execFmtWr (m : Mv) (s : State) : Host.Outcome State Fault Refusal :=
  issueTrigger m 0x259 opFmtWr s

/-- `cprog` (R402, R404). -/
def opCprog : Op :=
  ceOp [] (fun a => .cprog a.val) (fun _ => false) (fun a => addrCause a.pre a.val.toNat 32 false)
/-- CPROG: issue of its slot. -/
def execCprog (m : Mv) (s : State) : Host.Outcome State Fault Refusal :=
  issueTrigger m 0x2C4 opCprog s

/-- `cflow` (R402, R404). -/
def opCflow : Op :=
  ceOp [] (fun a => .cflow a.val) (fun a => 5 ≤ a.val.toNat % 8) (fun a =>
    let off := bits a.val.toNat 25 9 * 64
    causeIf (a.val.getLsbD 8 && 0x800000 < off + 0x30000) causeTileBounds 6 (a.core * 0x800000 + off))
/-- CFLOW: issue of its slot. -/
def execCflow (m : Mv) (s : State) : Host.Outcome State Fault Refusal :=
  issueTrigger m 0x2C5 opCflow s

/-- `cskew` (R402, R404). -/
def opCskew : Op :=
  ceOp [] (fun a => .cskew a.val) (fun _ => false) (fun _ => none)
/-- CSKEW: issue of its slot. -/
def execCskew (m : Mv) (s : State) : Host.Outcome State Fault Refusal :=
  issueTrigger m 0x2C6 opCskew s

/-- `cld` (R405). -/
def opCld : Op :=
  cellMoveOp (fun a => .cld a.x1 a.val)
/-- CLD: issue of its slot. -/
def execCld (m : Mv) (s : State) : Host.Outcome State Fault Refusal :=
  issueTrigger m 0x2C7 opCld s

/-- `cst` (R405). -/
def opCst : Op :=
  cellMoveOp (fun a => .cst a.x1 a.val)
/-- CST: issue of its slot. -/
def execCst (m : Mv) (s : State) : Host.Outcome State Fault Refusal :=
  issueTrigger m 0x2C8 opCst s

/-- `mstart` (R406-R408). -/
def opMstart : Op :=
  mstartOp false
/-- MSTART: issue of its slot. -/
def execMstart (m : Mv) (s : State) : Host.Outcome State Fault Refusal :=
  issueTrigger m 0x2C9 opMstart s

/-- `mstart.g` (R411). -/
def opMstartG : Op :=
  mstartOp true
/-- MSTART_G: issue of its slot. -/
def execMstartG (m : Mv) (s : State) : Host.Outcome State Fault Refusal :=
  issueTrigger m 0x2CA opMstartG s

/-- `mzero` (R412). -/
def opMzero : Op :=
  ceOp [] (fun a => .mzero a.val) (fun a => regionBad a.val) (fun _ => none)
/-- MZERO: issue of its slot. -/
def execMzero (m : Mv) (s : State) : Host.Outcome State Fault Refusal :=
  issueTrigger m 0x2CB opMzero s

/-- `mdrain` (R413, R414). -/
def opMdrain : Op :=
  meOp (fun a => .mdrain a.x1 a.x2 a.val) false (fun _ => 32)
/-- MDRAIN: issue of its slot. -/
def execMdrain (m : Mv) (s : State) : Host.Outcome State Fault Refusal :=
  issueTrigger m 0x2D4 opMdrain s

/-- `mepi` (R413, R414). -/
def opMepi : Op :=
  meOp (fun a => .mepi a.x1 a.x2 a.val a.cx.fmtIndex) true (fun a => fmtWidth (entO a.fmtEntry))
/-- MEPI: issue of its slot. -/
def execMepi (m : Mv) (s : State) : Host.Outcome State Fault Refusal :=
  issueTrigger m 0x2D5 opMepi s

/-- `mepi.acc` (R413, R414). -/
def opMepiAcc : Op :=
  meOp (fun a => .mepiAcc a.x1 a.x2 a.val a.cx.fmtIndex) true (fun a => fmtWidth (entO a.fmtEntry))
/-- MEPI_ACC: issue of its slot. -/
def execMepiAcc (m : Mv) (s : State) : Host.Outcome State Fault Refusal :=
  issueTrigger m 0x2D6 opMepiAcc s

/-- `mepi.rm` (R415). -/
def opMepiRm : Op :=
  { ports := mePorts, needs := fun _ => mePorts, weight := 2, access := true
    fmtWait := Arg.fmtPending
    illegal := fun a => if regionBad a.x1 || !epiFmtOk a.fmtEntry then some a.port else none
    traps := fun a => firstOf [
      causeIf (a.x2.toNat % 64 != 0 || rwPitch a.x3 % 64 != 0) causeAlign 6 a.x2.toNat,
      causeIf (2 ^ 52 ≤ a.x2.toNat) causeXlatePerm 1 a.x2.toNat]
    unit := fun _ => some 1
    act := fun a s => s.pushCmd a 1 (.mepiRm a.x1 a.x2 a.x3 a.val a.cx.fmtIndex) 0 }
/-- MEPI_RM: issue of its slot. -/
def execMepiRm (m : Mv) (s : State) : Host.Outcome State Fault Refusal :=
  issueTrigger m 0x2D7 opMepiRm s

/-! ## Acceptance (R157, R187, R403, R409) -/

/-- Format-table index that a ce or me command reads at acceptance. -/
def CmdOp.fmtIx : CmdOp → Option Nat
  | .mstart _ _ _ _ _ _ ix _ | .mepi _ _ _ ix | .mepiAcc _ _ _ ix | .mepiRm _ _ _ _ ix => some ix
  | _ => none

/-- A write to the entry, pushed before the command, waits in the context's ft queue (R187). -/
def State.fmtAhead (s : State) (cmd : Cmd) : Bool :=
  match cmd.op.fmtIx with
  | none => false
  | some ix => (tabGet [] (s.core cmd.core).queues (4 * 14 + cmd.ctx)).any (fun d => match d.op with
    | .fmtWr _ i => i.toNat % 16 == ix && d.serial < cmd.serial
    | _ => false)

/-- A command that read the entry at issue and is not yet accepted holds a later write to it (R408). -/
def State.fmtReader (s : State) (cmd : Cmd) (ix : Nat) : Bool :=
  [0, 1].any (fun u => (tabGet [] (s.core cmd.core).queues (4 * u + cmd.ctx)).any (fun d =>
    d.op.fmtIx == some ix && d.serial < cmd.serial))

/-- Microcode words of a core. -/
def Core.ucodeWords (k : Core) : List Word := (rangeFrom 0 8).map (tabGet 0 k.ucode)

/-- A word holds a reserved code (R409). -/
def wordReserved (w : Word) : Bool :=
  0xC ≤ ucField w 31 28 || 6 ≤ ucField w 24 22 || 6 ≤ ucField w 21 19 || ucField w 15 13 == 7
    || ucField w 12 10 == 7 || ucTy w == 3

/-- A program of TY 2 that R395 admits under the flow. -/
def fmtProgOk (prog : List Word) (flow : Nat) : Bool :=
  match prog with
  | [w] => ucField w 31 28 == 0 && ucField w 27 25 == 0 && ucField w 24 22 == 0
      && ((flow == 0 && ucField w 21 19 == 1) || (flow == 1 && ucField w 21 19 == 2))
  | _ => false

/-- The command is discarded at acceptance (R409). -/
def CeRun.bad (r : CeRun) : Bool :=
  let g := r.geo
  let src1 (src code : Nat) : Bool := src == 1 && !g.fmt && fmtWidth code != 32
  g.prog.any wordReserved || (g.fmt && !fmtProgOk g.prog g.flow)
    || (match g.flow with
      | 1 => 128 * g.per < g.k
      | 2 => 128 < g.m || 128 < g.n
      | 3 => 128 < g.n
      | 4 => 128 < g.m
      | _ => false)
    || g.pack == 3 || 5 ≤ g.flow
    || src1 g.a.src (entA r.entry) || src1 g.b.src (entB r.entry)

/-- A context that consumes poison in a cell-array fetch ends (R260). -/
def State.consumeReads (s : State) (c x : Nat) (reads : List (Nat × Nat)) : State :=
  match reads.find? (fun p => s.anyPoison p.1 ((p.2 + 7) / 8)) with
  | some p => s.consume c x p.1 ((p.2 + 7) / 8)
  | none => s

/-- Enters a tick of a pass: its feeds are read, and its tile fetch takes their banks (R83). (DEDUCED, log 37.) -/
def State.ceTick (s : State) (r : CeRun) : State :=
  let g := r.geo
  let p := s.readFeeds g r
  let len := max 1 g.prog.length
  let r := { p.1 with stage := .tick, wait := tickCycles len p.2 }
  let s := s.consumeReads r.cmd.core r.cmd.ctx p.2
  s.modCore r.cmd.core (fun k => { k with ce := some r, fetchBanks := fetchOf p.2 })

/-- A of cell i in a resumed pass: the word of its P row, or INIT where it lies outside the region (R410). -/
def State.resumeA (s : State) (g : Geo) (c i : Nat) : Word :=
  if g.m ≤ 128 * g.p + i / 128 || g.n ≤ 128 * g.q + i % 128 then cellConst g.accBits g.init
  else tabGet 0 (s.core c).mas (256 * (g.mrow + 128 * g.p + i / 128) + g.mcol + 128 * g.q + i % 128)

/-- Loads of a pass (R398, R399): cells take the preload area, INIT or the P rows; WS loads its weights.
(DEDUCED, log 38.) -/
def State.passLoad (s : State) (r : CeRun) : State × CeRun :=
  let g := r.geo
  let c := r.cmd.core
  let area := c * 0x800000 + ucPreoff r.ucode
  let init := cellConst g.accBits g.init
  let word (n i : Nat) : Word :=
    BitVec.ofNat 32 (leNat (s.sRead (area + 0x10000 * n + 512 * (i / 128) + 4 * (i % 128)) 4))
  let weight (i : Nat) : Nat × BitVec 16 :=
    let row := 128 * g.q + i % 128
    let k0 := i / 128 * g.per
    if g.n ≤ row || g.k ≤ k0 then (0, 0)
    else
      let f := s.readFeed g g.b g.wb g.scaledB row k0
      (f.1, f.2.1)
  let one (i : Nat) : Cell :=
    let old := tabGet {} (s.core c).cells i
    let base : Cell :=
      if r.done ≠ 0 then { l0 := 0, l1 := 0, a := s.resumeA g c i, outA := 0, outB := 0 }
      else if ucPre r.ucode then { l0 := word 0 i, l1 := word 1 i, a := word 2 i, outA := 0, outB := 0 }
      else if ucNoinit r.ucode then { old with outA := 0, outB := 0 }
      else { l0 := 0, l1 := 0, a := init, outA := 0, outB := 0 }
    if g.flow = 1 then { base with l0 := BitVec.ofNat 32 (weight i).1 } else base
  let cells := cellIx.filterMap (fun i => let v := one i; if v = {} then none else some (i, v))
  let scales := if g.flow = 1 && g.scaledB then
      cellIx.filterMap (fun i => if (weight i).2 = 0 then none else some (i, (weight i).2))
    else []
  let reads := (if ucPre r.ucode && r.done = 0 then [(area, 8 * 0x30000)] else [])
    ++ (if g.flow = 1 then (cellIx.flatMap (fun i =>
        let row := 128 * g.q + i % 128
        if g.n ≤ row || g.k ≤ i / 128 * g.per then []
        else (s.readFeed g g.b g.wb g.scaledB row (i / 128 * g.per)).2.2)) else [])
  ((s.modCore c (fun k => { k with cells := cells })).consumeReads c r.cmd.ctx reads,
    { r with feedA := [], feedB := [], scaleA := [], scaleB := [], scaleW := scales, tick := 0 })

/-- Begins a pass (R398-R400). -/
def State.beginPass (s : State) (r : CeRun) : State :=
  let p := s.passLoad r
  let r := p.2
  let load := (if ucPre r.ucode && r.done = 0 then 3072 else 0) + (if ucFlow r.ucode = 1 then 128 else 0)
  if load = 0 then p.1.ceTick r
  else p.1.modCore r.cmd.core (fun k => { k with ce := some { r with stage := .load, wait := load } })

/-- The tiles of a command are no longer in use (R202). (DEDUCED, log 43.) -/
def State.dropTiles (s : State) (c serial : Nat) : State :=
  s.modCore c (fun k => { k with tileUse := k.tileUse.filter (fun p => p.2 != serial) })

/-- Begins an array operation, as pushed or as a progress record keeps it, under the program in the microcode store and the
format-table entry of its acceptance (R187). -/
def State.beginArray (s : State) (r : CeRun) : State :=
  let r := { r with ucode := (s.core r.cmd.core).ucodeWords }
  if r.bad then
    (s.deferFault r.cmd causeLoopNest 0).modCore r.cmd.core (fun k => { k with
      ce := some { r with stage := .tail, wait := 1, discarded := true } })
  else s.beginPass r

/-- A fresh run of a command, with the format-table entry that it reads at acceptance. -/
def newRun (cmd : Cmd) (entry : Dword) : CeRun :=
  { cmd := cmd, stage := .tail, wait := 1, tick := 0, pass := 0, done := 0, ucode := [], entry := entry, feedA := []
    feedB := [], scaleA := [], scaleB := [], scaleW := [], discarded := false }

/-- The ce unit begins a command (R403). -/
def State.ceBegin (s : State) (cmd : Cmd) : State :=
  let s := s.dequeue cmd
  let r := newRun cmd (tabGet 0 (s.ctx cmd.core cmd.ctx).fmt (cmd.op.fmtIx.getD 0))
  match cmd.op with
  | .mstart .. => s.beginArray r
  | .cld .. | .cst .. => s.modCore cmd.core (fun k => { k with ce := some { r with stage := .tick, wait := 1 } })
  | .mzero w => s.modCore cmd.core (fun k => { k with ce := some { r with wait := (regM w + 3) / 4 } })
  | _ => s.modCore cmd.core (fun k => { k with ce := some r })

/-- A ce command that its unit may accept now; `mstart.g` of a gang begins by itself (R411). -/
def State.ceReady (s : State) (cmd : Cmd) : Bool :=
  s.pushOrdered cmd && !s.fmtAhead cmd && (match cmd.op with
    | .mstart _ _ _ _ _ _ _ (some _) => false
    | _ => true)

/-- Step 4 of R253 waits for something that waits for this command: a command of its unit behind it, one behind a `fence.q`
after it, or the release of a tile that it uses. (DEDUCED, log 81.) -/
def Core.waitsFor (k : Core) (v : Saving) (cmd : Cmd) : Bool :=
  allCtxs.any (fun x => v.live.getLsbD x && !(tabGet [] k.queues (4 * cmd.unit + x)).isEmpty)
    || (v.live.getLsbD cmd.ctx && (rangeFrom 0 15).any (fun u => (tabGet [] k.queues (4 * u + cmd.ctx)).any (fun m =>
      (k.ctx cmd.ctx).fences.any (fun f =>
        cmd.serial < f.serial && f.serial < m.serial && f.mask.getLsbD cmd.unit && f.mask.getLsbD u))))
    || k.tileRels.any (fun p => v.live.getLsbD p.2.ctx && k.tileUse.contains (p.1, cmd.serial))

/-- A command that a pre-emption has stopped goes on: the save is over, or waits for it. (DEDUCED, log 81.) -/
def Core.resumes (k : Core) (cmd : Cmd) : Bool := k.saving.all (fun v => k.waitsFor v cmd)

/-- The ce unit accepts a command while it performs none: an operation that a pre-emption stopped stands before every other
(R257). (DEDUCED, log 81.) -/
def State.ceAccept (s : State) (c : Nat) : State :=
  let k := s.core c
  if k.ce.isSome || k.accepted.contains 0 then s
  else match k.ceResume.find? (fun p => p.2.isSome) with
    | some (x, some r) =>
      if k.resumes r.cmd then
        let s := s.modCore c (fun k => { k with ceResume := tabSet none k.ceResume x none, accepted := 0 :: k.accepted })
        s.beginArray r
      else s
    | _ => match s.nextCmd c 0 s.ceReady with
      | some cmd => s.ceBegin cmd
      | none => s

/-! ## Array cycles (R391, R400, R405) -/

/-- Row r of a cell move (R405): `cld` reads it, `cst` writes it. -/
def State.cellRow (s : State) (r : CeRun) : State :=
  let c := r.cmd.core
  let i := r.tick
  let cells := rangeFrom (128 * i) 128
  match r.cmd.op with
  | .cld base w =>
    let addr := bits base.toNat 29 0 + i * bits w.toNat 31 12
    let ws := (rangeFrom 0 128).map (fun j => BitVec.ofNat 32 (leNat (s.sRead (addr + 4 * j) 4)))
    let put (v : Cell) (x : Word) : Cell := match w.toNat % 4 with
      | 0 => { v with l0 := x }
      | 1 => { v with l1 := x }
      | _ => { v with a := x }
    (s.consumeReads c r.cmd.ctx [(addr, 4096)]).modCore c (fun k => { k with
      cells := (cells.zip ws).foldl (fun t p => tabSet {} t p.1 (put (tabGet {} t p.1) p.2)) k.cells })
  | .cst base w =>
    let addr := bits base.toNat 29 0 + i * bits w.toNat 31 12
    let get (v : Cell) : Word := match w.toNat % 4 with
      | 0 => v.l0
      | 1 => v.l1
      | _ => v.a
    s.sWriteEngine c addr (cells.flatMap (fun j => leBytes (get (tabGet {} (s.core c).cells j)).toNat 4))
  | _ => s

/-- The next tick, or the end of the ticks: its tiles are no longer in use when the tick of the last edge feed of the last
pass is over (R202, R408). (DEDUCED, log 43.) -/
def State.ceNextTick (s : State) (r : CeRun) : State :=
  let g := r.geo
  let s := if g.passes ≤ r.pass + 1 && g.lastRead ≤ r.tick then s.dropTiles r.cmd.core r.cmd.serial else s
  if r.tick + 1 < g.ticks then s.ceTick { r with tick := r.tick + 1 }
  else
    s.modCore r.cmd.core (fun k => { k with
      ce := some { r with stage := .tail, wait := 2, tick := g.ticks }, fetchBanks := [] })

/-- The end of an array cycle of the ce unit. -/
def State.ceCycle (s : State) (c : Nat) : State :=
  match (s.core c).ce with
  | none => s
  | some r =>
    let put (r : CeRun) : State := s.modCore c (fun k => { k with ce := some r })
    let moves := match r.cmd.op with
      | .cld .. | .cst .. => true
      | _ => false
    match r.stage with
    | .due => s
    | .load => if 1 < r.wait then put { r with wait := r.wait - 1 } else s.ceTick r
    | .tick =>
      if moves then
        let s := s.cellRow r
        s.modCore c (fun k => { k with
          ce := some (if r.tick + 1 < 128 then { r with tick := r.tick + 1 } else { r with stage := .due }) })
      else if 1 < r.wait then
        s.modCore c (fun k => { k with ce := some { r with wait := r.wait - 1 }, fetchBanks := fetchLeft k.fetchBanks })
      else s.ceNextTick r
    | .tail => put (if 1 < r.wait then { r with wait := r.wait - 1 } else { r with stage := .due, wait := 0 })

/-! ## Due points -/

/-- The pass of an array operation runs to its last tick. -/
def State.passOut (s : State) (r : CeRun) : PassOut :=
  let g := r.geo
  g.run r none g.ticks 0 { grid := gridOf (s.core r.cmd.core) r, caps := [] }

/-- The command of the ce unit is complete (R138, R403). -/
def State.ceDone (s : State) (r : CeRun) : State :=
  ((s.dropTiles r.cmd.core r.cmd.serial).modCore r.cmd.core (fun k => { k with ce := none })).retireCmd r.cmd

/-- The running command is an array operation that was not discarded. -/
def CeRun.isArray (r : CeRun) : Bool :=
  match r.cmd.op with
  | .mstart .. => !r.discarded
  | _ => false

/-- ARRAY_PASS_DUE (R94, R400, R401, R253): the pass writes its part of the region; the next pass begins, or the
command completes. A pre-emption stops the operation here. -/
def execArrayPassDue (core : Nat) (s : State) : Host.Outcome State Fault Refusal :=
  .next (match (s.core core).ce with
    | some r =>
      if r.isArray && r.stage == .due then
        let g := r.geo
        let o := s.passOut r
        let s := s.modCtx core r.cmd.ctx (fun cx => cx.raiseFlags (gridFlags o.grid))
        let s := s.modCore core (fun k => { k with cells := cellsOf o.grid })
        let s := s.masWrite core r.cmd.ctx g (g.results o)
        if g.passes ≤ r.pass + 1 then s.ceDone r
        else
          let r := { r with pass := r.pass + 1, done := 0 }
          if (s.core core).saving.isSome then
            s.modCore core (fun k => { k with ce := none, ceResume := tabSet none k.ceResume r.cmd.ctx (some r) })
          else s.beginPass r
      else s
    | none => s)

/-- The operation has K-chunk boundaries (R410). -/
def CeRun.chunked (r : CeRun) : Bool :=
  let g := r.geo
  r.isArray && g.flow == 0 && !g.acc && g.a.src == 0 && g.b.src == 0 && !ucPre r.ucode
    && g.prog.all (fun w => ucField w 9 8 == 0 && ucField w 27 25 != 7)

/-- Steps that every cell has performed when the ticks so far are over, counted from the first step of the pass. -/
def CeRun.chunkSteps (r : CeRun) : Nat :=
  let g := r.geo
  r.tick - 127 * (g.skr + g.skc) + g.done

/-- The cells stand at a K-chunk boundary: the tick about to run is the first after a multiple of 256 steps. -/
def CeRun.atChunk (r : CeRun) : Bool :=
  let g := r.geo
  let n := r.chunkSteps
  r.chunked && r.stage == .tick && 127 * (g.skr + g.skc) < r.tick && n % 256 == 0
    && g.done < n && n < g.steps

/-- K_CHUNK_DRAIN (R94, R253, R410): the cells drain A into the rows of their pass, P is set, the progress is kept. -/
def execKChunkDrain (core : Nat) (s : State) : Host.Outcome State Fault Refusal :=
  .next (match (s.core core).ce with
    | some r =>
      if (s.core core).saving.isSome && r.atChunk then
        let g := r.geo
        let n := r.chunkSteps
        let o := g.run r (some (n - 1)) r.tick 0 { grid := gridOf (s.core core) r, caps := [] }
        let rs := (o.caps.map (fun p => (128 * g.p + p.1 / 128, 128 * g.q + p.1 % 128, p.2))).filter
          (fun p => p.1 < g.m && p.2.1 < g.n)
        let s := s.modCtx core r.cmd.ctx (fun cx => cx.raiseFlags (gridFlags o.grid))
        let s := s.modCore core (fun k => { k with
          mas := rs.foldl (fun t p => tabSet 0 t (256 * (g.mrow + p.1) + g.mcol + p.2.1) p.2.2) k.mas
          cells := cellsOf o.grid, ce := none, fetchBanks := []
          ceResume := tabSet none k.ceResume r.cmd.ctx (some { r with done := n }) })
        s.masRows core r.cmd.ctx (distinct (rs.map (fun p => g.mrow + p.1))) true
      else s
    | none => s)

/-- Settings of a flow word in the microcode store (R404, Table 15.12). -/
def cflowWords (u : List Word) (w : Dword) : List Word :=
  let v := w.toNat
  let off := bits v 25 9
  let put (i hi lo x : Nat) : Nat :=
    let o := ucWord u i
    o / 2 ^ (hi + 1) * 2 ^ (hi + 1) + x % 2 ^ (hi + 1 - lo) * 2 ^ lo + o % 2 ^ lo
  [BitVec.ofNat 32 (put 0 2 0 (v % 8)), u.getD 1 0, u.getD 2 0,
    BitVec.ofNat 32 (put 3 4 0 (bits v 6 4 * 4 + bits v 7 7 * 2 + bits v 8 8)),
    BitVec.ofNat 32 (put 4 4 0 off), BitVec.ofNat 32 (put 5 4 0 (off / 2 ^ 5)),
    BitVec.ofNat 32 (put 6 4 0 (off / 2 ^ 10)), BitVec.ofNat 32 (put 7 1 0 (off / 2 ^ 15))]

/-- Settings of a skew word. -/
def cskewWords (u : List Word) (w : Dword) : List Word :=
  let put (i x : Nat) : Word :=
    let o := ucWord u i
    BitVec.ofNat 32 (o / 32 * 32 + x % 8 * 4 + o % 4)
  [u.getD 0 0, put 1 (bits w.toNat 2 0), put 2 (bits w.toNat 6 4)] ++ u.drop 3

/-- Writes the microcode store (R96, R397). (DEDUCED, log 41.) -/
def State.setUcode (s : State) (c : Nat) (ws : List Word) : State :=
  s.modCore c (fun k => { k with ucode := ((rangeFrom 0 8).zip ws).foldl (fun t p => ucodePut t p.1 p.2) k.ucode })

/-- Zeroes a region of the MAS (R412). (DEDUCED, log 41.) -/
def State.masZero (s : State) (c x : Nat) (w : Dword) : State :=
  let rows := rangeFrom (regRow w) (regM w)
  let s := s.modCore c (fun k => { k with
    mas := rows.foldl (fun t r => tabClear t (256 * r + regCol w) (256 * r + regCol w + regN w)) k.mas
    masPoison := if regN w = 256 then rows.foldl (fun t r => tabSet false t r false) k.masPoison else k.masPoison })
  s.masRows c x rows false

/-- CE_COMMAND_DUE_POINT (R403-R405, R409, R412): a command that is no array operation takes effect and completes.
(DEDUCED, log 41.) -/
def execCeCommandDuePoint (core : Nat) (s : State) : Host.Outcome State Fault Refusal :=
  .next (match (s.core core).ce with
    | some r =>
      if r.isArray || r.stage != .due then s
      else
        let s := match r.cmd.op with
          | .cprog addr =>
            (s.consumeReads core r.cmd.ctx [(addr.toNat, 256)]).setUcode core
              ((rangeFrom 0 8).map (fun i => BitVec.ofNat 32 (leNat (s.sRead (addr.toNat + 4 * i) 4))))
          | .cflow w => s.setUcode core (cflowWords (s.core core).ucodeWords w)
          | .cskew w => s.setUcode core (cskewWords (s.core core).ucodeWords w)
          | .mzero w => s.masZero core r.cmd.ctx w
          | _ => s
        s.ceDone r
    | none => s)

/-! ## `mstart.g` (R411) -/

/-- Number of an `mstart.g` command of a gang. -/
def CmdOp.group : CmdOp → Option Nat
  | .mstart _ _ _ _ _ _ _ g => g
  | _ => none

/-- The `mstart.g` at the head of a context's ce queue, where its unit could take it. -/
def State.gHead (s : State) (c x : Nat) : Option Cmd :=
  match tabGet [] (s.core c).queues x with
  | cmd :: _ =>
    if cmd.op.group.isSome && !(s.ctx c x).fenced cmd && s.pushOrdered cmd && !s.fmtAhead cmd then some cmd else none
  | [] => none

/-- The members of a gang instance that still count: those placed, not retired and not failed (R411). -/
def State.gangOf (s : State) (t : TileStep) : List TileStep :=
  s.steps.filter (fun u => u.task == t.task && u.inst == t.inst
    && (u.state == .placed || u.state == .running || u.state == .preempted))

/-- The head commands with which a member's gang would begin together, when every member's stands there.
(DEDUCED, log 42.) -/
def State.gangHeads (s : State) (cmd : Cmd) : Option (List Cmd) :=
  match cmd.step.bind (fun i => s.steps.find? (fun t => t.id == i)) with
  | none => none
  | some t =>
    (s.gangOf t).foldl (fun (acc : Option (List Cmd)) u => match acc, u.core, u.ctx with
      | some l, some c, some x => match s.gHead c x with
        | some h => if h.op.group == cmd.op.group then some (l ++ [h]) else none
        | none => none
      | _, _, _ => none) (some [])

/-- The end of a cycle notes the `mstart.g` commands whose gang stands at its heads (R411). (DEDUCED, log 42.) -/
def State.noteGangs (s : State) (c : Nat) : State :=
  let cmds := allCtxs.filterMap (s.gHead c)
  s.modCore c (fun k => { k with
    gReady := (cmds.filter (fun m => (s.gangHeads m).isSome)).map (·.serial) })

/-- MSTART_G_BEGIN (R411): in the cycle after the last member came to stand at its head, all begin together, each on a ce
unit that performs no command. (DEDUCED, log 42.) -/
def execMstartGBegin (core : Nat) (s : State) : Host.Outcome State Fault Refusal :=
  .next (
    let cands := (allCtxs.filterMap (s.gHead core)).filter (fun m => (s.core core).gReady.contains m.serial)
    match cands with
    | [] => s
    | cmd :: _ => match s.gangHeads cmd with
      | none => s
      | some hs =>
        if hs.all (fun h => (s.core h.core).ce.isNone && !(s.core h.core).accepted.contains 0
            && (s.core h.core).gReady.contains h.serial)
        then hs.foldl State.ceBegin s else s)

/-! ## The epilogue (R413-R415) -/

/-- Region word of a me command. -/
def CmdOp.region : CmdOp → Dword
  | .mdrain w _ _ | .mepi w _ _ _ | .mepiAcc w _ _ _ | .mepiRm w _ _ _ _ => w
  | _ => 0

/-- Second operand of a me command: the destination word or the remote address. -/
def CmdOp.meDst : CmdOp → Dword
  | .mdrain _ d _ | .mepi _ d _ _ | .mepiAcc _ d _ _ | .mepiRm _ d _ _ _ => d
  | _ => 0

/-- Completion word of a me command. -/
def CmdOp.meDone : CmdOp → Dword
  | .mdrain _ _ w | .mepi _ _ w _ | .mepiAcc _ _ w _ | .mepiRm _ _ _ w _ => w
  | _ => 0

/-- Bits of an element that the command writes. -/
def MeRun.width (r : MeRun) : Nat :=
  match r.cmd.op with
  | .mdrain .. => 32
  | _ => fmtWidth (entO r.entry)

/-- Bytes of a row, and its lines. -/
def MeRun.rowBytes (r : MeRun) : Nat := (regN r.cmd.op.region * r.width + 7) / 8
def MeRun.rowLines (r : MeRun) : Nat := (r.rowBytes + 63) / 64

/-- An integer narrowed to w bits: saturated with OF, or its low bits (R237, R414). -/
def narrow (w : Nat) (sat : Bool) (i : Int) : Nat × BitVec 6 :=
  let hi : Int := 2 ^ (w - 1) - 1
  let lo : Int := -2 ^ (w - 1)
  let wrap (i : Int) : Nat := (i % 2 ^ w).toNat
  if !sat then (wrap i, 0)
  else if hi < i then (wrap hi, flagOF)
  else if i < lo then (wrap lo, flagOF)
  else (wrap i, 0)

/-- A MAS word as the entry converts it (R414). -/
def convWord (e : Dword) (v : Word) : Nat × BitVec 6 :=
  let int := entC e == 6
  let o := entO e
  let w := fmtWidth o
  if isIntFmt o then
    if int then narrow w (entSat e) v.toInt
    else
      let p := cvtInt w .rne (dec32 v)
      (narrow w false p.1 |>.1, p.2)
  else (floatFmt o).round .rne (entSat e) (if int then FVal.ofInt v.toInt else dec32 v)

/-- The same word added to the destination element, with one rounding (R414, `mepi.acc`). -/
def accWord (e : Dword) (v : Word) (old : Nat) : Nat × BitVec 6 :=
  let int := entC e == 6
  let o := entO e
  let w := fmtWidth o
  if isIntFmt o then
    let d := sextNat w old
    if int then narrow w (entSat e) (v.toInt + d)
    else
      let m := (dec32 v).add (FVal.ofInt d)
      let p := cvtInt w .rne m.1
      (narrow w false p.1 |>.1, m.2 ||| p.2)
  else
    let m := (if int then FVal.ofInt v.toInt else dec32 v).add ((floatFmt o).decode old)
    let r := (floatFmt o).round .rne (entSat e) m.1
    (r.1, m.2 ||| r.2)

/-- The bytes of elements of w bits, packed (R227). -/
def packElems (w : Nat) (es : List Nat) : List Byte :=
  leBytes (((rangeFrom 0 es.length).zip es).foldl (fun n p => n + p.2 % 2 ^ w * 2 ^ (w * p.1)) 0) ((es.length * w + 7) / 8)

/-- The bytes of a row and the flags of forming them. -/
def MeRun.bytes (r : MeRun) : List Byte × BitVec 6 :=
  let w := r.width
  let es : List (Nat × BitVec 6) := match r.cmd.op with
    | .mdrain .. => r.words.map (fun v => (v.toNat, 0))
    | .mepiAcc .. =>
      let old := leNat r.old
      ((rangeFrom 0 r.words.length).zip r.words).map (fun p => accWord r.entry p.2 (old / 2 ^ (w * p.1) % 2 ^ w))
    | _ => r.words.map (convWord r.entry)
  (packElems w (es.map (·.1)), es.foldl (fun f p => f ||| p.2) 0)

/-- Reaches a row: its words are read; a poisoned row ends the context (R413, R260). (DEDUCED, log 44.) -/
def State.meRow (s : State) (r : MeRun) : State :=
  let c := r.cmd.core
  let reg := r.cmd.op.region
  let row := regRow reg + r.row
  let k := s.core c
  let r := { r with
    words := (rangeFrom (256 * row + regCol reg) (regN reg)).map (tabGet 0 k.mas)
    poison := if tabGet false k.masPoison row then rangeFrom 0 r.rowBytes else [], old := [], lines := 0 }
  let s := s.modCore c (fun k => { k with me := some r })
  if tabGet false k.masPoison row then s.endCtx c r.cmd.ctx (eccRecord .mas c r.cmd.ctx row) else s

/-- The me unit begins a command as pushed (R413). -/
def State.meStart (s : State) (cmd : Cmd) : State :=
  s.meRow { cmd := cmd, entry := tabGet 0 (s.ctx cmd.core cmd.ctx).fmt (cmd.op.fmtIx.getD 0), row := 0, words := []
            poison := [], old := [], lines := 0 }

/-- The me unit accepts a command when it performs none (R413); an epilogue that a pre-emption stopped goes on with the entry
it read at its acceptance (R257, R187). (DEDUCED, log 81.) -/
def State.meAccept (s : State) (c : Nat) : State :=
  let k := s.core c
  if k.me.isSome || k.accepted.contains 1 then s
  else match k.meResume.find? (fun p => p.2.isSome) with
    | some (x, some r) =>
      if k.resumes r.cmd then
        let s := s.modCore c (fun k => { k with meResume := tabSet none k.meResume x none, accepted := 1 :: k.accepted })
        s.meRow r
      else s
    | _ => match s.nextCmd c 1 (fun cmd => s.pushOrdered cmd && !s.fmtAhead cmd && (match cmd.op with
        | .mepiRm .. => !s.fencedOff cmd
        | _ => true)) with
      | some cmd => (s.dequeue cmd).meStart cmd
      | none => s

/-- Operations of a (stream, destination) of a context that have not committed (R141). -/
def State.pairCount (s : State) (c x : Nat) (stream : BitVec 5) (dest : BitVec 11) : Nat :=
  tabGet 0 (s.ctx c x).uncommitted (strKey stream.toNat dest.toNat)

/-- A row of `mepi.rm` finds a place: its channel's buffer and its stream take one more operation (R415, R141, R211, R213). -/
def State.rowFits (s : State) (r : MeRun) (rw : Dword) : Bool :=
  let c := r.cmd.core
  let k := s.core c
  let x := r.cmd.ctx
  let next := tabGet 0 (s.ctx c x).strNext (strKey (rwStream rw).toNat (rwDest rw).toNat)
  (tabGet [] k.buffers (rwCh rw)).length < 128
    && (tabGet 0 k.tnext (rwCh rw) - tabGet 0 k.tdone (rwCh rw)).toNat < 128
    && s.pairCount c x (rwStream rw) (rwDest rw) < 128
    && (match minBy (fun (d : Cmd) => d.serial) (s.pairCmds c x (rwStream rw) (rwDest rw)) with
      | some d => rwStream rw == 0 || (next - d.seq).toNat ≤ 127
      | none => true)

/-- A row of `mepi.rm` enters the buffer of its channel with the next transfer ID and sequence number (R415). -/
def State.rowSend (s : State) (r : MeRun) (va rw done : Dword) (bs : List Byte) : State :=
  let c := r.cmd.core
  let ch := rwCh rw
  let p := s.takeSeq c r.cmd.ctx (rwStream rw) (rwDest rw)
  let i := p.1.nextId
  let s : State := { p.1 with nextId := i + 1 }
  let id := tabGet 0 (s.core c).tnext ch
  let cmd : Cmd := { r.cmd with
    op := .row (rwStream rw) (rwDest rw) (va + BitVec.ofNat 64 (r.row * rwPitch rw)) done r.cmd.serial
    unit := 2 + ch, serial := i, seq := p.2 }
  let x : Xfer := { cmd := cmd, id := id, teff := s.cycle, accepted := s.cycle, eligible := false, begun := false
                    moved := 0, counted := 0, srcDesc := [], dstDesc := [], stage := .waiting, buffer := bs, poison := r.poison }
  s.modCore c (fun k => { k with
    tnext := tabSet 0 k.tnext ch (id + 1)
    buffers := tabSet [] k.buffers ch (tabGet [] k.buffers ch ++ [x]) })

/-- A pre-emption of its context asks the epilogue to stop at its next row boundary (R253). (DEDUCED, log 81.) -/
def State.meStops (s : State) (r : MeRun) : Bool :=
  (s.core r.cmd.core).saving.any (fun v => v.live.getLsbD r.cmd.ctx)

/-- The epilogue stops before a row (R253, R415). -/
def State.meStop (s : State) (r : MeRun) : State :=
  s.modCore r.cmd.core (fun k => { k with me := none, meResume := tabSet none k.meResume r.cmd.ctx (some r) })

/-- The row is over: the next row is reached, unless a pre-emption stops the epilogue here. -/
def State.meNext (s : State) (r : MeRun) : State :=
  let c := r.cmd.core
  let next := { r with row := r.row + 1 }
  if regM r.cmd.op.region ≤ r.row + 1 then s.modCore c (fun k => { k with me := some { next with words := [] } })
  else if s.meStops r then s.meStop next
  else s.meRow next

/-- Writes line n of a local row. (DEDUCED, log 44.) -/
def State.meLine (s : State) (r : MeRun) (addr : Nat) (bs : List Byte) : State :=
  let part := (bs.drop (64 * r.lines)).take 64
  s.sMove r.cmd.core (addr + 64 * r.lines) part (cutPlaces r.poison (64 * r.lines) part.length)

/-- One cycle of the me unit: a line is read (`mepi.acc`) or written; with the last line of a row the flags are raised
and the barrier word is told (R413). A row of `mepi.rm` waits while its channel or stream is full (R415). -/
def State.meCycle (s : State) (c : Nat) : State :=
  match (s.core c).me with
  | none => s
  | some r =>
    if r.words.isEmpty then s
    else
      let put (s : State) (r : MeRun) : State := s.modCore c (fun k => { k with me := some r })
      let addr := meAddr r.cmd.op.meDst + r.row * mePitch r.cmd.op.meDst
      let acc := match r.cmd.op with
        | .mepiAcc .. => true
        | _ => false
      if acc && r.old.length < r.rowBytes then
        let n := r.old.length
        let m := min 64 (r.rowBytes - n)
        let ps := elemPlaces (max 1 (r.width / 8)) r.rowBytes ((s.poisonMap (addr + n) m).map (· + n))
        put s { r with old := r.old ++ s.sRead (addr + n) m, poison := r.poison ++ ps }
      else
        let b := r.bytes
        let last := r.rowLines ≤ r.lines + 1
        match r.cmd.op with
        | .mepiRm _ va rw done _ =>
          if !last then put s { r with lines := r.lines + 1 }
          else if !s.rowFits r rw then (if s.meStops r && !(s.core c).resumes r.cmd then s.meStop r else s)
          else ((s.rowSend r va rw done b.1).modCtx c r.cmd.ctx (fun cx => cx.raiseFlags b.2)).meNext r
        | _ =>
          let s := s.meLine r addr b.1
          if !last then put s { r with lines := r.lines + 1 }
          else
            let s := s.modCtx c r.cmd.ctx (fun cx => cx.raiseFlags b.2)
            let w := r.cmd.op.meDone
            let s := if w.getLsbD 0 then s.reportBar c (bits w.toNat 29 3 * 8) r.rowBytes else s
            s.meNext r

/-- EPILOGUE_COMPLETE (R413): the command has written its last row; rows sent to a peer complete by themselves. -/
def execEpilogueComplete (core : Nat) (s : State) : Host.Outcome State Fault Refusal :=
  .next (match (s.core core).me with
    | some r =>
      if r.row < regM r.cmd.op.region then s
      else (s.modCore core (fun k => { k with me := none })).retireRows r.cmd
    | none => s)

/-! ## The ft unit (R186, R187, R416) -/

/-- Bits of a format-table entry that are not reserved (Table 6.3). -/
def fmtMask : Dword := 0xFFFFFFFF0EFFFF80

/-- The ft unit accepts a write: it writes the entry and sets DIRTYMAP.FMT. -/
def State.ftAccept (s : State) (c : Nat) : State :=
  match s.nextCmd c 14 (fun cmd => match cmd.op with
      | .fmtWr _ ix => !s.fmtReader cmd (ix.toNat % 16)
      | _ => true) with
  | some cmd =>
    let s := s.dequeue cmd
    match cmd.op with
    | .fmtWr v ix =>
      (s.modCtx c cmd.ctx (fun cx => ({ cx with
        fmt := tabSet 0 cx.fmt (ix.toNat % 16) (v &&& fmtMask) }).dirty 34)).retireCmd cmd
    | _ => s.retireCmd cmd
  | none => s

end Sys2Proof.Machine
end

