-- ==== Sys2Proof/Machine/Tiles.lean ====
section
/-!
DEFINITION. The gather unit (16: R429), the tile table (R198-R202, R430-R434) and the loader/storer controllers
(R432, R433).
-/

namespace Sys2Proof.Machine

/-! ## Gather and scatter (R429) -/

/-- Operand ports of ga. -/
def gaPorts : List Nat := [0x248, 0x249, 0x24A]

/-- Element bytes and element count of a gather control word. -/
def gaLog2e (w : Dword) : Nat := bits w.toNat 59 56
def gaBytes (w : Dword) : Nat := 2 ^ gaLog2e w
def gaCount (w : Dword) : Nat := bits w.toNat 19 0 + 1

/-- `gather` or `scatter`: the indexed side lies in the source space of a gather, in the destination space of a
scatter. -/
def gaOp (scatter : Bool) (mk : Arg → CmdOp) : Op :=
  let idxV (w : Dword) : Bool := if scatter then ctlDsp w != 0 else ctlSsp w != 0
  let conV (w : Dword) : Bool := if scatter then ctlSsp w != 0 else ctlDsp w != 0
  { ports := gaPorts, needs := fun _ => gaPorts, weight := 2, access := true
    illegal := fun a =>
      let w := a.x3
      let e := gaBytes w
      let tile := ctlDsp w == 2
      let t := tabGet {} (a.pre.core a.core).tiles (ctlTix w)
      if 2 ≤ ctlSsp w || ctlDsp w == 3 || (tile && scatter)
          || (tile && (!t.v || t.sub || gaCount w * e != t.rows.toNat * t.rbytes.toNat))
          || 12 < gaLog2e w || a.x1.toNat % e != 0 || (!tile && a.val.toNat % e != 0)
      then some a.port else none
    traps := fun a =>
      let w := a.x3
      let con := if ctlDsp w == 2 then [] else [(conV w, a.val.toNat, gaCount w * gaBytes w)]
      sideCause a.pre a.core 10 ([(idxV w, a.x1.toNat, gaBytes w), (false, a.x2.toNat, 4 * gaCount w)] ++ con) []
        (if ctlBv w then some (ctlBar w) else none)
    unit := fun _ => some 10
    act := fun a s => s.pushCmd a 10 (mk a) 0 }

/-- GATHER (R429). -/
def opGather : Op := gaOp false (fun a => .gather a.x1 a.x2 a.x3 a.val)
/-- GATHER: issue of its slot. -/
def execGather (m : Mv) (s : State) : Host.Outcome State Fault Refusal :=
  issueTrigger m 0x24B opGather s

/-- SCATTER (R429). -/
def opScatter : Op := gaOp true (fun a => .scatter a.x1 a.x2 a.x3 a.val)
/-- SCATTER: issue of its slot. -/
def execScatter (m : Mv) (s : State) : Host.Outcome State Fault Refusal :=
  issueTrigger m 0x24C opScatter s

/-- The ga unit accepts a command while it performs none; a tile to fill must be EMPTY (R423). Its command stands in
the place of a ninth channel. -/
def State.gaAccept (s : State) (c : Nat) : State :=
  if !(tabGet [] (s.core c).buffers 8).isEmpty then s
  else match s.nextCmd c 10 (fun cmd => match cmd.op.fillTile with
      | some t => (s.tile c t).state == .empty
      | none => true) with
  | none => s
  | some cmd =>
    let s := s.dequeue cmd
    let x : Xfer := { cmd := cmd, id := 0, teff := s.cycle, accepted := s.cycle, eligible := true, begun := true
                      moved := 0, counted := 0, srcDesc := [], dstDesc := [], stage := .waiting, buffer := [], poison := [] }
    let s := match cmd.op.fillTile with
      | some t => s.modTile c t (fun e => { e with state := .filling })
      | none => s
    s.modCore c (fun k => { k with buffers := tabSet [] k.buffers 8 [x] })

/-- One element of the command of the ga unit, in ascending order. A poisoned index ends the context (R100).
(DESIGN CHOICE, log 71.) -/
def State.gaElement (s : State) (die : Nat) (x : Xfer) : State × Xfer :=
  let a := x.cmd.access die (.copyEngine die 0)
  let go (scatter : Bool) (base idx w con : Dword) : State × Xfer :=
    let e := gaBytes w
    let i := x.moved / e
    let at_ := idx.toNat + 4 * i
    let ix := leNat (s.sRead at_ 4)
    let ia := (base.toNat + ix * e) % 2 ^ 64
    let ca := (con.toNat + i * e) % 2 ^ 64
    if gaCount w ≤ i then (s, { x with stage := .finished })
    else if s.anyPoison at_ 4 then (s.endPoison a false at_ 4, { x with stage := .finished })
    else
      let p := if scatter then elemPiece (fun _ => (ctlSsp w != 0, ca, e)) (fun _ => (ctlDsp w != 0, ia, e)) 1 0
        else if ctlDsp w == 2 then
          { elemPiece (fun _ => (ctlSsp w != 0, ia, e)) (fun _ => (false, 0, 0)) 1 0 with
            writes := tileSegs x.cmd.core (s.tile x.cmd.core (ctlTix w)) (e + 1) (i * e) e }
        else elemPiece (fun _ => (ctlSsp w != 0, ia, e)) (fun _ => (ctlDsp w != 0, ca, e)) 1 0
      match p.reads, p.ends with
      | [], some (cause, b) => (s.deferFault x.cmd cause b, { x with stage := .finished })
      | _, _ =>
        let r := s.movePiece a x p
        (r.1, r.2.doneAt (gaCount w * e))
  match x.cmd.op with
  | .gather base idx w dst => go false base idx w dst
  | .scatter base idx w src => go true base idx w src
  | _ => (s, { x with stage := .finished })

/-- Completion of a gather or scatter (R138): the barrier word is told, a filled tile becomes READY. -/
def State.gaDone (s : State) (c : Nat) (x : Xfer) : State :=
  let s := s.modCore c (fun k => { k with buffers := tabSet [] k.buffers 8 [] })
  let s := match x.cmd.op.fillTile with
    | some t => s.modTile c t (fun e => { e with state := .ready, epoch := e.epoch + 1 })
    | none => s
  let s := match x.cmd.op.barrier c with
    | some addr => s.reportBar c addr x.counted
    | none => s
  s.retireCmd x.cmd

/-- One cycle of the ga unit: an element is performed, or the command completes. -/
def State.gaCycle (s : State) (c : Nat) : State :=
  match tabGet [] (s.core c).buffers 8 with
  | x :: _ =>
    if x.stage == .finished then s.gaDone c x
    else if x.stage == .waiting && s.pushOrdered x.cmd then
      let p := s.gaElement (dieOf c) x
      let s := p.1.putXfer c 8 p.2
      if p.2.stage == .finished then s.gaDone c p.2 else s
    else s
  | [] => s

/-! ## Tile operations (R430-R434) -/

/-- Operand ports of tt. -/
def ttPorts : List Nat := [0x2E0, 0x2E1]

/-- Tile that the moved value names. -/
def Arg.tileIx (a : Arg) : Nat := a.val.toNat % 256
/-- Entry of that tile. -/
def Arg.tile (a : Arg) : Tile := a.pre.tile a.core a.tileIx

/-- Geometry of a `tile.decl` (Table 16.5). -/
def declBase (g : Dword) : BitVec 23 := g.extractLsb' 0 23
def declPitch (g : Dword) : BitVec 20 := g.extractLsb' 32 20
def declRows (z : Dword) : BitVec 12 := z.extractLsb' 0 12
def declRbytes (z : Dword) : BitVec 16 := z.extractLsb' 16 16

/-- The geometry breaks R199. -/
def declBad (g z : Dword) : Bool :=
  let b := (declBase g).toNat
  let p := (declPitch g).toNat
  let r := (declRows z).toNat
  let n := (declRbytes z).toNat
  r == 0 || n == 0 || p == 0 || p < n || p % 64 != 0 || b % 64 != 0 || 0x800000 < b + (r - 1) * p + n

/-- TILE_DECL (R431). -/
def opTileDecl : Op :=
  { ports := ttPorts, needs := fun _ => ttPorts, weight := 2, access := true
    illegal := fun a => if a.tile.sub then some a.port else none
    traps := fun a => causeIf (declBad a.x1 a.x2) causeTileBounds 6 (a.core * 0x800000 + (declBase a.x1).toNat)
    gate := fun a =>
      if a.tile.state == .filling || a.tile.state == .draining then .block (.tileDecl a.tileIx) else .go
    unit := fun _ => some 13
    act := fun a s => s.pushCmd a 13 (.tileDecl a.x1 a.x2 a.val) 0 }
/-- TILE_DECL: issue of its slot. -/
def execTileDecl (m : Mv) (s : State) : Host.Outcome State Fault Refusal :=
  issueTrigger m 0x2E2 opTileDecl s

/-- Fields of the moved value of `tile.sub`. -/
def subFirst (v : Dword) : Nat := v.toNat % 256
def subCount (v : Dword) : Nat := bits v.toNat 15 8 + 1
def subRing (v : Dword) : Nat := bits v.toNat 21 16
def subWb (v : Dword) : Bool := v.getLsbD 22
/-- The tiles of the ring, in its order. -/
def subTiles (v : Dword) : List Nat := (rangeFrom (subFirst v) (subCount v)).map (· % 256)

/-- Bytes of a fill. -/
def Tile.bytes (t : Tile) : Nat := t.rows.toNat * t.rbytes.toNat

/-- SLOT.ILLEGAL of `tile.sub` (R432). -/
def subBad (s : State) (c : Nat) (st v : Dword) : Bool :=
  let ts := (subTiles v).map (s.tile c)
  ts.any (fun t => !t.v || t.state != .empty || t.sub)
    || ts.any (fun t => t.bytes != (s.tile c (subFirst v)).bytes)
    || (s.core c).rings.any (fun r => r.ring == subRing v)
    || (subWb v && st == 0)

/-- TILE_SUB (R432). -/
def opTileSub : Op :=
  { ports := ttPorts, needs := fun _ => ttPorts, weight := 2, access := true
    illegal := fun a => if subBad a.pre a.core a.x2 a.val then some a.port else none
    traps := fun a =>
      let vas := if subWb a.val then [a.x1.toNat, a.x2.toNat] else [a.x1.toNat]
      sideCause a.pre a.core 13 (vas.map (fun v => (true, v, 128))) (vas.map (fun v => (v, v, 128))) none
    unit := fun _ => some 13
    act := fun a s => s.pushCmd a 13 (.tileSub a.x1 a.x2 a.val) 0 }
/-- TILE_SUB: issue of its slot. -/
def execTileSub (m : Mv) (s : State) : Host.Outcome State Fault Refusal :=
  issueTrigger m 0x2E3 opTileSub s

/-- TILE_REL (R434, R202): it names a tile, so it issues only while that is READY (R39).
(DEDUCED, log 43.) -/
def opTileRel : Op :=
  { ports := ttPorts, weight := 2, access := true
    illegal := fun a => if !a.tile.v then some a.port else none
    gate := fun a => if a.tile.state == .ready then .go else .block (.tileReady a.tileIx)
    unit := fun _ => some 13
    act := fun a s => s.pushCmd a 13 (.tileRel a.val a.slot) 0 }
/-- TILE_REL: issue of its slot. -/
def execTileRel (m : Mv) (s : State) : Host.Outcome State Fault Refusal :=
  issueTrigger m 0x2E4 opTileRel s

/-- Code of a tile state (Table 6.13). -/
def TileState.code : TileState → BitVec 2
  | .empty => 0 | .filling => 1 | .ready => 2 | .draining => 3

/-- Bits [63:0] of an entry (Table 6.13). -/
def Tile.low (t : Tile) : Dword :=
  t.state.code ++ BitVec.ofBool t.v ++ BitVec.ofBool t.sub ++ BitVec.ofBool t.wb ++ t.next ++ t.ring
    ++ (0 : BitVec 22) ++ t.base

/-- Bits [127:64] of an entry. -/
def Tile.high (t : Tile) : Dword := t.pitch ++ t.rows ++ t.rbytes ++ t.epoch ++ (0 : BitVec 8)

/-- TILE_STAT (R430, R434). -/
def opTileStat : Op :=
  { ports := ttPorts, weight := 2
    illegal := fun a => if !a.tile.v then some a.port else none
    act := fun a s => s.addRecord a 2 (.latch 0x14D) (ofDword a.tile.low) 0xFFFF 0 }
/-- TILE_STAT: issue of its slot. -/
def execTileStat (m : Mv) (s : State) : Host.Outcome State Fault Refusal :=
  issueTrigger m 0x2E5 opTileStat s

/-! ## Acceptance by the tt unit -/

/-- Changes ring r of core c. -/
def State.modRing (s : State) (c r : Nat) (f : LoadRing → LoadRing) : State :=
  s.modCore c (fun k => { k with rings := k.rings.map (fun g => if g.ring == r then f g else g) })

/-- `tile.decl` takes effect (Table 6.14). -/
def State.declare (s : State) (c : Nat) (g z v : Dword) : State :=
  s.modTile c (v.toNat % 256) (fun t => { t with
    base := declBase g, pitch := declPitch g, rows := declRows z, rbytes := declRbytes z
    v := true, sub := false, epoch := 0, state := if v.getLsbD 8 then .ready else .empty })

/-- `tile.sub` takes effect (R432): the ring is formed; its descriptors are still to be read. A tile that is no longer EMPTY
is left unchanged (R200). -/
def State.subscribe (s : State) (c : Nat) (cmd : Cmd) (ld st v : Dword) : State :=
  let ts := subTiles v
  let s := ts.foldl (fun s t => s.modTile c t (fun e => if e.state != .empty then e else { e with
    sub := true, wb := subWb v, ring := BitVec.ofNat 6 (subRing v)
    next := if t = (subFirst v + subCount v - 1) % 256 then BitVec.ofNat 8 (subFirst v) else BitVec.ofNat 8 (t + 1) })) s
  s.modCore c (fun k => { k with rings := k.rings ++ [{
    ring := subRing v, cmd := cmd, first := subFirst v, count := subCount v
    size := (s.tile c (subFirst v)).bytes, wb := subWb v, ldVa := ld.toNat
    stVa := st.toNat, ldDesc := [], stDesc := [], fills := 0, nextTile := subFirst v, filling := none, moved := 0
    ended := false, pos := [], drained := [], heldVa := none, hostWait := none, buffer := [] }] })

/-- Slot that triggered a `tile.rel`. -/
def Cmd.relSlot (cmd : Cmd) : Nat :=
  match cmd.op with
  | .tileRel _ k => k
  | _ => 0

/-- The release of a tile that comes first takes effect, once no operation holds the tile in use: ascending context, then
slot (R202). (DEDUCED, log 43.) -/
def State.releaseTile (s : State) (c tile : Nat) : State :=
  let k := s.core c
  match minBy (fun (p : Nat × Cmd) => 8 * p.2.ctx + p.2.relSlot) (k.tileRels.filter (fun p => p.1 == tile)) with
  | none => s
  | some (_, cmd) =>
    if k.tileUse.any (fun p => p.1 == tile) then s
    else
      let t := s.tile c tile
      let s := s.modCore c (fun k => { k with
        tileRels := k.tileRels.filter (fun p => !(p.1 == tile && p.2.serial == cmd.serial)) })
      let s := s.retireCmd cmd
      if t.state == .ready then
        s.modTile c tile (fun t => { t with state := if t.wb then .draining else .empty })
      else s.pendCause c cmd.ctx causeTileBounds (trapInfoWord (some cmd.relSlot) 6 (c * 0x800000 + t.base.toNat))

/-- The tt unit accepts a command: `tile.decl` waits for a tile that began to fill or drain after it issued,
and what lets the loader or the storer read and write waits for the context's earlier accesses (R134). (DEDUCED, log 43.) -/
def State.ttAccept (s : State) (c : Nat) : State :=
  let ok (cmd : Cmd) : Bool := match cmd.op with
    | .tileDecl _ _ v =>
      let t := s.tile c (v.toNat % 256)
      t.state != .filling && t.state != .draining
    | _ => s.pushOrdered cmd
  match s.nextCmd c 13 ok with
  | none => s
  | some cmd =>
    let s := s.dequeue cmd
    match cmd.op with
    | .tileDecl g z v => (s.declare c g z v).retireCmd cmd
    | .tileSub ld st v => s.subscribe c cmd ld st v
    | .tileRel v _ =>
      let s := s.modCore c (fun k => { k with tileRels := k.tileRels ++ [(v.toNat % 256, cmd)] })
      s.releaseTile c (v.toNat % 256)
    | _ => s.retireCmd cmd

/-- TILE_RELEASE_EFFECT (R202): a release waits until no operation holds its tile in use. -/
def execTileReleaseEffect (core tile : Nat) (s : State) : Host.Outcome State Fault Refusal :=
  .next (s.releaseTile core tile)

/-! ## The loader (R201, R432, R433) -/

/-- Stack whose controller serves a ring: the one that holds the load descriptor (R432). -/
def State.loaderStack (s : State) (c : Nat) (r : LoadRing) : Nat := r.stack.getD (s.stackOf (dieOf c) r.ldVa)

/-- An access of the loader/storer controller that serves a ring. -/
def State.loaderOf (s : State) (c : Nat) (r : LoadRing) : Access :=
  let stack := s.loaderStack c r
  { die := stack / 4, log := .loader stack, core := c, ctx := r.cmd.ctx, issuer := 13 }

/-- A ring waits behind its controller's full log: its context takes SIDELOG.FULL once for this wait (R110).
(DESIGN CHOICE, log 71.) -/
def State.tellRing (s : State) (r : LoadRing) (va : Nat) : State × LoadRing :=
  if r.told then (s, r) else (s.deferFault r.cmd causeSidelogFull va, { r with told := true })

/-- Bytes of a descriptor's stream. -/
def descBytes (d : List Byte) : Nat := descTotal d * descElem d

/-- Address of byte b of a descriptor's stream, and the bytes from there to the end of its element or page. -/
def descByte (d : List Byte) (b : Nat) : Nat × Nat :=
  let e := descElem d
  let a := (descAddr d (b / e) + b % e) % 2 ^ 64
  (a, min (e - b % e) (toPageEnd true a))

/-- The loader reads what is missing of its descriptors; one that breaks R197 defers LOOP.NEST (R432). -/
def State.loaderDescs (s : State) (c : Nat) (r : LoadRing) : State :=
  let a := s.loaderOf c r
  let ld := r.ldDesc.isEmpty
  let va := if ld then r.ldVa else r.stVa
  let drop (s : State) : State :=
    let s := (rangeFrom r.first r.count).foldl (fun s t => s.modTile c (t % 256) (fun e => { e with sub := false })) s
    (s.modCore c (fun k => { k with rings := k.rings.filter (fun g => g.ring != r.ring) })).retireCmd r.cmd
  let got (s : State) (bs : List Byte) : State :=
    if !descOk bs then drop (s.pendCause c r.cmd.ctx causeLoopNest (trapInfoWord none 13 0))
    else
      let stack := s.loaderStack c r
      let s := s.modRing c r.ring (fun g => if ld then { g with ldDesc := bs, buffer := [], stack := some stack, told := false }
        else { g with stDesc := bs, buffer := [], told := false })
      if !ld || !r.wb then s.retireCmd r.cmd else s
  if !r.buffer.isEmpty then got s r.buffer
  else match s.readSide a true va 128 with
    | .data s bs p => if p.isEmpty then got s bs else drop (s.endPoison a true va 128)
    | .fails cause b => drop (s.deferFault r.cmd cause b)
    | .held s => s.modRing c r.ring (fun g => { g with heldVa := some (BitVec.ofNat 64 va) })
    | .waits s => s
    | .host w h =>
      (s.sendHost (.loader c r.ring) w.qp (some (BitVec.ofNat 64 va)) (.rdmaRead w.qp w.key h 128)).modRing c r.ring
        (fun g => { g with hostWait := some w.qp })
    | .full b => let p := s.tellRing r b; p.1.modRing c r.ring (fun _ => p.2)

/-- The ring has all its descriptors. -/
def LoadRing.ready (r : LoadRing) : Bool := !r.ldDesc.isEmpty && (!r.wb || !r.stDesc.isEmpty)

/-- The tile is subscribed to the ring. -/
def Tile.inRing (t : Tile) (r : LoadRing) : Bool := t.sub && t.ring.toNat == r.ring

/-- LOADER_FILL_BEGIN (R201, R432, R433): the loader reads its descriptors; it begins the fill of the ring's next tile if
that is EMPTY; with its stream exhausted the EMPTY tiles leave the ring. -/
def execLoaderFillBegin (core ring : Nat) (s : State) : Host.Outcome State Fault Refusal :=
  .next (match (s.core core).rings.find? (fun r => r.ring == ring) with
    | none => s
    | some r =>
      if r.heldVa.isSome || r.hostWait.isSome then s
      else if !r.ready then s.loaderDescs core r
      else if r.filling.isSome then s
      else if !r.ended && r.fills * r.size < descBytes r.ldDesc then
        let t := s.tile core r.nextTile
        if t.state == .empty && t.inRing r then
          (s.modTile core r.nextTile (fun t => { t with state := .filling })).modRing core ring (fun g => { g with
            filling := some g.nextTile, moved := 0, fills := g.fills + 1, nextTile := t.next.toNat
            pos := tabSet none g.pos g.nextTile (some g.fills) })
        else s
      else
        let ts := (rangeFrom r.first r.count).map (· % 256)
        let s := ts.foldl (fun s t => if (s.tile core t).state == .empty && (s.tile core t).inRing r
          then s.modTile core t (fun e => { e with sub := false }) else s) s
        if ts.any (fun t => (s.tile core t).inRing r) then s
        else s.modCore core (fun k => { k with rings := k.rings.filter (fun g => g.ring != ring) }))

/-- Moves the bytes of a fill as far as they come; the second part says that the tile is full (R433).
(DEDUCED, log 44.) -/
def State.fillMove (c tile : Nat) : Nat → State → LoadRing → State × LoadRing × Bool
  | 0, s, r => (s, r, false)
  | fuel + 1, s, r =>
    let t := s.tile c tile
    let f := t.bytes
    let b := (r.fills - 1) * f + r.moved
    if f ≤ r.moved then (s, r, true)
    else if r.ended || descBytes r.ldDesc ≤ b then
      (s.writeTile c t r.moved ((rangeFrom 0 (f - r.moved)).map (fun _ => 0)) [], { r with moved := f }, true)
    else
      let (a, m) := descByte r.ldDesc b
      let n := min m (f - r.moved)
      let put (s : State) (bs : List Byte) (p : List Nat) : State × LoadRing × Bool :=
        State.fillMove c tile fuel (s.writeTile c t r.moved bs p) { r with moved := r.moved + n, buffer := [], told := false }
      if !r.buffer.isEmpty then put s r.buffer []
      else match s.readSide (s.loaderOf c r) true a n with
        | .data s bs p => put s bs p
        | .fails cause b => (s.deferFault r.cmd cause b, { r with ended := true }, false)
        | .held s => (s, { r with heldVa := some (BitVec.ofNat 64 a) }, false)
        | .waits s => (s, r, false)
        | .host w h =>
          (s.sendHost (.loader c r.ring) w.qp (some (BitVec.ofNat 64 a)) (.rdmaRead w.qp w.key h n),
            { r with hostWait := some w.qp }, false)
        | .full b => let p := s.tellRing r b; (p.1, p.2, false)

/-- TILE_FILL_COMPLETE (R200, R433): the loader pours the stream into the tile; the full tile becomes READY. -/
def execTileFillComplete (core tile : Nat) (s : State) : Host.Outcome State Fault Refusal :=
  .next (match (s.core core).rings.find? (fun r => r.filling == some tile) with
    | none => s
    | some r =>
      if r.heldVa.isSome || r.hostWait.isSome then s
      else
        let p := State.fillMove core tile ((s.tile core tile).bytes + 2) s r
        if p.2.2 then
          (p.1.modRing core r.ring (fun _ => { p.2.1 with filling := none })).modTile core tile
            (fun t => { t with state := .ready, epoch := t.epoch + 1 })
        else p.1.modRing core r.ring (fun _ => p.2.1))

/-! ## The storer (R433) -/

/-- Moves the bytes of a drain as far as they come; the second part says that the drain is over. -/
def State.drainMove (c tile e : Nat) : Nat → State → LoadRing → State × LoadRing × Bool
  | 0, s, r => (s, r, false)
  | fuel + 1, s, r =>
    let t := s.tile c tile
    let f := t.bytes
    let done := tabGet 0 r.drained tile
    let b := e * f + done
    if f ≤ done || descBytes r.stDesc ≤ b then (s, r, true)
    else
      let (a, m) := descByte r.stDesc b
      let n := min m (f - done)
      let bs := s.readTile c t done n
      let on (s : State) : State × LoadRing × Bool :=
        State.drainMove c tile e fuel s { r with drained := tabSet 0 r.drained tile (done + n), told := false }
      match s.writeSide (s.loaderOf c r) true a bs (s.tilePoison c t done n) with
      | .done s => on s
      | .fails cause b => (s.deferFault r.cmd cause b, r, true)
      | .host w h => on (s.sendHost (.loader c r.ring) w.qp (some (BitVec.ofNat 64 a)) (.rdmaWrite w.qp w.key h bs))
      | .waits s => (s, r, false)
      | .full b => let p := s.tellRing r b; (p.1, p.2, false)

/-- STORER_DRAIN_COMPLETE (R200, R433): the storer writes a DRAINING tile to the stream position its fill came from, and
the tile becomes EMPTY; a tile without a recorded position writes nothing and is reported. -/
def execStorerDrainComplete (core tile : Nat) (s : State) : Host.Outcome State Fault Refusal :=
  .next (
    if (s.tile core tile).state != .draining then s
    else
      let empty (s : State) : State := s.modTile core tile (fun t => { t with state := .empty })
      match (s.core core).rings.find? (fun r => r.wb && (tabGet none r.pos tile).isSome) with
      | none =>
        (empty s).sendRecord { causeRecord causeTileBounds core 0 0 with aux := BitVec.ofNat 8 tile }
      | some r =>
        if r.heldVa.isSome || r.hostWait.isSome then s
        else
          let p := State.drainMove core tile ((tabGet none r.pos tile).getD 0) ((s.tile core tile).bytes + 2) s r
          let s := p.1.modRing core r.ring (fun _ => if p.2.2 then { p.2.1 with
            pos := tabSet none p.2.1.pos tile none, drained := tabSet 0 p.2.1.drained tile 0 } else p.2.1)
          if p.2.2 then empty s else s)

end Sys2Proof.Machine
end

