-- ==== Sys2Proof/Machine/Channels.lean ====
section
/-!
DEFINITION. Channels (05: R168-R170; 16: R439-R441, R468, R474): posts and takes, elements and credits, the ring
sequencer with its setup and collective contributions.
-/

namespace Sys2Proof.Machine

/-! ## Triggers (R439, R440) -/

/-- Operand ports of co. -/
def coPorts : List Nat := [0x2E8, 0x2E9]

/-- Channel-table entry n. -/
def State.chan (s : State) (n : Nat) : Chan := tabGet {} s.chans n

/-- Changes entry n. -/
def State.modChan (s : State) (n : Nat) (f : Chan → Chan) : State :=
  { s with chans := tabSet {} s.chans n (f (s.chan n)) }

/-- Channel number of a moved value. -/
def chanNo (v : Dword) : Nat := v.toNat % 2048

/-- The entry is an end of a kind, or a ring, that belongs to a context. -/
def Chan.endOf (e : Chan) (kind : BitVec 2) (c x : Nat) : Bool :=
  (e.kind == kind || e.kind == 3) && e.lcore.toNat == c && e.lctx.toNat == x

/-- Bytes of an element. -/
def Chan.elemBytes (e : Chan) : Nat := 64 * e.elines.toNat

/-- The checks of src of `ch.post` and of dst of `ch.wait` (R439). -/
def coAddr (c : Nat) (addr n : Nat) : Option Cause :=
  firstOf [
    causeIf (addr % 64 != 0) causeAlign 6 addr,
    causeIf (addr < c * 0x800000 || c * 0x800000 + 0x800000 < addr + n) causeTileBounds 6 addr]

/-- CH_POST (R439, R441). -/
def opChPost : Op :=
  { ports := coPorts, needs := fun _ => coPorts, weight := 2, access := true
    illegal := fun a => if (a.pre.chan (chanNo a.val)).endOf 1 a.core a.ctx then none else some a.port
    traps := fun a => coAddr a.core a.x1.toNat (a.pre.chan (chanNo a.val)).elemBytes
    unit := fun _ => some 11
    act := fun a s => s.pushCmd a 11 (.chPost a.x1 a.x2 a.val) 0 }
/-- CH_POST: issue of its slot. -/
def execChPost (m : Mv) (s : State) : Host.Outcome State Fault Refusal :=
  issueTrigger m 0x2EA opChPost s

/-- CH_WAIT (R440, R441). -/
def opChWait : Op :=
  { ports := coPorts, needs := fun _ => coPorts, weight := 2, access := true
    illegal := fun a => if (a.pre.chan (chanNo a.val)).endOf 2 a.core a.ctx then none else some a.port
    dests := fun a => destKeys (lateS a.sys (a.x2.toNat % 64))
    traps := fun a =>
      let e := a.pre.chan (chanNo a.val)
      if e.kind == 3 then addrCause a.pre a.x1.toNat 1 false else coAddr a.core a.x1.toNat e.elemBytes
    unit := fun _ => some 11
    act := fun a s =>
      let i := s.nextId
      let s := match lateS a.sys (a.x2.toNat % 64) with
        | some d => (s.addLate a.core a.ctx (.engine i) (some d) 0 false).markEmpty a.core a.ctx d
        | none => s
      s.pushCmd a 11 (.chWait a.x1 a.x2 a.val) 0 }
/-- CH_WAIT: issue of its slot. -/
def execChWait (m : Mv) (s : State) : Host.Outcome State Fault Refusal :=
  issueTrigger m 0x2EB opChWait s

/-! ## Elements and credits (R169, R474) -/

/-- Address of the receiving context that an element or a credit carries (DESIGN CHOICE, log 25: Table 10.4 names no field). -/
def ctxWord (c : BitVec 7) (x : BitVec 2) : Dword := (c ++ x).zeroExtend 64

/-- The entry that mirrors the sender of an element (kind 2) or of a credit (kind 1), the lowest-numbered one (R474). -/
def State.mirror (s : State) (kind : BitVec 2) (q : RemoteOp) : Option Nat :=
  (s.chans.find? (fun p =>
    let e := p.2
    e.kind == kind && e.peer == q.src && e.pcore == q.score && e.pctx == q.sctx
      && ctxWord e.lcore e.lctx == q.vaddr)).map (·.1)

/-- An operation of the channel unit for entry n, of its own context. -/
def State.chanOp (s : State) (n : Nat) (op rop : BitVec 8) (dst : BitVec 11) (va tag auxop : Dword) (data : List Byte)
    (poison : List Nat := []) : RemoteOp :=
  let e := s.chan n
  { op := op, rop := rop, stream := 0, sctx := e.lctx, score := e.lcore, seq := 0, src := s.fabid, dst := dst
    vaddr := va, tag := tag, auxop := auxop, data := data, poison := poison }

/-- Sends an operation of the channel unit. -/
def State.sendChan (s : State) (n : Nat) (kind : OutKind) (op : RemoteOp) : State :=
  let e := s.chan n
  s.sendOp { op := op, kind := kind, core := e.lcore.toNat, ctx := e.lctx.toNat, stage := .port 0, link := none
             firstSent := none, issued := s.cycle }

/-- A fresh tag. -/
def State.freshTag (s : State) : State × Dword :=
  ({ s with nextId := s.nextId + 1 }, BitVec.ofNat 64 s.nextId)

/-- An element enters the receive end n: slot RTAIL mod DEPTH of BUF, then RTAIL rises (R439). -/
def State.elementIn (s : State) (n : Nat) (q : RemoteOp) : State :=
  let e := s.chan n
  let slot := e.rtail.toNat % (max 1 e.depth.toNat)
  (s.sMove e.lcore.toNat (e.buf.toNat + slot * e.elemBytes) (q.data.take e.elemBytes) (cutPlaces q.poison 0 e.elemBytes)).modChan n
    (fun e => { e with rtail := e.rtail + 1 })

/-- A credit returns to the send end n (R169). -/
def State.creditIn (s : State) (n : Nat) : State := s.modChan n (fun e => { e with credit := e.credit + 1 })

/-- An element of send end n is still on its way. (DEDUCED, log 72.) -/
def State.elementOut (s : State) (n : Nat) : Bool :=
  s.out.any (fun o => match o.kind with
    | .element m _ => m == n
    | _ => false)

/-- Sends an element of send end n: at once where the other end is an entry of this device and no earlier element is on its
way (R169). -/
def State.sendElement (s : State) (n : Nat) (cmd : Cmd) (bs : List Byte) (ps : List Nat) : State :=
  let e := s.chan n
  let q := s.chanOp n opWrite ropElement e.peer (ctxWord e.pcore e.pctx) (BitVec.ofNat 64 cmd.serial)
    (BitVec.ofNat 64 bs.length) bs ps
  match (if e.peer = s.fabid && !s.elementOut n then s.mirror 2 q else none) with
  | some m => (s.elementIn m q).retireCmd cmd
  | none => s.sendChan n (.element n cmd.serial) q

/-- Returns a credit of receive end n. -/
def State.sendCredit (s : State) (n : Nat) : State :=
  let p := s.freshTag
  let s := p.1
  let e := s.chan n
  let q := s.chanOp n opWrite ropCredit e.peer (ctxWord e.pcore e.pctx) p.2 0 []
  match (if e.peer = s.fabid then s.mirror 1 q else none) with
  | some m => s.creditIn m
  | none => s.sendChan n (.credit n) q

/-! ## Rings (R170, R441, R468) -/

/-- Members of the ring, bytes of its buffer and of a segment, chunks of a segment. -/
def Chan.members (e : Chan) : Nat := e.nstep.toNat / 2 + 1
def Chan.bufBytes (e : Chan) : Nat := e.depth.toNat * e.elemBytes
def Chan.segBytes (e : Chan) : Nat := e.bufBytes / e.members
def Chan.chunks (e : Chan) : Nat := e.segBytes / max 1 e.chunk.toNat

/-- The buffer is no multiple of R * CHUNK. -/
def Chan.badBuffer (e : Chan) : Bool := e.chunk == 0 || e.bufBytes % (e.members * e.chunk.toNat) != 0

/-- Position of this member: its distance along NEXT from the member with the lowest fabric ID; setup contributions
arrive from PREV backward (R441, R468). (DESIGN CHOICE, log 25.) (DEDUCED, log 72.) -/
def Chan.posOf (e : Chan) (self : Nat) : Nat :=
  match minBy id e.origins with
  | none => 0
  | some m => if self < m then 0 else (e.origins.takeWhile (· != m)).length + 1

/-- Tag of a collective contribution (R170): channel, step and chunk; SEQ and the bytes of the chunk stand in AUXOP.
(DESIGN CHOICE, log 25.) -/
def ringTag (n step chunk : Nat) : Dword := BitVec.ofNat 64 (2 ^ 63 + n * 2 ^ 48 + step * 2 ^ 32 + chunk)

/-- Address of a chunk of a segment in BUF. -/
def Chan.chunkAddr (e : Chan) (seg chunk : Nat) : Nat :=
  e.buf.toNat + seg * e.segBytes + chunk * e.chunk.toNat

/-- Sends the contributions of the current step: segment (p - t) mod R, chunk by chunk (R441). -/
def State.sendStep (s : State) (n : Nat) : State :=
  let e := s.chan n
  let t := e.step.toNat
  let r := e.members
  let seg := (e.position + r * (t + 1) - t) % r
  (rangeFrom 0 e.chunks).foldl (fun s i =>
    let addr := e.chunkAddr seg i
    let bs := s.sRead addr e.chunk.toNat
    s.sendChan n (.collective n) (s.chanOp n opCollective 0 e.next 0 (ringTag n t i)
      (BitVec.ofNat 64 (e.seq.toNat + 2 ^ 24 * bs.length)) bs (s.poisonMap addr bs.length))) s

/-- Some contribution of the member has not left for good (R468): it stands at the port, or was refused and leaves again. So
no drain strands one (R472). -/
def State.ringSending (s : State) (n : Nat) : Bool :=
  s.out.any (fun o => o.kind == .collective n && (match o.stage with
    | .port _ | .refused _ => true
    | .sent => false))

/-- The collective of a ring is complete: SEQ rises, STEP returns to 0, the barrier word is told (R441), once every
contribution has been handed to the NEXT link (R468). It leaves the entry as the columns of Table 22.4 have it (R471). -/
def State.ringFinish (s : State) (n : Nat) : State :=
  let e := s.chan n
  match e.running with
  | none => s
  | some cmd =>
    if e.step.toNat < e.nstep.toNat || s.ringSending n then s
    else
      let s := s.modChan n (fun e => { e with seq := e.seq + 1, step := 0, bitmap := [], running := none })
      let s := match cmd.op with
        | .chPost _ done _ =>
          if done.getLsbD 0 then s.reportBar cmd.core (bits done.toNat 29 3 * 8) e.bufBytes else s
        | _ => s
      s.retireCmd cmd

/-- The current step of a ring is complete when all its chunks have come; the next step is sent. -/
def State.ringStep (s : State) (n : Nat) : State :=
  let e := s.chan n
  if e.bitmap.length < e.chunks then s
  else
    let s := s.modChan n (fun e => { e with step := e.step + 1, bitmap := [] })
    if (s.chan n).step.toNat < e.nstep.toNat then s.sendStep n else s.ringFinish n

/-- This member posts collective SEQ (R441): a failed ring ends the posting context. -/
def State.ringPost (s : State) (n : Nat) (cmd : Cmd) : State :=
  let e := s.chan n
  let s := s.modCtx cmd.core cmd.ctx (fun cx => { cx with posted := tabSet none cx.posted n (some e.seq) })
  if e.broken || e.badBuffer then
    s.remoteErr cmd.core cmd.ctx (s.chanOp n opCollective 0 e.next 0 0 0 [])
  else
    let s := s.modChan n (fun e => { e with
      running := some cmd, step := 0, bitmap := [], position := e.posOf s.fabid.toNat })
    let s := (s.performed cmd true)
    if e.nstep.toNat = 0 then s.ringFinish n else s.sendStep n

/-- The entry leaves SETUP once its own contribution has returned (R468). Contributions come in the order in which the members
lie behind PREV, so those of all other members of the ring have come before it: with R - 1 of them the ring is whole, with
any other number it does not close into R members (R441). (DEDUCED, log 72.) -/
def Chan.settle (e : Chan) : Chan :=
  let other := e.members - 1
  if e.ownBack then { e with setup := false, broken := e.broken || other != e.origins.length }
  else if other < e.origins.length then { e with setup := false, broken := true }
  else e

/-- Sends a setup contribution of an origin to NEXT (R468). (DESIGN CHOICE, log 25.) -/
def State.sendSetup (s : State) (n : Nat) (origin : BitVec 11) : State :=
  let p := s.freshTag
  p.1.sendChan n (.setup n)
    (p.1.chanOp n opCollective ropSetup (p.1.chan n).next (origin.zeroExtend 64) p.2 (BitVec.ofNat 64 n) [])

/-- An entry is written by kernel load or `ch.wr` (R203, R468, R471): the ring state starts over, a ring enters SETUP, and no
collective of it has been posted. -/
def State.writeChan (s : State) (n : Nat) (e : Chan) : State :=
  let s := s.modChan n (fun _ => { e with
    setup := e.kind == 3, ownBack := false, origins := [], setupTags := [], position := 0, running := none, bitmap := [], broken := false })
  let s := s.modCtx e.lcore.toNat e.lctx.toNat (fun cx => { cx with posted := tabSet none cx.posted n none })
  if e.kind == 3 then s.sendSetup n s.fabid else s

/-! ## Acceptance by the co unit -/

/-- The barrier word of `ch.post` on a send end is told once the read is done (R439). -/
def State.postBar (s : State) (cmd : Cmd) (done : Dword) (n : Nat) : State :=
  if done.getLsbD 0 then s.reportBar cmd.core (bits done.toNat 29 3 * 8) n else s

/-- The head command of a context can be performed: a credit, an element, a ring at rest, a collective passed; no `fence.st`
before a post is under way (R145). -/
def State.coReady (s : State) (cmd : Cmd) : Bool :=
  s.pushOrdered cmd && (match cmd.op with
    | .chPost _ _ v =>
      let e := s.chan (chanNo v)
      !s.fencedOff cmd && (if e.kind == 3 then !e.setup && e.running.isNone else e.credit != 0)
    | .chWait _ _ v =>
      let n := chanNo v
      let e := s.chan n
      if e.kind == 3 then
        match tabGet none (s.ctx cmd.core cmd.ctx).posted n with
        | none => true
        | some q => let d := (e.seq - q).toNat; 1 ≤ d && d < 2 ^ 23
      else e.rtail != e.rhead
    | _ => true)

/-- The co unit performs the head command of a context's queue (R157, R439-R441). -/
def State.coAccept (s : State) (c : Nat) : State :=
  match s.nextCmd c 11 s.coReady with
  | none => s
  | some cmd =>
    let s := s.dequeue cmd
    match cmd.op with
    | .chPost src done v =>
      let n := chanNo v
      let e := s.chan n
      if e.kind == 3 then s.ringPost n cmd
      else
        let bs := s.sRead src.toNat e.elemBytes
        let poison := s.poisonMap src.toNat e.elemBytes
        let s := s.modChan n (fun e => { e with credit := e.credit - 1 })
        let s := (s.performed cmd true).postBar cmd done e.elemBytes
        s.sendElement n cmd bs poison
    | .chWait dst _ v =>
      let n := chanNo v
      let e := s.chan n
      let s := s.performed cmd false
      if e.kind == 3 then (s.landEngine c cmd.ctx cmd.serial (e.seq.zeroExtend 64)).retireCmd cmd
      else
        let slot := e.rhead.toNat % (max 1 e.depth.toNat)
        let src := e.buf.toNat + slot * e.elemBytes
        let s := s.sMove c dst.toNat (s.sRead src e.elemBytes) (s.poisonMap src e.elemBytes)
        let s := s.landEngine c cmd.ctx cmd.serial (e.rhead.zeroExtend 64)
        ((s.modChan n (fun e => { e with rhead := e.rhead + 1 })).sendCredit n).retireCmd cmd
    | _ => s.retireCmd cmd

/-! ## Arrivals -/

/-- Takes member `idx` of the arrival list, where it satisfies p. -/
def State.takeInbox (s : State) (idx : Nat) (p : RemoteOp → Bool) : Option (RemoteOp × State) :=
  match s.inbox[idx]? with
  | some q => if p q then some (q, { s with inbox := s.inbox.eraseIdx idx }) else none
  | none => none

/-- CHANNEL_ELEMENT (R439, R474): an element reaches the entry that mirrors its sender, or is refused. -/
def execChannelElement (idx : Nat) (s : State) : Host.Outcome State Fault Refusal :=
  .next (match s.takeInbox idx RemoteOp.isElement with
    | none => s
    | some (q, s) => match s.mirror 2 q with
      | some n => (s.elementIn n q).respond opAck 0 q []
      | none => s.refuse q)

/-- CHANNEL_CREDIT (R169, R474): a credit reaches the send end that mirrors its sender, or is refused. -/
def execChannelCredit (idx : Nat) (s : State) : Host.Outcome State Fault Refusal :=
  .next (match s.takeInbox idx (fun q => q.op == opWrite && q.rop == ropCredit && q.stream == 0) with
    | none => s
    | some (q, s) => match s.mirror 1 q with
      | some n => (s.creditIn n).respond opAck 0 q []
      | none => s.refuse q)

/-- SETUP_CONTRIBUTION (R468): forwarded once for each origin, discarded and acknowledged again, or refused; one that its
sender has sent anew, for an entry written since, is no repeat. (DEDUCED, log 72.) -/
def execSetupContribution (idx : Nat) (s : State) : Host.Outcome State Fault Refusal :=
  .next (match s.takeInbox idx (fun q => q.op == opCollective && q.rop == ropSetup) with
    | none => s
    | some (q, s) =>
      let n := q.auxop.toNat % 2048
      let e := s.chan n
      let origin := q.vaddr.toNat % 2048
      if e.kind != 3 || q.src != e.prev then s.refuse q
      else if origin = s.fabid.toNat then
        if e.setup then
          (s.modChan n (fun e => { e with ownBack := true, setupTags := e.setupTags ++ [q.tag] }.settle)).respond opAck 0 q []
        else if e.ownBack || e.broken then s.respond opAck 0 q []
        else s.refuse q
      else if e.origins.contains origin && (e.setup || e.setupTags.contains q.tag) then s.respond opAck 0 q []
      else if !e.setup then s.refuse q
      else
        let s := s.modChan n (fun e => { e with origins := e.origins ++ [origin], setupTags := e.setupTags ++ [q.tag] })
        let s := s.sendSetup n (BitVec.ofNat 11 origin)
        (s.modChan n Chan.settle).respond opAck 0 q [])

/-- COLLECTIVE_CONTRIBUTION (R170, R441, R468): added, forwarded into BUF, discarded and acknowledged again, or refused. -/
def execCollectiveContribution (idx : Nat) (s : State) : Host.Outcome State Fault Refusal :=
  .next (match s.takeInbox idx (fun q => q.op == opCollective && q.rop != ropSetup) with
    | none => s
    | some (q, s) =>
      let n := bits q.tag.toNat 58 48
      let t := bits q.tag.toNat 47 32
      let i := bits q.tag.toNat 31 0
      let e := s.chan n
      let ahead := ((q.auxop.extractLsb' 0 24 : BitVec 24) - e.seq).toNat
      if e.kind != 3 || q.src != e.prev || e.setup then s.refuse q
      else if 2 ^ 23 ≤ ahead || (ahead = 0 && (t < e.step.toNat || (t = e.step.toNat && e.bitmap.contains i)))
      then s.respond opAck 0 q []
      else if 0 < ahead || e.step.toNat < t || e.running.isNone then s.refuse q
      else
        let r := e.members
        let seg := (e.position + r * (t + 2) - 1 - t) % r
        let addr := e.chunkAddr seg i
        let own := s.sRead addr e.chunk.toNat
        let adds : Bool := t < r - 1
        let bs := if adds then reduceBytes e.op.toNat e.type.toNat own.length q.data own else q.data
        let ps := if adds then elemPlaces (elemBytes e.op.toNat e.type.toNat) own.length (q.poison ++ s.poisonMap addr own.length)
          else q.poison
        let s := s.sMove e.lcore.toNat addr bs ps
        let s := s.modChan n (fun e => { e with bitmap := i :: e.bitmap })
        (s.ringStep n).respond opAck 0 q [])

/-- Rings whose last step is over and whose contributions have left since then (R468). -/
def State.ringsFinish (s : State) : State :=
  s.chans.foldl (fun s p => if p.2.kind == 3 && p.2.running.isSome then s.ringFinish p.1 else s) s

end Sys2Proof.Machine
end

