-- ==== Sys2Proof/Machine/Preempt.lean ====
section
/-!
DEFINITION. Pre-emption and resumption (R252-R260, R347): the request, the image as bytes (Tables 9.3-9.5), the save,
the restore, and what happens to a tile step whose image is lost.
-/

namespace Sys2Proof.Machine

/-! ## The request (R252) -/

/-- A pre-emption of the core affects the context: it holds a tile step in PLACED, RUNNING or SYSTEM and is not halted on
its system plane (R252). -/
def State.affected (s : State) (c x : Nat) : Bool :=
  match s.stepOf c x with
  | some t => (t.state == .placed || t.state == .running) && !(s.ctx c x).sysHalted
  | none => false

/-- Affected contexts of a core, as LIVE. -/
def State.affectedMask (s : State) (c : Nat) : BitVec 4 :=
  allCtxs.foldl (fun m x => if s.affected c x then m ||| (1 <<< x) else m) 0

/-- Tile steps of the gang instances that have a placed member on a core, halted members among them (R250, R252). -/
def State.gangsOn (s : State) (c : Nat) : List TileStep :=
  (allCtxs.filterMap (s.stepOf c)).flatMap (fun t =>
    let g := s.gangOf t
    if g.length ≤ 1 then [] else g)

/-- The cores a request extends to: those of every gang instance with a member on one of them (R252). -/
def State.requestCores (s : State) : Nat → List Nat → List Nat
  | 0, cs => cs
  | fuel + 1, cs =>
    let more := distinct (cs ++ cs.flatMap (fun c => (s.gangsOn c).filterMap (·.core)))
    if more.length = cs.length then cs else s.requestCores fuel more

/-- A gang instance of the request has a member halted on its system plane (R250). -/
def State.haltedMember (s : State) (cs : List Nat) : Bool :=
  cs.any (fun c => (s.gangsOn c).any (fun t => match t.core, t.ctx with
    | some d, some x => (s.ctx d x).sysHalted
    | _, _ => false))

/-- The context stands at a user-plane bundle boundary (R247, R248, R253); one that has issued `task.done` stops at none.
(DEDUCED, log 33.) -/
def Ctx.atBoundary (cx : Ctx) : Bool :=
  !cx.modeSys && cx.completing.isEmpty && cx.block != .phase && !cx.doneIssued

/-- A core receives the request: PREEMPT is raised in every affected context, and one that stands at a bundle boundary
stops there. -/
def State.preemptCore (s : State) (c : Nat) (area : Dword) (group : List Nat) : State :=
  let live := s.affectedMask c
  let v : Saving := { area := area, live := live, group := group }
  let s := s.modCore c (fun k => { k with saving := some v, saveFailed := false })
  allCtxs.foldl (fun s x =>
    if live.getLsbD x then s.modCtx c x (fun cx => { cx with preempt := true, stopped := cx.stopped || cx.atBoundary }) else s) s

/-- The request of a core and of every core it extends to, with the area named for each. -/
def State.requestPreempt (s : State) (cs : List Nat) (area : Nat → Dword) : State :=
  cs.foldl (fun s c => s.preemptCore c (area c) cs) s

/-- An image area that a request may name (R252, Table 13.5). -/
def areaOk (a : Dword) : Bool := a != 0 && a.toNat % 4096 == 0

/-! ## The image (Tables 9.3-9.5) -/

/-- Bits of a mask, least significant first. -/
def maskBytes (n : Nat) (f : Nat → Bool) : List Byte :=
  leBytes ((rangeFrom 0 (8 * n)).foldl (fun v i => if f i then v + 2 ^ i else v) 0) n

/-- Keys of the cluster-local operand latches and result latches of the image, in order (DESIGN CHOICE, log 31: Table 9.5 gives their
place and size, not their order). -/
def localLatchKeys : List Nat :=
  (rangeFrom 0 8).flatMap (fun k =>
    ((rangeFrom 0 256).filter (fun d => isOperandPort (BitVec.ofNat 10 d))).map (· + 1024 * k))

/-- Keys of the shared operand latches. (DESIGN CHOICE, log 31.) -/
def sharedLatchKeys : List Nat := (rangeFrom 256 768).filter (fun d => isOperandPort (BitVec.ofNat 10 d))

/-- Keys of the cluster-local and shared result latches. -/
def localResultKeys : List Nat := (rangeFrom 0 8).flatMap (fun k => (rangeFrom 1 5).map (· + 1024 * k))
def sharedResultKeys : List Nat := rangeFrom 0x148 6

/-- The latch part of a context section: 64 B for each cluster-local latch, 8 B for each shared one, then a byte of valid
and hold bits for each operand latch. (DESIGN CHOICE, log 31.) -/
def Ctx.latchBytes (cx : Ctx) : List Byte :=
  let op (k : Nat) : Latch := tabGet {} cx.user.latches k
  let res (k : Nat) : Line := tabGet 0 cx.user.results k
  localLatchKeys.flatMap (fun k => lineBytes (op k).val)
    ++ localResultKeys.flatMap (fun k => lineBytes (res k))
    ++ sharedLatchKeys.flatMap (fun k => leBytes (low64 (op k).val).toNat 8)
    ++ sharedResultKeys.flatMap (fun k => leBytes (low64 (res k)).toNat 8)
    ++ (localLatchKeys ++ sharedLatchKeys).map (fun k =>
      BitVec.ofNat 8 ((if (op k).valid then 1 else 0) + (if (op k).hold then 2 else 0)))

/-- Latches read back from that part. (DESIGN CHOICE, log 31.) -/
def latchesOf (b : List Byte) : Tab Latch × Tab Line :=
  let nl := localLatchKeys.length
  let nr := localResultKeys.length
  let ns := sharedLatchKeys.length
  let o1 := 64 * nl
  let o2 := o1 + 64 * nr
  let o3 := o2 + 8 * ns
  let o4 := o3 + 8 * sharedResultKeys.length
  let flag (i : Nat) : Nat := fieldAt b (o4 + i) 1
  let mk (v : Line) (f : Nat) : Latch := { val := v, valid := bits f 0 0 == 1, hold := bits f 1 1 == 1 }
  let ops := ((rangeFrom 0 nl).zip localLatchKeys).map (fun p =>
      (p.2, mk (BitVec.ofNat 512 (fieldAt b (64 * p.1) 64)) (flag p.1)))
    ++ ((rangeFrom 0 ns).zip sharedLatchKeys).map (fun p =>
      (p.2, mk (BitVec.ofNat 512 (fieldAt b (o2 + 8 * p.1) 8)) (flag (nl + p.1))))
  let res := ((rangeFrom 0 nr).zip localResultKeys).map (fun p =>
      (p.2, BitVec.ofNat 512 (fieldAt b (o1 + 64 * p.1) 64)))
    ++ ((rangeFrom 0 6).zip sharedResultKeys).map (fun p =>
      (p.2, BitVec.ofNat 512 (fieldAt b (o3 + 8 * p.1) 8)))
  (ops.foldl (fun t p => tabSet {} t p.1 p.2) [], res.foldl (fun t p => tabSet 0 t p.1 p.2) [])

/-- A due-buffer record in 128 bytes: offset, kind and number of its destination, lane mask, flags, value.
(DESIGN CHOICE, log 31.) -/
def DueRec.bytes (r : DueRec) (cyc : Dword) : List Byte :=
  let p : Nat × Nat := match r.dst with
    | .latch k => (0, k)
    | .sreg n => (1, n)
    | .vreg cl n => (2, 64 * cl + n)
    | .qpair p => (3, p)
    | .gpair cl p => (4, 64 * cl + p)
  leBytes (r.due - cyc).toNat 8 ++ leBytes p.1 8 ++ leBytes p.2 8 ++ leBytes r.mask.toNat 4 ++ leBytes r.flags.toNat 4
    ++ leBytes 0 32 ++ lineBytes r.val

/-- A record read back, for a cycle count. (DESIGN CHOICE, log 31.) -/
def dueOf (b : List Byte) (cyc : Dword) : DueRec :=
  let n := fieldAt b 16 8
  { due := cyc + BitVec.ofNat 64 (fieldAt b 0 8)
    dst := (match fieldAt b 8 8 with
      | 0 => .latch n
      | 1 => .sreg n
      | 2 => .vreg (n / 64) (n % 64)
      | 3 => .qpair n
      | _ => .gpair (n / 64) (n % 64))
    mask := BitVec.ofNat 16 (fieldAt b 24 4), flags := BitVec.ofNat 6 (fieldAt b 28 4)
    val := BitVec.ofNat 512 (fieldAt b 64 64) }

/-- Records in landing order (R60): by cycle count, and among equals as issued. -/
def landingOrder (rs : List DueRec) (cyc : Dword) : List DueRec :=
  (rangeFrom 0 33).flatMap (fun i => rs.filter (fun r => (r.due - cyc).toNat == i))

/-- Kind, format index and operands of a command in the records of an image. (DESIGN CHOICE, log 31.) -/
def CmdOp.record : CmdOp → Nat × Nat × List Dword
  | .mstart a0 a1 b0 b1 _ _ fix g => (if g.isSome then 2 else 1, fix, [a0, a1, b0, b1])
  | .mdrain r d w => (3, 0, [r, d, w, 0])
  | .mepi r d w fix => (4, fix, [r, d, w, 0])
  | .mepiAcc r d w fix => (5, fix, [r, d, w, 0])
  | .mepiRm r va rw w fix => (6, fix, [r, va, rw, w])
  | .chPost a b n => (7, 0, [a, b, n, 0])
  | .chWait a b n => (8, 0, [a, b, n, 0])
  | _ => (0, 0, [0, 0, 0, 0])

/-- A command in 64 bytes: eight bytes of zero, kind, format index, plane, number of an `mstart.g`, operands, what its
progress counts, its format entry (DESIGN CHOICE, log 31: Table 9.5 gives the place and size of progress records and withdrawn
commands, not their fields). -/
def Cmd.bytes (cmd : Cmd) (next : Nat) (entry : Dword) : List Byte :=
  let r := cmd.op.record
  let group := match cmd.op with
    | .mstart _ _ _ _ _ _ _ (some g) => g
    | _ => 0
  leBytes 0 8 ++ leBytes (r.1 + r.2.1 * 2 ^ 8 + (if cmd.sys then 2 ^ 16 else 0) + group * 2 ^ 32) 8 ++ dwordsBytes r.2.2
    ++ leBytes next 8 ++ leBytes entry.toNat 8

/-- The operation of such a record. (DESIGN CHOICE, log 31.) -/
def recordOp (b : List Byte) (rowsA rowsB : List Line) : Option CmdOp :=
  let o (i : Nat) : Dword := BitVec.ofNat 64 (fieldAt b (16 + 8 * i) 8)
  let fix := fieldAt b 9 1 % 16
  match fieldAt b 8 1 with
  | 1 => some (.mstart (o 0) (o 1) (o 2) (o 3) rowsA rowsB fix none)
  | 2 => some (.mstart (o 0) (o 1) (o 2) (o 3) rowsA rowsB fix (some (fieldAt b 12 4)))
  | 3 => some (.mdrain (o 0) (o 1) (o 2))
  | 4 => some (.mepi (o 0) (o 1) (o 2) fix)
  | 5 => some (.mepiAcc (o 0) (o 1) (o 2) fix)
  | 6 => some (.mepiRm (o 0) (o 1) (o 2) (o 3) fix)
  | 7 => some (.chPost (o 0) (o 1) (o 2))
  | 8 => some (.chWait (o 0) (o 1) (o 2))
  | _ => none

/-- Channel of a co command. -/
def CmdOp.channel : CmdOp → Nat
  | .chPost _ _ n | .chWait _ _ n => chanNo n
  | _ => 0

/-- The destination port of a `ch.wait`: that of its s register (R47); none for other commands. -/
def CmdOp.recvPort : CmdOp → Option Nat
  | .chWait _ ctl _ => some (0x100 + ctl.toNat % 64)
  | _ => none

/-- What step 5 of R253 moves into the image of a context: its stopped array operation and epilogue, its withdrawn co
commands. -/
structure Withdrawn where
  aop : Option CeRun
  epi : Option MeRun
  co  : List Cmd

/-- Element index at which a stopped array operation goes on (R410). -/
def CeRun.nextK (r : CeRun) : Nat := r.done * r.geo.per

/-- The parts of the section of a context: whether an incremental save writes it, its offset in the section, its bytes
(Table 9.5, R256). Guard g n of a cluster stands at +2n of its 16 B. (DESIGN CHOICE, log 31.) -/
def State.ctxParts (s : State) (c x : Nat) (live : Bool) (sv : Withdrawn) : List (Bool × Nat × List Byte) :=
  let cx := s.ctx c x
  let d (i : Nat) : Bool := live && cx.dirtymap.getLsbD i
  let w (n : Nat) : List Byte := leBytes n 8
  let due := landingOrder cx.user.due cx.user.cyc
  (rangeFrom 0 16).map (fun i =>
      (d i, 32 * i, (rangeFrom (4 * i) 4).flatMap (fun n => leBytes (cx.readS false n).toNat 8)))
    ++ [(live, 0x200, maskBytes 8 (fun n => !cx.isEmpty n)),
      (live, 0x208, (rangeFrom 0 8).flatMap (fun k => maskBytes 8 (fun n => !cx.isEmpty (vEmptyKey k n)))),
      (d 32, 0x280, (rangeFrom 0 8).flatMap (fun k => (rangeFrom 0 8).flatMap (fun n =>
        leBytes (if 1 ≤ n && n ≤ 6 then (cx.readG k n).toNat else 0) 2))),
      (d 32, 0x300, maskBytes 8 (fun n => 1 ≤ n && n ≤ 6 && cx.readQ n)),
      (live, 0x308, w cx.user.cyc.toNat ++ w cx.trapCause.toNat ++ w cx.trapPc.toNat ++ w cx.trapInfo.toNat
        ++ w cx.acflags.toNat ++ (rangeFrom 0 6).flatMap (fun n => w (tabGet 0 cx.loopctr n).toNat)
        ++ w (cx.fmtFix.toNat * 256 + cx.fmtLevel.toNat)
        ++ (rangeFrom 0 16).flatMap (fun n => w (tabGet 0 cx.qstall n).toNat) ++ w cx.qmode.toNat
        ++ w (cx.strStream.toNat * 65536 + cx.strDest.toNat)),
      (d 33, 0x400, (rangeFrom 0 6).flatMap (fun n => leBytes (tabGet 0 cx.loops n).toNat 16)),
      (d 34, 0x460, (rangeFrom 0 16).flatMap (fun n => w (tabGet 0 cx.fmt n).toNat)),
      (live, 0x500, (match sv.aop with
        | some r => r.cmd.bytes (r.nextK + r.pass * 2 ^ 32) r.entry
        | none => leBytes 0 64)),
      (live, 0x540, (match sv.epi with
        | some r => r.cmd.bytes r.row r.entry
        | none => leBytes 0 64)),
      (live, 0x600, (w sv.co.length ++ (sv.co.flatMap (fun m => m.bytes 0 0)).drop 8 ++ leBytes 0 1024).take 1024),
      (live, 0xA00, (sv.co.flatMap (fun m => match m.op.recvPort with
          | some p => leBytes (m.op.channel * 1024 + p) 8
          | none => []) ++ leBytes 0 512).take 512),
      (d 36, 0x1000, (cx.latchBytes ++ leBytes 0 0x4000).take 0x4000)]
    ++ (rangeFrom 0 8).flatMap (fun k => (rangeFrom 0 16).map (fun i =>
      (d (16 + i), 0x8000 + 64 * (64 * k + 4 * i), (rangeFrom (4 * i) 4).flatMap (fun n => lineBytes (cx.readV k n)))))
    ++ [(live, 0x10000, w due.length ++ leBytes 0 56 ++ due.flatMap (fun r => r.bytes cx.user.cyc))]

/-- The parts of the image of a core that are not of one context (Table 9.3). -/
def State.coreParts (s : State) (c : Nat) (mas : Bool) : List (Bool × Nat × List Byte) :=
  let k := s.core c
  (rangeFrom 0 256).map (fun r =>
      (mas, 0x081000 + 1024 * r, (rangeFrom (256 * r) 256).flatMap (fun i => leBytes (tabGet 0 k.mas i).toNat 4)))
    ++ [(mas, 0x0C1000, (rangeFrom 0 256).map (fun r =>
        BitVec.ofNat 8 ((if tabGet false k.masP r then 8 else 0) + (tabGet 0 k.masCtx r).toNat))),
      (true, 0x0C1100, k.ucodeWords.flatMap (fun u => leBytes u.toNat 4)),
      (true, 0x0C1120, leBytes (if k.shufBank then 1 else 0) 8),
      (true, 0x0C2000, (rangeFrom 0 0x4000).map (tabGet 0 k.shuffle)),
      (true, 0x0CA000, (rangeFrom 0 256).flatMap (fun t =>
        let e := tabGet {} k.tiles t
        leBytes e.low.toNat 8 ++ leBytes e.high.toNat 8))]

/-- Offset in the image of the section of a context. -/
def sectionAt (x : Nat) : Nat := 0x001000 + 0x020000 * x

/-- Offset in the image of the slice mirror. -/
def mirrorAt : Nat := 0x100000

/-- Bytes of an image area. -/
def imageSize : Nat := 0x900000

/-- The header (Table 9.4). -/
def State.header (s : State) (c : Nat) (v : Saving) (valid incr : Bool) (sv : Nat → Withdrawn) : List Byte :=
  let flag (b : Bool) (n : Nat) : Nat := if b then 2 ^ n else 0
  let marks := allCtxs.foldl (fun m x => match s.stepOf c x with
    | some t => m + flag (v.live.getLsbD x && t.emark) x
    | none => m) 0
  leBytes (flag valid 63 + flag incr 62 + 0x40 * 2 ^ 40 + v.live.toNat * 2 ^ 36 + marks * 2 ^ 32 + c) 8
    ++ leBytes s.cycle.toNat 8
    ++ allCtxs.flatMap (fun x =>
      leBytes (flag (sv x).aop.isSome 31 + flag (sv x).epi.isSome 30 + (s.ctx c x).user.pc.toNat) 8)
    ++ leBytes 0 208

/-! ## The save (R253, R256) -/

/-- Every page of an area can be written and read back, in HBM. -/
def State.areaMapped (s : State) (area : Nat) : Bool :=
  (piecesOf area imageSize).all (fun p => match s.walk p.1 with
    | some (level, e) => pteR e && pteW e && pteImmediate e && leafPa e level p.1 < hbmTop
    | none => false)

/-- Line numbers of a core's slice that lie in kept ranges (R86). -/
def State.keptLines (s : State) (c : Nat) : List Nat :=
  (rangeFrom (0x20000 * c) 0x20000).filter (fun l => !s.discardable (64 * l))

/-- What a save moves into the image of a context. -/
def State.withdrawn (s : State) (c x : Nat) : Withdrawn :=
  let k := s.core c
  { aop := tabGet none k.ceResume x, epi := tabGet none k.meResume x, co := tabGet [] k.queues (4 * 11 + x) }

/-- What a save keeps of a context beside its image. (DEDUCED, log 32.) -/
def State.savedOf (s : State) (c x : Nat) (tags : List Nat) : Saved :=
  let rows := match (s.withdrawn c x).aop.map (·.cmd.op) with
    | some (.mstart _ _ _ _ a b _ _) => (a, b)
    | _ => ([], [])
  { rowsA := rows.1, rowsB := rows.2, posted := (s.ctx c x).posted, tags := tags }

/-- The commands in a co queue may be withdrawn: none, or the head waits for a credit, an element or a collective. -/
def State.coWithdrawable (s : State) (c x : Nat) : Bool :=
  match tabGet [] (s.core c).queues (4 * 11 + x) with
  | [] => true
  | cmd :: _ => !s.coReady cmd

/-- Step 4 of R253 holds for an affected context: its values have arrived, its commands are complete but the withdrawn
and stopped ones, STRFENCE reads zero. -/
def State.quiesced (s : State) (c x : Nat) : Bool :=
  let k := s.core c
  let cx := k.ctx x
  let sv := s.withdrawn c x
  let kept := sv.co.map (·.serial) ++ (sv.aop.map (·.cmd.serial)).toList ++ (sv.epi.map (·.cmd.serial)).toList
  cx.stopped && s.coWithdrawable c x && cx.strFence == 0
    && cx.late.all (fun l => sv.co.any (fun m => l.kind == .engine m.serial))
    && cx.live.all (fun p => kept.contains p.1)

/-- The core can save its image now (R253): its array operation has reached a boundary, its affected contexts are quiet.
(DEDUCED, log 81.) -/
def State.canSave (s : State) (c : Nat) (v : Saving) : Bool :=
  (s.core c).ce.isNone && allCtxs.all (fun x => !v.live.getLsbD x || s.quiesced c x)

/-- Writes the parts of an image that a save writes. -/
def State.writeParts (s : State) (base : Nat) (full : Bool) (ps : List (Bool × Nat × List Byte)) : State :=
  ps.foldl (fun s p => if full || p.1 then s.vWrite (base + p.2.1) p.2.2 else s) s

/-- The image at an area holds VALID and names a core (R256). -/
def State.imageHeader (s : State) (area : Nat) : Option Nat := (s.vRead area 8).map (fun b => fieldAt b 0 8)

/-- A context leaves a core: it becomes IDLE with its registers as they stand (R49, R253); accesses under way are still
performed, and their values discarded. -/
def Ctx.leave (cx : Ctx) : Ctx :=
  { cx with
    late := cx.late.filterMap (fun l => match l.kind with
      | .engine _ => none
      | _ => some { l with dst := none })
    state := .idle, block := .no, seatedNow := false, completing := [], preempt := false, stopped := false
    userHalted := false, timer := none, step := none, doneIssued := false, fences := [], live := []
    acquireHold := [], empty := [] }

/-- A context leaves its core: what it has withdrawn or a unit has not accepted is discarded, and it holds no tile and no loop
buffer any more. (DEDUCED, log 33.) (DESIGN CHOICE, log 73.) -/
def State.evict (s : State) (c x : Nat) : State :=
  let ms := (s.core c).unaccepted x
  let ids := (s.ctx c x).live.map (·.1)
  let s := (s.dropPost c x).modCore c (fun k =>
    let k := (k.discard x).freeLoop x
    { k with
      saving := k.saving.map (fun v => { v with live := v.live &&& ~~~ ((1 : BitVec 4) <<< x) })
      ceResume := tabSet none k.ceResume x none, meResume := tabSet none k.meResume x none
      tileUse := k.tileUse.filter (fun p => !ids.contains p.2) })
  s.modCtx c x (fun cx => (ms.foldl Ctx.discard cx).leave)

/-- A tile step leaves the context it is on, where it is on one. -/
def State.evictStep (s : State) (t : TileStep) : State :=
  match t.core, t.ctx with
  | some c, some x => if (s.ctx c x).step == some t.id then s.evict c x else s
  | _, _ => s

/-- The image of a tile step is lost (R259): replay of the tile step or of its whole gang instance, retired members too, or
failure of every member where one carries an effect mark or has failed, with one record. (DEDUCED, log 33.)
(DESIGN CHOICE, log 82.) -/
def State.loseImage (s : State) (i : Nat) : State :=
  match s.steps.find? (fun t => t.id == i) with
  | none => s
  | some t =>
    if t.state == .pending || t.state == .retired || t.state == .failed then s
    else
      let ms := s.steps.filter (fun u => u.task == t.task && u.inst == t.inst)
      let s := ms.foldl State.evictStep s
      if ms.any (fun u => u.emark || u.state == .failed) then
        let s := ms.foldl (fun s u => s.failStep u.id) s
        ({ s with fresh := s.fresh + 1 }.sendRecord
          { dhseq := 0, kind := 0x02, code := Config.lostImageCode s.fresh }).kernelError
      else ms.foldl (fun s u => s.modStep u.id (fun u => { u with
        state := .pending, core := none, ctx := none, image := none, saved := none, groupCmds := 0, staging := []
        reads := [], since := s.cycle })) s

/-- System software has discarded the image of a tile step (R259): VALID of its header reads 0. (DEDUCED, log 33.) -/
def State.discardedImage (s : State) (t : TileStep) : Bool :=
  t.state == .preempted && (match t.image.bind (fun a => s.imageHeader a.toNat) with
    | some h => bits h 63 63 == 0
    | none => false)

/-- The tile steps whose images system software has discarded are replayed or FAILED (R259). -/
def State.loseDiscarded (s : State) : State :=
  (s.steps.filter s.discardedImage).foldl (fun s t => s.loseImage t.id) s

/-- The contexts of a core have been saved or lost: they leave it. (DEDUCED, log 58.) -/
def State.leaveCore (s : State) (c : Nat) (v : Saving) : State :=
  let s := allCtxs.foldl (fun s x => if v.live.getLsbD x then s.evict c x else s) s
  s.modCore c (fun k => { k with saving := none })

/-- A save fails: VALID stays 0 and the image of every affected tile step is lost (R259, Table 9.6). -/
def State.failSave (s : State) (c : Nat) (v : Saving) : State :=
  let ids := allCtxs.filterMap (fun x => if v.live.getLsbD x then (s.ctx c x).step else none)
  let s := s.modCore c (fun k => { k with saveFailed := true })
  ids.foldl State.loseImage (s.leaveCore c v)

/-- A save of a core writes its image (steps 5 to 7 of R253, R256). (DESIGN CHOICE, log 60.) -/
def State.saveImage (s : State) (c : Nat) (v : Saving) : State :=
  let area := v.area.toNat
  let k := s.core c
  let incr := k.resumeAddr == some v.area &&
    (match s.imageHeader area with
    | some h => bits h 63 63 == 1 && bits h 6 0 == c
    | none => false)
  let kept := s.keptLines c
  let lines := kept.filter (fun l => !incr || tabGet false s.dirty l)
  let mas := allCtxs.any (fun x => v.live.getLsbD x && (s.ctx c x).dirtymap.getLsbD 35)
  let bad := !s.areaMapped area || lines.any (fun l => s.anyPoison (64 * l) 64)
    || ((!incr || mas) && k.masPoison.any (·.2))
  let tags := kept.flatMap (fun l => (rangeFrom (16 * l) 16).filter (tabGet false s.tags))
  let sv (x : Nat) : Saved := s.savedOf c x (tags.map (· - 0x200000 * c))
  let wd := s.withdrawn c
  let h (s : State) (valid : Bool) : State := s.vWrite area (s.header c v valid incr wd)
  let s := h s false
  if bad then s.failSave c v
  else
    let st := s
    let s := allCtxs.foldl (fun s x =>
      s.writeParts (area + sectionAt x) (!incr) (st.ctxParts c x (v.live.getLsbD x) (wd x))) s
    let s := s.writeParts area (!incr) (st.coreParts c mas)
    let s := lines.foldl (fun s l =>
      s.vWrite (area + mirrorAt + 64 * (l - 0x20000 * c)) (st.sRead (64 * l) 64)) s
    let s := { s with dirty := lines.foldl (fun t l => tabSet false t l false) s.dirty }
    let s := h s true
    let s := allCtxs.foldl (fun s x => match v.live.getLsbD x, (s.ctx c x).step with
      | true, some i => s.modStep i (fun t =>
        if t.state == .placed || t.state == .running then
          { t with state := .preempted, core := none, ctx := some x, image := some v.area, saved := some (sv x) }
        else t)
      | _, _ => s) s
    s.leaveCore c v

/-- IMAGE_SAVE_COMPLETE (R253): once the affected contexts have quiesced, the core writes its image, unless a live service
holds its area (R285); a context that has ended or halted on its system plane since the request takes no part (R250).
(DEDUCED, log 33.) -/
def execImageSaveComplete (core : Nat) (s : State) : Host.Outcome State Fault Refusal :=
  .next (match (s.core core).saving with
    | some v =>
      let v := { v with live := allCtxs.foldl (fun (m : BitVec 4) x =>
        if s.affected core x then m else m &&& ~~~ ((1 : BitVec 4) <<< x)) v.live }
      if v.live = 0 then s.leaveCore core v
      else if s.canSave core v && !s.rangeHeld v.area.toNat imageSize then s.saveImage core v else s
    | none => s)

/-! ## The restore (R257) -/

/-- Bytes of an image part. -/
abbrev ImageRead := Nat → Nat → List Byte

/-- Reads of an image area, which the checks have shown readable. -/
def State.imageBytes (s : State) (area : Nat) : ImageRead := fun o n => (s.vRead (area + o) n).getD []

/-- The user-plane state of a context as its section holds it; what the image does not hold stays (R255).
(DEDUCED, log 58.) -/
def restoredCtx (old : Ctx) (b : ImageRead) (pc : Nat) : Ctx :=
  let f (o n : Nat) : Nat := leNat (b o n)
  let csr (i : Nat) : Nat := f (0x310 + 8 * i) 8
  let cyc : Dword := BitVec.ofNat 64 (f 0x308 8)
  let sregs := (rangeFrom 0 64).map (fun n => (n, (BitVec.ofNat 64 (f (8 * n) 8) : Dword)))
  let full := f 0x200 8
  let empties := ((rangeFrom 1 63).filter (fun n => full / 2 ^ n % 2 = 0))
    ++ (rangeFrom 0 8).flatMap (fun k =>
      let m := f (0x208 + 8 * k) 8
      ((rangeFrom 0 64).filter (fun n => m / 2 ^ n % 2 = 0)).map (vEmptyKey k))
  let lat := latchesOf (b 0x1000 0x4000)
  { old with
    sreg := sregs.foldl (fun t p => if p.1 = 0 then t else tabSet 0 t p.1 p.2) old.sreg
    empty := empties.foldl (fun t e => tabSet false t e true) []
    g := (rangeFrom 0 8).flatMap (fun k => (rangeFrom 1 6).filterMap (fun n =>
      let v : BitVec 16 := BitVec.ofNat 16 (f (0x280 + 16 * k + 2 * n) 2)
      if v = 0 then none else some (8 * k + n, v)))
    q := (rangeFrom 1 6).filterMap (fun n => if f 0x300 8 / 2 ^ n % 2 = 1 then some (n, true) else none)
    user := { pc := BitVec.ofNat 13 pc, cyc := cyc, latches := lat.1, results := lat.2
              due := (rangeFrom 0 (f 0x10000 8)).map (fun i => dueOf (b (0x10040 + 128 * i) 128) cyc) }
    trapCause := BitVec.ofNat 8 (csr 0), trapPc := BitVec.ofNat 13 (csr 1), trapInfo := BitVec.ofNat 64 (csr 2)
    acflags := BitVec.ofNat 6 (csr 3)
    loopctr := (rangeFrom 0 6).foldl (fun t n => tabSet 0 t n (BitVec.ofNat 32 (csr (4 + n)))) []
    fmtFix := BitVec.ofNat 4 (csr 10 / 256), fmtLevel := BitVec.ofNat 4 (csr 10)
    qstall := (rangeFrom 0 15).foldl (fun t n => tabSet 0 t n (BitVec.ofNat 32 (csr (11 + n)))) []
    qmode := BitVec.ofNat 15 (csr 27)
    strStream := BitVec.ofNat 5 (csr 28 / 65536), strDest := BitVec.ofNat 11 (csr 28)
    loops := (rangeFrom 0 6).foldl (fun t n => tabSet 0 t n ((BitVec.ofNat 128 (f (0x400 + 16 * n) 16) &&& ~~~ ((3 : BitVec 128) <<< 32)))) []
    fmt := (rangeFrom 0 16).foldl (fun t n => tabSet 0 t n ((BitVec.ofNat 64 (f (0x460 + 8 * n) 8) &&& fmtMask))) []
    vreg := (rangeFrom 0 512).foldl (fun t i => tabSet 0 t i (BitVec.ofNat 512 (f (0x8000 + 64 * i) 64))) []
    dirtymap := 0, modeSys := false, block := .no, completing := [], stopped := false, preempt := false
    userHalted := false, sysHalted := false, doneIssued := false, fences := [], live := [], acquireHold := []
    timer := none, late := [] }

/-- A tile as its table entry holds it (Table 6.13). -/
def tileOf (lo hi : Nat) : Tile :=
  { pitch := BitVec.ofNat 20 (bits hi 63 44), rows := BitVec.ofNat 12 (bits hi 43 32)
    rbytes := BitVec.ofNat 16 (bits hi 31 16), epoch := BitVec.ofNat 8 (bits hi 15 8)
    state := (match bits lo 63 62 with
      | 0 => .empty
      | 1 => .filling
      | 2 => .ready
      | _ => .draining)
    v := bits lo 61 61 == 1, sub := bits lo 60 60 == 1, wb := bits lo 59 59 == 1
    next := BitVec.ofNat 8 (bits lo 58 51), ring := BitVec.ofNat 6 (bits lo 50 45), base := BitVec.ofNat 23 (bits lo 22 0) }

/-- A byte of a row of the tile lies in a discardable range of a core's slice (R86, R199). -/
def State.tileDiscardable (s : State) (c : Nat) (t : Tile) : Bool :=
  let lo := c * 0x800000 + t.base.toNat
  (rangeFrom 0 t.rows.toNat).any (fun r =>
    (touchedLines (lo + r * t.pitch.toNat) t.rbytes.toNat).any (fun l => s.discardable (64 * l)))

/-- Writes the core parts of an image into a core (steps 1 and 3 of R257); the cells hold zero (R405), and ring records stay on
the saving core only (R433). -/
def State.restoreCore (s : State) (c saver : Nat) (b : ImageRead) : State :=
  let f (o n : Nat) : Nat := leNat (b o n)
  let mas := (rangeFrom 0 256).flatMap (fun r =>
    let row := b (0x081000 + 1024 * r) 1024
    (rangeFrom 0 256).filterMap (fun j =>
      let w : Word := BitVec.ofNat 32 (fieldAt row (4 * j) 4)
      if w = 0 then none else some (256 * r + j, w)))
  let meta_ := b 0x0C1000 256
  let shuf := b 0x0C2000 0x4000
  let tiles := (rangeFrom 0 256).map (fun t =>
    let e := tileOf (f (0x0CA000 + 16 * t) 8) (f (0x0CA008 + 16 * t) 8)
    (t, if s.tileDiscardable c e then { e with state := .empty } else e))
  s.modCore c (fun k => { k with
    mas := mas
    masP := (rangeFrom 0 256).foldl (fun t r => tabSet false t r (bits (fieldAt meta_ r 1) 3 3 == 1)) []
    masCtx := (rangeFrom 0 256).foldl (fun t r => tabSet 0 t r (BitVec.ofNat 2 (fieldAt meta_ r 1))) []
    masPoison := [], cells := [], rings := if saver = c then k.rings else []
    ucode := (rangeFrom 0 8).foldl (fun t i => ucodePut t i (BitVec.ofNat 32 (f (0x0C1100 + 4 * i) 4))) []
    shufBank := bits (f 0x0C1120 8) 0 0 == 1, shufSwap := false
    shuffle := ((rangeFrom 0 0x4000).zip shuf).foldl (fun t p => tabSet 0 t p.1 p.2) []
    tiles := tiles.foldl (fun t p => tabSet {} t p.1 p.2) [] })

/-- Writes the slice mirror: the kept lines, only the dirty ones onto the saving core; the lines of discardable ranges
become zero with their tags clear (R257, R86, Table 3.3). (DEDUCED, log 32.) -/
def State.restoreSlice (s : State) (c saver : Nat) (b : ImageRead) (tags : List Nat) : State :=
  (rangeFrom 0 0x20000).foldl (fun s o =>
    let l := 0x20000 * c + o
    let ws := rangeFrom (16 * l) 16
    if s.discardable (64 * l) then
      { s.sWrite (64 * l) (leBytes 0 64) with tags := ws.foldl (fun t w => tabSet false t w false) s.tags }
    else if s.discardable (64 * (0x20000 * saver + o)) then s
    else
      let s := { s with tags := ws.foldl (fun t w => tabSet false t w (tags.contains (w - 0x200000 * c))) s.tags }
      if saver != c || tabGet false s.dirty l then s.sWrite (64 * l) (b (mirrorAt + 64 * o) 64) else s) s

/-- Tiles that an array operation names. -/
def CmdOp.tilesUsed (c : Nat) : CmdOp → List Nat
  | .mstart a0 a1 b0 b1 _ _ _ _ => [(operandOf c a0 a1 []).tile, (operandOf c b0 b1 []).tile].filterMap id
  | _ => []

/-- The stopped array operation of a section (R257): its pass and next K, under the program that the core holds again. -/
def State.savedAop (s : State) (b : List Byte) (cmd : Cmd) : Option CeRun :=
  match cmd.op with
  | .mstart .. =>
    let r := { newRun cmd (BitVec.ofNat 64 (fieldAt b 56 8)) with
      ucode := (s.core cmd.core).ucodeWords, pass := fieldAt b 52 4 }
    some { r with done := fieldAt b 48 4 / r.geo.per }
  | _ => none

/-- The stopped epilogue of a section (R257). -/
def savedEpi (b : List Byte) (cmd : Cmd) : Option MeRun :=
  match cmd.op with
  | .mdrain .. | .mepi .. | .mepiAcc .. | .mepiRm .. =>
    some { cmd := cmd, entry := BitVec.ofNat 64 (fieldAt b 56 8), row := fieldAt b 48 8, words := [], poison := []
           old := [], lines := 0 }
  | _ => none

/-- The commands that a section holds, pushed or accepted again under new serials: the stopped array operation and epilogue,
where the header marks them, and the withdrawn co commands (R257). -/
def State.sectionCmds (s : State) (c x : Nat) (head : Nat) (b : ImageRead) (step : Option TileStep) : Withdrawn :=
  let sv := step.bind (·.saved)
  let cmd (unit serial : Nat) (r : List Byte) : Option Cmd :=
    (recordOp r ((sv.map (·.rowsA)).getD []) ((sv.map (·.rowsB)).getD [])).map (fun op =>
      { op := op, unit := unit, core := c, ctx := x, sys := bits (fieldAt r 10 1) 0 0 == 1, serial := s.nextId + serial
        seq := 0, issued := s.cycle, step := step.map (·.id) })
  { aop := if bits head 31 31 = 1 then (cmd 0 0 (b 0x500 64)).bind (s.savedAop (b 0x500 64)) else none
    epi := if bits head 30 30 = 1 then (cmd 1 1 (b 0x540 64)).bind (savedEpi (b 0x540 64)) else none
    co := (rangeFrom 0 (min 16 (leNat (b 0x600 8)))).filterMap (fun i =>
      (cmd 11 (2 + i) (b (0x600 + 64 * i) 64)).filter (fun m => match m.op with
        | .chPost .. => true
        | .chWait .. => true
        | _ => false)) }

/-- The withdrawn receives are issued again, with their registers left empty (R257): the i-th of the section belongs to the
i-th `ch.wait`. (DESIGN CHOICE, log 31.) -/
def State.reissueRecv (s : State) (c x : Nat) (b : ImageRead) (co : List Cmd) : State :=
  let ws := co.filter (fun m => m.op.recvPort.isSome)
  ((rangeFrom 0 ws.length).zip ws).foldl (fun s p =>
    match lateS p.2.sys (leNat (b (0xA00 + 8 * p.1) 8) % 64) with
    | some d => (s.addLate c x (.engine p.2.serial) (some d) 0 false).markEmpty c x d
    | none => s) s

/-- Restores a context of LIVE and gives it back its stopped and withdrawn work (steps 1, 4 and 5 of R257); a TIMER
pending in the context is no part of it (R344). (DEDUCED, log 32.) (DEDUCED, log 58.) -/
def State.restoreCtx (s : State) (c x area h : Nat) (b : ImageRead) : State :=
  let head := leNat (b (0x10 + 8 * x) 8)
  let sec : ImageRead := fun o n => b (sectionAt x + o) n
  let cx := restoredCtx (s.ctx c x) sec (bits head 12 0)
  let step := s.steps.find? (fun t => t.state == .preempted && t.image == some (BitVec.ofNat 64 area) && t.ctx == some x)
  let wd := s.sectionCmds c x head sec step
  let live := wd.co.map (fun m => (m.serial, 11)) ++ (wd.aop.map (fun r => (r.cmd.serial, 0))).toList
    ++ (wd.epi.map (fun r => (r.cmd.serial, 1))).toList
  let s := { s with nextId := s.nextId + 18 }
  let s := s.modCtx c x (fun _ => { cx with
    state := .ready, readySince := s.cycle, step := step.map (·.id), live := live
    posted := ((step.bind (·.saved)).map (·.posted)).getD []
    pend := tabSet none cx.pend causeTimer.toNat none })
  let s := s.modCore c (fun k => { k with
    queues := tabSet [] k.queues (4 * 11 + x) wd.co
    ceResume := tabSet none k.ceResume x wd.aop, meResume := tabSet none k.meResume x wd.epi
    tileUse := k.tileUse ++ wd.aop.toList.flatMap (fun r => (r.cmd.op.tilesUsed c).map (fun t => (t, r.cmd.serial))) })
  let s := s.reissueRecv c x sec wd.co
  match step with
  | some t => s.modStep t.id (fun t => { t with
      state := .running, core := some c, ctx := some x, emark := bits h (32 + x) (32 + x) == 1, image := none
      saved := none })
  | none => s

/-- Restores the image of an area onto a core (R257). (DESIGN CHOICE, log 60.) -/
def State.restoreImage (s : State) (c area : Nat) : State :=
  let b := s.imageBytes area
  let h := leNat (b 0 8)
  let tags := ((s.steps.filterMap (fun t =>
    if t.state == .preempted && t.image == some (BitVec.ofNat 64 area) then t.saved else none)).head?.map (·.tags)).getD []
  let s := s.restoreCore c (bits h 6 0) b
  let s := s.restoreSlice c (bits h 6 0) b tags
  let s := allCtxs.foldl (fun s x => if h / 2 ^ (36 + x) % 2 = 1 then s.restoreCtx c x area h b else s) s
  s.modCore c (fun k => { k with resumeAddr := some (BitVec.ofNat 64 area) })

/-! ## The operations `core.save` and `core.load` (R347) -/

/-- An area table: 128 doublewords at a 64 B-aligned V-address. (DEDUCED, log 28.) -/
def State.areaTable (s : State) (va : Dword) : Option (List Dword) :=
  if va.toNat % 64 = 0 then (s.vRead va.toNat 1024).map (fun b => bytesDwords b 128) else none

/-- Status codes of Table 13.5. -/
def stDone : Dword := 0
def stNone : Dword := 1
def stRefused : Dword := 2
def stBusy : Dword := 3

/-- The answer to a pre-emption request at once, or the cores it names (R252, R250, Table 13.5). (DEDUCED, log 33.) -/
def State.saveStatus (s : State) (issuer : Option Nat) (target : Nat) (area : Option (List Dword)) : Dword ⊕ List Nat :=
  let cs := s.requestCores 128 [target]
  let named (c : Nat) : Dword := ((area.getD []).getD c 0)
  if issuer == some target || area.isNone then .inl stRefused
  else if s.affectedMask target = 0 then .inl stNone
  else if cs.any (fun c => (s.core c).saving.isSome) then .inl stBusy
  else if cs.any (fun c => !areaOk (named c) || issuer == some c) || s.haltedMember cs then .inl stRefused
  else .inr cs

/-- The cores and areas that a `core.load` names. -/
def loadList (area : List Dword) : List (Nat × Nat) :=
  ((rangeFrom 0 128).zip area).filterMap (fun p => if p.2 = 0 then none else some (p.1, p.2.toNat))

/-- A core can take an image: four IDLE contexts and a stage (R257, Table 13.5). -/
def State.canLoad (s : State) (c : Nat) : Bool :=
  allCtxs.all (fun x => (s.ctx c x).state == .idle) && (s.core c).stage.isSome

/-- The whole of an image can be read: mapped and free of uncorrectable errors. -/
def State.imageReadable (s : State) (area : Nat) : Bool := (s.vRead area imageSize).isSome

/-- The images of an area table hold every PREEMPTED member of the gang instances they hold one of (R252).
(DEDUCED, log 33.) -/
def State.wholeGangs (s : State) (areas : List Nat) : Bool :=
  let listed (t : TileStep) : Bool := t.image.any (fun a => areas.contains a.toNat)
  (s.steps.filter (fun t => t.state == .preempted && listed t)).all (fun t =>
    (s.gangOf t).all (fun u => u.state != .preempted || listed u))

/-- The answer of a `core.load`, and the state after it: every listed core restores or none does. An image with an
uncorrectable error is lost (R259). (DEDUCED, log 33.) -/
def State.loadImages (s : State) (va : Dword) : State × Dword :=
  match s.areaTable va with
  | none => (s, stRefused)
  | some table =>
    let l := loadList table
    if l.isEmpty then (s, stNone)
    else if l.any (fun p => (s.core p.1).saving.isSome) then (s, stBusy)
    else if l.any (fun p => !s.canLoad p.1 || (match s.imageHeader p.2 with
        | some h => bits h 63 63 == 0
        | none => true)) || !s.wholeGangs (l.map (·.2)) then (s, stRefused)
    else if l.any (fun p => !s.imageReadable p.2) then
      let lost := l.filter (fun p => !s.imageReadable p.2)
      let ids := s.steps.filterMap (fun t =>
        if t.state == .preempted && lost.any (fun p => t.image == some (BitVec.ofNat 64 p.2)) then some t.id else none)
      (ids.foldl State.loseImage s, stRefused)
    else (l.foldl (fun s p => s.restoreImage p.1 p.2) s, stDone)

/-- CORE_SAVE (R347): the bundle is held until every named core has written its image or failed to, and while a live service
holds the area table (R285). A save that fails answers REFUSED. (DESIGN CHOICE, log 89.) -/
def opCoreSave : Op :=
  let target (a : Arg) : Nat := a.val.toNat % 128
  let now (a : Arg) : Dword ⊕ List Nat :=
    a.pre.saveStatus (some a.core) (target a) (a.pre.areaTable a.x1)
  { ports := syPorts, needs := fun _ => [0x310], sysOnly := true, weight := 2
    gate := fun a => match a.cx.saveReq with
      | some cs => if cs.any (fun c => (a.pre.core c).saving.isSome) then .hold else .go
      | none => if a.pre.rangeHeld a.x1.toNat 1024 then .hold else match now a with
        | .inl _ => .go
        | .inr cs => .start (fun s =>
          let named (c : Nat) : Dword := ((s.areaTable a.x1).getD []).getD c 0
          (s.requestPreempt cs named).modCtx a.core a.ctx (fun cx => { cx with saveReq := some cs }))
    act := fun a s =>
      let st := match a.cx.saveReq with
        | some cs => if cs.any (fun c => (a.pre.core c).saveFailed) then stRefused else stDone
        | none => match now a with
          | .inl st => st
          | .inr _ => stDone
      (s.syResult a 2 st).modCtx a.core a.ctx (fun cx => { cx with saveReq := none }) }
/-- CORE_SAVE: issue of its slot. -/
def execCoreSave (m : Mv) (s : State) : Host.Outcome State Fault Refusal :=
  issueTrigger m 0x324 opCoreSave s

/-- CORE_LOAD (R347, R257): the bundle is held while the cell array of a listed core performs a command (R96), and while a
live service holds the area table or an image (R285). -/
def opCoreLoad : Op :=
  { weight := 2, sysOnly := true
    gate := fun a => if a.pre.rangeHeld a.val.toNat 1024 then .hold else match a.pre.areaTable a.val with
      | some t =>
        if (loadList t).any (fun p => a.pre.canLoad p.1 && (a.pre.core p.1).ce.isSome || a.pre.rangeHeld p.2 imageSize)
        then .hold else .go
      | none => .go
    act := fun a s =>
      let p := s.loadImages a.val
      p.1.syResult a 2 p.2 }
/-- CORE_LOAD: issue of its slot. -/
def execCoreLoad (m : Mv) (s : State) : Host.Outcome State Fault Refusal :=
  issueTrigger m 0x325 opCoreLoad s

/-- SILL_PREEMPTION_REQUEST (R252): the Sill pre-empts a core, to the areas it names core by core; a session that closes has
halted every context already (R15). -/
def execSillPreemptionRequest (core : Nat) (areas : List (Nat × BitVec 64)) (s : State) :
    Host.Outcome State Fault Refusal :=
  let named (c : Nat) : Dword := tabGet 0 areas c
  .next (if s.session.state != .opened then s else match s.saveStatus none core (some ((rangeFrom 0 128).map named)) with
    | .inl _ => s
    | .inr cs => s.requestPreempt cs named)

end Sys2Proof.Machine
end

