-- ==== Sys2Proof/Machine/Links.lean ====
section
/-!
DEFINITION. Links (R215-R217, R268-R279, R463, R464, R469): flits and their protection, sending, receiving, retries,
switch-over, draining, and what a link that goes DOWN hands back.
-/

namespace Sys2Proof.Machine

/-! ## Flits (R270, R272) -/

def kIdle : Nat := 0
def kData : Nat := 1
def kAck : Nat := 2
def kRetry : Nat := 3
def kCredit : Nat := 4
def kKeymark : Nat := 5
def kDrain : Nat := 6
def kHello : Nat := 7

/-- Fields of a flit header (Table 10.3). -/
def hKind (h : BitVec 128) : Nat := bits h.toNat 127 120
def hKs (h : BitVec 128) : Bool := h.getLsbD 119
def hVc (h : BitVec 128) : BitVec 3 := h.extractLsb' 116 3
def hIc (h : BitVec 128) : BitVec 48 := h.extractLsb' 56 48
def hDst (h : BitVec 128) : BitVec 11 := h.extractLsb' 45 11
def hSrc (h : BitVec 128) : BitVec 11 := h.extractLsb' 34 11
def hLseq (h : BitVec 128) : BitVec 16 := h.extractLsb' 16 16
def hHops (h : BitVec 128) : BitVec 8 := h.extractLsb' 8 8
def hLen (h : BitVec 128) : Nat := bits h.toNat 7 0

/-- Header of a flit under slot ks with invocation value ic. (DESIGN CHOICE, log 34.) -/
def headerOf (f : RetryFlit) (ks : Bool) (ic : BitVec 48) : BitVec 128 :=
  f.kind ++ BitVec.ofBool ks ++ f.vc ++ (0 : BitVec 12) ++ ic ++ f.dst ++ f.src ++ (0 : BitVec 2) ++ f.lseq ++ f.hops
    ++ f.len

/-- The payload filled to 224 B. -/
def padPayload (bs : List Byte) : List Byte := (bs ++ leBytes 0 224).take 224

/-- Initialisation vector: the salt, then the invocation value (R272). (DESIGN CHOICE, log 34.) -/
def gcmIv (k : KeySlot) (ic : BitVec 48) : List Byte := leBytes k.salt.toNat 6 ++ leBytes ic.toNat 6

/-- Key of a slot. -/
def KeySlot.gcm (k : KeySlot) : GcmKey := gcmKey (leBytes k.key.toNat 32)

/-- A flit as it leaves under a slot. (DESIGN CHOICE, log 34.) -/
def sealFlit (k : KeySlot) (ks : Bool) (f : RetryFlit) : Flit :=
  let h := headerOf f ks k.txic
  let g := k.gcm
  let iv := gcmIv k k.txic
  let ct := gcmCtr g iv 2 (padPayload f.payload)
  { header := h, payload := ct, tag := BitVec.ofNat 128 (leNat (gcmTag g iv (leBytes h.toNat 16) ct)) }

/-- The tag of a flit verifies under a slot. (DESIGN CHOICE, log 34.) -/
def verifyFlit (k : KeySlot) (f : Flit) : Bool :=
  f.payload.length == 224 &&
    gcmTag k.gcm (gcmIv k (hIc f.header)) (leBytes f.header.toNat 16) f.payload == leBytes f.tag.toNat 16

/-- The payload in clear. -/
def openFlit (k : KeySlot) (f : Flit) : List Byte :=
  (gcmCtr k.gcm (gcmIv k (hIc f.header)) 2 f.payload).take (hLen f.header)

/-! ## A link -/

/-- Changes link n. -/
def State.modLink (s : State) (n : Nat) (f : Link → Link) : State :=
  { s with links := tabSet {} s.links n (f (tabGet {} s.links n)) }

/-- Link n. -/
def State.link (s : State) (n : Nat) : Link := tabGet {} s.links n

/-- Global links are numbered 31-46 (R268). -/
def isGlobal (n : Nat) : Bool := 31 ≤ n

/-- Die a link attaches to (R463). -/
def linkDie (n : Nat) : Nat := if n < 16 || (31 ≤ n && n ≤ 38) then 0 else 1

/-- Cycles a flit takes on a link (R268: 256 B at 4 x 224 Gb/s or 800 Gb/s, in cycles of 3.0 GHz). (DEDUCED, log 35.) -/
def flitCycles (n : Nat) : Nat := if isGlobal n then 8 else 7

/-- A key slot of a link: true for K1. -/
def Link.slot (l : Link) (k : Bool) : KeySlot := if k then l.k1 else l.k0

/-- Changes a key slot. -/
def Link.modSlot (l : Link) (k : Bool) (f : KeySlot → KeySlot) : Link :=
  if k then { l with k1 := f l.k1 } else { l with k0 := f l.k0 }

/-- The slot a link sends under: during a switch-over the new one (R278), else the ACTIVE one. -/
def Link.activeSlot (l : Link) : Option Bool :=
  match l.keymark with
  | some old => some (!old)
  | none => if l.k0.tx == .active then some false else if l.k1.tx == .active then some true else none

/-- The READY slot. -/
def Link.readySlot (l : Link) : Option Bool :=
  if l.k0.tx == .ready then some false else if l.k1.tx == .ready then some true else none

/-- The slot a link in TRAINING sends under: the one loaded first. -/
def Link.trainSlot (l : Link) : Option Bool := if l.state == .training then l.first else none

/-- The highest invocation value, which sends nothing more (R215). -/
def icMax : BitVec 48 := BitVec.allOnes 48

/-- The slot under which a flit can leave now. (DEDUCED, log 79.) -/
def Link.sendSlot (l : Link) : Option Bool :=
  match (if l.state == .training then l.trainSlot else l.activeSlot) with
  | some k => if (l.slot k).txic == icMax then none else some k
  | none => none

/-- The line is free for another flit. (DEDUCED, log 35.) -/
def State.lineFree (s : State) (n : Nat) : Bool :=
  let l := s.link n
  l.lastSent == 0 || l.lastSent.toNat + flitCycles n ≤ s.cycle.toNat

/-- LINK.DOWN or KEY.DUE: pending in the link-service context of the link's die, or a record where none is named (R245,
R463). (DEDUCED, log 36.) -/
def State.raiseLink (s : State) (n : Nat) (cause : BitVec 8) (addr : Nat) : State :=
  match tabGet none s.svc (linkDie n) with
  | some (c, x) => s.pendCause c x cause (trapInfoWord none n addr)
  | none => s.sendRecord { dhseq := 0, kind := 0x02, code := cause, aux := BitVec.ofNat 8 n }

/-- Sends a flit under the slot in use (R215, R217): its invocation value is taken, KEY.DUE is judged.
(DESIGN CHOICE, log 7.) (DEDUCED, log 36.) -/
def State.emit (s : State) (n : Nat) (f : RetryFlit) : State :=
  let l := s.link n
  match l.sendSlot with
  | none => s
  | some k =>
    let sl := l.slot k
    let due := sl.arm && l.kdue.toNat ≤ sl.txic.toNat
    let s := { s with wireOut := s.wireOut ++ [(n, sealFlit sl k f)] }
    let s := s.modLink n (fun l =>
      { (l.modSlot k (fun sl => { sl with txic := sl.txic + 1, arm := sl.arm && !due })) with
        flitTx := l.flitTx + 1, lastSent := s.cycle })
    if due then s.raiseLink n causeKeyDue (if k then 1 else 0) else s

/-- A flit of the link itself. (DESIGN CHOICE, log 34.) -/
def ctlFlit (kind : Nat) (vc : BitVec 3) (lseq : BitVec 16) (payload : List Byte) : RetryFlit :=
  { kind := BitVec.ofNat 8 kind, vc := vc, dst := 0, src := 0, lseq := lseq, hops := 0
    len := BitVec.ofNat 8 payload.length, payload := payload, resend := false }

/-- A HELLO flit: in clear, tag zero; the peer's fabric ID and link number stand in SRC and LSEQ (DESIGN CHOICE, log 34: R272 gives HELLO
no payload, Table 10.3 no field for a link number). -/
def State.emitHello (s : State) (n : Nat) : State :=
  let f : RetryFlit := { ctlFlit kHello 0 (BitVec.ofNat 16 n) [] with src := s.fabid }
  let w : Flit := { header := headerOf f false 0, payload := leBytes 0 224, tag := 0 }
  let s := { s with wireOut := s.wireOut ++ [(n, w)] }
  s.modLink n (fun l => { l with flitTx := l.flitTx + 1, lastSent := s.cycle })

/-- A flit that keeps a place in the retry buffer (R273) takes the next LSEQ. -/
def State.enqueueRetry (s : State) (n : Nat) (f : RetryFlit) : State :=
  s.modLink n (fun l => { l with
    retryBuf := l.retryBuf ++ [{ f with lseq := l.txSeq, resend := true, sent := false }], txSeq := l.txSeq + 1 })

/-- Sends the first flit of the retry buffer that is due, counting a retransmission (R217); while a switch-over runs none of a higher LSEQ than the KEYMARK
(R464). The KEYMARK is the last flit of its time in the buffer, so nothing stands behind it. (DEDUCED, log 79.) -/
def State.sendDue (s : State) (n : Nat) : State :=
  let l := s.link n
  match l.retryBuf.find? (·.resend), l.sendSlot with
  | some f, some _ =>
    let s := s.modLink n (fun l => { l with
      retryBuf := l.retryBuf.map (fun g => if g.lseq == f.lseq then { g with resend := false, sent := true } else g)
      retry := if f.sent then satAdd1 l.retry else l.retry })
    s.emit n f
  | _, _ => s

/-- Number of a key slot's flits still to send again. -/
def Link.dueCount (l : Link) : Nat := (l.retryBuf.filter (·.resend)).length

/-! ## Going DARK and DOWN (R274, R275) -/

/-- A DRAINING link whose flits are all acknowledged and whose peer's DRAIN is accepted and acknowledged enters DARK (R279,
R472). -/
def State.judgeDark (s : State) (n : Nat) : State :=
  s.modLink n (fun l =>
    if l.state == .draining && l.drainSent && l.retryBuf.isEmpty && l.peerDrained && !l.ackDue
    then { l with state := .dark } else l)

/-- Segment operation and stream of a DATA payload. -/
def segOp (p : List Byte) : BitVec 8 := BitVec.ofNat 8 (bits (fieldAt p 0 8) 63 56)
def segRop (p : List Byte) : BitVec 8 := BitVec.ofNat 8 (bits (fieldAt p 0 8) 47 40)
def segStream (p : List Byte) : BitVec 5 := BitVec.ofNat 5 (bits (fieldAt p 0 8) 39 35)
def segDlen (p : List Byte) : Nat := bits (fieldAt p 0 8) 55 48

/-- The port may send the flit again (R275). -/
def resendable (p : List Byte) : Bool :=
  !(segOp p == opWrite || segOp p == opReduce || segOp p == opAtomic) || segStream p != 0

/-- The operation of this device that a payload belongs to. -/
def Out.carries (o : Out) (p : List Byte) : Bool :=
  o.op.op == segOp p && o.op.tag.toNat == fieldAt p 0x10 8 && o.op.auxop.toNat == fieldAt p 0x18 8
    && o.op.stream == segStream p

/-- Flits enter the port to leave by another hop; those bound for a group whose route is NONE are dropped (R280).
(DEDUCED, log 36.) -/
def State.routed (s : State) (n : Nat) (fs : List RetryFlit) : List RetryFlit :=
  fs.filter (fun f => !s.routeNone (linkDie n) f.dst)

/-- A link goes DOWN (R274, R275): its unacknowledged flits go back to the port, or fail where a repeat could act
twice. (DEDUCED, log 36.) -/
def State.linkDown (s : State) (n : Nat) : State :=
  let l := s.link n
  let data := l.retryBuf.filter (fun f => f.kind.toNat == kData)
  let s := s.modLink n (fun l => { l with
    state := .down, retryBuf := [], rounds := 0, ackDue := false, retryReq := none, asked := none, creditDue := [], owed := []
    keymark := none, switchDue := false, drainSent := false, drainAcked := false, peerDrained := false })
  let s := s.raiseLink n causeLinkDown 0
  let s := { s with transit := (s.routed n (data.filter (fun f => resendable f.payload))).map (fun f =>
      { f with resend := false, sent := false }) ++ s.transit }
  let lost := data.filter (fun f => !resendable f.payload && f.src == s.fabid)
  lost.foldl (fun s f =>
    match s.out.find? (fun o => o.carries f.payload && o.op.dst == f.dst) with
    | some o => ({ s with out := s.out.filter (fun p => !(p.carries f.payload && p.op.dst == f.dst)) } : State).failOut o
    | none => s) s

/-! ## Operations in flits (R271) -/

/-- Flits of an operation. -/
def flitCount (len : Nat) : Nat := max 1 ((len + 191) / 192)

/-- The segment header of flit i of an operation. -/
def segHeader (o : RemoteOp) (i dlen : Nat) : List Byte :=
  dwordsBytes [
    o.op ++ BitVec.ofNat 8 dlen ++ o.rop ++ o.stream ++ o.sctx ++ o.score ++ (0 : BitVec 2) ++ o.seq,
    o.vaddr + BitVec.ofNat 64 (192 * i), o.tag, o.auxop]

/-- Flit i of an operation, for a virtual channel. (DESIGN CHOICE, log 25.) -/
def opFlit (o : RemoteOp) (i : Nat) (vc : BitVec 3) : RetryFlit :=
  let d := (o.data.drop (192 * i)).take 192
  let bad := !(cutPlaces o.poison (192 * i) 192).isEmpty
  let p := segHeader { o with rop := if bad then o.rop ||| ropPoison else o.rop } i d.length ++ d
  { kind := BitVec.ofNat 8 kData, vc := vc, dst := o.dst, src := o.src, lseq := 0, hops := 0
    len := BitVec.ofNat 8 p.length, payload := p, resend := false }

/-- Responses, acknowledgements and refusals travel on channels 4-7, requests on 0-3 (R269). -/
def isResponse (op : BitVec 8) : Bool := op == opReadData || op == opAck || op == opRefusal

/-- The virtual channel of an operation at its source. -/
def vcOf (op : BitVec 8) : BitVec 3 := if isResponse op then 4 else 0

/-- The segment header read back; bit 7 of ROP says that the flit brings poison, which covers its data
(DESIGN CHOICE, log 25). -/
def segRead (p : List Byte) (src dst : BitVec 11) : RemoteOp :=
  let w : Dword := BitVec.ofNat 64 (fieldAt p 0 8)
  let rop := w.extractLsb' 40 8
  let bad := rop != ropFailed && rop.getLsbD 7
  let data := (p.drop 32).take (segDlen p)
  { op := w.extractLsb' 56 8, rop := if bad then rop &&& ~~~ ropPoison else rop, stream := w.extractLsb' 35 5, sctx := w.extractLsb' 33 2
    score := w.extractLsb' 26 7, seq := w.extractLsb' 0 24, src := src, dst := dst
    vaddr := BitVec.ofNat 64 (fieldAt p 8 8), tag := BitVec.ofNat 64 (fieldAt p 0x10 8)
    auxop := BitVec.ofNat 64 (fieldAt p 0x18 8), data := data
    poison := if bad then rangeFrom 0 data.length else [] }

/-- Data bytes an operation brings in all, known from its first flit. (DESIGN CHOICE, log 22.) -/
def RemoteOp.opLength (o : RemoteOp) : Nat :=
  if o.op == opWrite || o.op == opReduce || (o.op == opReadData && o.rop != ropFailed) then o.auxop.toNat
  else if o.op == opCollective && o.rop != ropSetup then o.auxop.toNat / 2 ^ 24
  else o.data.length

/-- Two flits belong to one operation. -/
def RemoteOp.same (a b : RemoteOp) : Bool :=
  a.op == b.op && a.rop == b.rop && a.src == b.src && a.tag == b.tag && a.auxop == b.auxop && a.stream == b.stream
    && a.seq == b.seq && a.score == b.score && a.sctx == b.sctx

/-- The arrival port gathers a flit (R271): the operation is whole once all its bytes have come; the flag says whether it
is. A flit that comes twice counts once. A refusal needs no judgement and acts at once (R168). -/
def State.gatherFlit (s : State) (o : RemoteOp) : State × Bool :=
  let need := o.opLength
  if o.op == opRefusal then (s.refused o, true)
  else if need ≤ o.data.length then ({ s with inbox := s.inbox ++ [o] }, true)
  else
    let g := (s.gather.find? (fun g => g.op.same o)).getD { op := o, parts := [], need := need }
    let parts := tabPut g.parts o.vaddr.toNat o.data
    let poison := g.poison ++ o.poison.map (· + o.vaddr.toNat)
    let first := (parts.head?.map (·.1)).getD 0
    let data := parts.flatMap (·.2)
    let rest := s.gather.filter (fun h => !h.op.same o)
    if g.need ≤ data.length then
      ({ s with gather := rest, inbox := s.inbox ++ [{ g.op with
          vaddr := BitVec.ofNat 64 first, data := data, poison := poison.map (· - first) }] }, true)
    else ({ s with gather := rest ++ [{ g with parts := parts, poison := poison }] }, false)

/-! ## Receiving (R216, R273) -/

/-- The kinds of flits that take an LSEQ (R273). -/
def hasLseq (kind : Nat) : Bool := kind == kData || kind == kKeymark || kind == kDrain

/-- A flit with an LSEQ is lost or discarded (R273): the first missing one is asked for, once for each round. A flit later than
the last one discarded since belongs to the round under way. (DESIGN CHOICE, log 34.) -/
def Link.miss (l : Link) (seq : BitVec 16) : Link :=
  let later := match l.asked with
    | some a => seq != a && (seq - a).toNat < 2 ^ 15
    | none => false
  { l with asked := some seq, retryReq := if later then l.retryReq else some l.rxSeq }

/-- A failed flit: AUTHFAIL rises and the first missing LSEQ is asked for (R216, R273). (DESIGN CHOICE, log 34.) -/
def State.authFailed (s : State) (n : Nat) (f : Flit) : State :=
  s.modLink n (fun l =>
    let l := { l with authFail := satAdd1 l.authFail, lastArrival := s.cycle }
    if hasLseq (hKind f.header) then l.miss (hLseq f.header)
    else if l.asked.isNone then { l with retryReq := some l.rxSeq } else l)

/-- The slot a flit of link n verifies under. -/
def State.accepts (s : State) (n : Nat) (f : Flit) : Bool :=
  let k := (s.link n).slot (hKs f.header)
  k.rxOpen && k.rxic.toNat ≤ (hIc f.header).toNat && verifyFlit k f

/-- The link takes a flit that verifies: RXIC rises; a link in TRAINING enters UP and the slot loaded first becomes
ACTIVE, with 64 allowances on each channel (R216, R274, R469). -/
def State.accepted (s : State) (n : Nat) (f : Flit) : State :=
  let ks := hKs f.header
  s.modLink n (fun l =>
    let l := l.modSlot ks (fun k => { k with rxic := hIc f.header + 1 })
    let l := { l with lastArrival := s.cycle, flitRx := l.flitRx + 1 }
    if l.state == .training then
      let l := match l.first with
        | some k => l.modSlot k (fun k => { k with tx := .active })
        | none => l
      { l with state := .up, spent := [], owed := [], txSeq := 0, rxSeq := 0, retryBuf := [], rounds := 0
               ackDue := false, retryReq := none, asked := none, creditDue := []
               drainSent := false, drainAcked := false, peerDrained := false }
    else l)

/-- A link that takes flits: UP, DRAINING, or in TRAINING with a key. -/
def Link.listens (l : Link) : Bool := l.state == .up || l.state == .draining || l.state == .training

/-- A flit without an LSEQ of its own arrives: `act` once it verifies, a failed flit otherwise. -/
def State.receive (s : State) (n kind : Nat) (f : Flit) (act : State → List Byte → State) : State :=
  let l := s.link n
  if hKind f.header != kind || !l.listens then s
  else if s.accepts n f then act (s.accepted n f) (openFlit (l.slot (hKs f.header)) f)
  else s.authFailed n f

/-- A flit with an LSEQ arrives: `act` when it is the next one; a repeated one is acknowledged again; one that leaves a gap
is discarded and the missing one asked for (R273). (DESIGN CHOICE, log 34.) -/
def State.receiveSeq (s : State) (n kind : Nat) (f : Flit) (act : State → List Byte → State) : State :=
  s.receive n kind f (fun s bs =>
    let l := s.link n
    let seq := hLseq f.header
    if seq == l.rxSeq then
      act (s.modLink n (fun l => { l with
        rxSeq := l.rxSeq + 1, ackDue := true, retryReq := none, asked := none })) bs
    else if (l.rxSeq - seq).toNat < 2 ^ 15 then s.modLink n (fun l => { l with ackDue := true })
    else s.modLink n (fun l => l.miss seq))

/-- Flits up to an LSEQ are acknowledged (R273): a KEYMARK among them completes the switch-over and the old slot becomes
EMPTY (R278, R464); a DRAIN among them is noted. -/
def State.acked (s : State) (n : Nat) (upto : BitVec 16) : State :=
  let l := s.link n
  let covered (f : RetryFlit) : Bool := (upto - f.lseq).toNat < 2 ^ 15
  let done := l.retryBuf.filter covered
  if done.isEmpty then s
  else
    let has (k : Nat) : Bool := done.any (fun f => f.kind.toNat == k)
    let s := s.modLink n (fun l =>
      let l := { l with
        retryBuf := l.retryBuf.filter (fun f => !covered f), rounds := 0
        drainAcked := l.drainAcked || has kDrain }
      match l.keymark with
      | some old => if has kKeymark then { l.modSlot old (fun k => { k with tx := .empty, arm := false }) with keymark := none }
        else l
      | none => l)
    s.judgeDark n

/-! ## Sending what is due: the link's part of a cycle -/

/-- Its DRAIN flit takes an LSEQ once the retry buffer has a place and no switch-over is under way (R464). -/
def State.queueDrain (s : State) (n : Nat) : State :=
  let l := s.link n
  if l.state == .draining && !l.drainSent && l.keymark.isNone && l.retryBuf.length < 64 then
    (s.enqueueRetry n (ctlFlit kDrain 0 0 [])).modLink n (fun l => { l with drainSent := true })
  else s

/-- The arrival port of a die is stalled by its full side log (R110). -/
def State.portStalled (s : State) (n : Nat) : Bool := s.logFull (.arrival (linkDie n))

/-- Begins a switch-over (R278): the READY slot becomes ACTIVE with the KEYMARK that leaves under it, once the retry buffer has
a place for it (R273). (DEDUCED, log 79.) -/
def State.beginSwitch (s : State) (n : Nat) : State :=
  let l := s.link n
  match l.readySlot, l.activeSlot with
  | some k, some old =>
    if l.keymark.isSome then s
    else if 64 ≤ l.retryBuf.length then s.modLink n (fun l => { l with switchDue := true })
    else
      let s := s.modLink n (fun l =>
        { l.modSlot k (fun k => { k with tx := .active }) with keymark := some old, switchDue := false })
      s.enqueueRetry n (ctlFlit kKeymark 0 0 [])
  | _, _ => s

/-- A switch-over that waits for a place in the retry buffer. (DEDUCED, log 79.) -/
def State.pumpSwitch (s : State) (n : Nat) : State :=
  if (s.link n).switchDue && (s.link n).state == .up then s.beginSwitch n else s

/-- Sends one flit that is due where the line is free: a flit to send again or for the first time, a RETRYREQ, an ACK, a
CREDIT. An ACK waits until no flit has come for the time of one. (DESIGN CHOICE, log 34.) -/
def State.linkPump (s : State) (n : Nat) : State :=
  let s := s.pumpSwitch n
  let l := s.link n
  if !(l.state == .up || l.state == .draining) || !s.lineFree n || l.sendSlot.isNone then s
  else
    let s := s.queueDrain n
    let l := s.link n
    if 0 < l.dueCount then s.sendDue n
    else match l.retryReq with
      | some q =>
        (s.modLink n (fun l => { l with retryReq := none })).emit n (ctlFlit kRetry 0 q [])
      | none =>
        if l.ackDue then
          if l.lastArrival.toNat + flitCycles n ≤ s.cycle.toNat then
            ((s.modLink n (fun l => { l with ackDue := false })).emit n (ctlFlit kAck 0 (l.rxSeq - 1) [])).judgeDark n
          else s
        else match l.creditDue with
          | vc :: rest =>
            if s.portStalled n then s
            else
              let k := tabGet 0 l.owed vc
              (s.modLink n (fun l => { l with creditDue := rest, owed := tabSet 0 l.owed vc 0 })).emit n
                (ctlFlit kCredit (BitVec.ofNat 3 vc) 0 (leBytes k 2))
          | [] => s

/-! ## Flits that arrive -/

/-- A freed buffer of a virtual channel (R273): its allowance goes back with 16 pending, or with the last flit of an
operation. -/
def State.oweCredit (s : State) (n : Nat) (vc : BitVec 3) (last : Bool) : State :=
  s.modLink n (fun l =>
    let k := tabGet 0 l.owed vc.toNat + 1
    { l with
      owed := tabSet 0 l.owed vc.toNat k
      creditDue := if (last || 16 ≤ k) && !l.creditDue.contains vc.toNat then l.creditDue ++ [vc.toNat] else l.creditDue })

/-- The flit is the last of its operation, or the only one (R273): one of under 192 B is; of an operation of whole flits the
last to come is. -/
def State.passFlit (s : State) (o : RemoteOp) : State × Bool :=
  let need := o.opLength
  if o.data.length < 192 || need ≤ 192 || need % 192 != 0 then (s, o.data.length < 192 || need ≤ 192)
  else
    let g := (s.passing.find? (fun g => g.op.same o)).getD { op := { o with data := [] }, parts := [], need := need }
    let parts := tabPut g.parts o.vaddr.toNat []
    let rest := s.passing.filter (fun h => !h.op.same o)
    if need / 192 ≤ parts.length then ({ s with passing := rest }, true)
    else ({ s with passing := rest ++ [{ g with parts := parts }] }, false)

/-- One virtual channel up within its class (R269); the last of a class keeps a flit. (DESIGN CHOICE, log 34.) -/
def vcUp (vc : BitVec 3) : BitVec 3 := if vc == 3 || vc == 7 then vc else vc + 1

/-- DATA_FLIT (R273, R271): an accepted flit leaves its buffer for the arrival port, or for the next hop; one bound for a group
without a route is dropped (R280). -/
def execDataFlit (link : Nat) (flit : Flit) (s : State) : Host.Outcome State Fault Refusal :=
  .next (s.receiveSeq link kData flit (fun s bs =>
    let h := flit.header
    if hDst h == s.fabid then
      let p := s.gatherFlit (segRead bs (hSrc h) (hDst h))
      p.1.oweCredit link (hVc h) p.2
    else
      let f : RetryFlit := { kind := BitVec.ofNat 8 kData, vc := if isGlobal link then vcUp (hVc h) else hVc h
                             dst := hDst h, src := hSrc h, lseq := 0, hops := hHops h + 1, len := BitVec.ofNat 8 bs.length
                             payload := bs, resend := false }
      let p := s.passFlit (segRead bs (hSrc h) (hDst h))
      ({ p.1 with transit := p.1.transit ++ p.1.routed link [f] } : State).oweCredit link (hVc h) p.2))

/-- ACK (R273, R274, R464): covered flits leave the retry buffer. -/
def execAck (link : Nat) (flit : Flit) (s : State) : Host.Outcome State Fault Refusal :=
  .next (s.receive link kAck flit (fun s _ => s.acked link (hLseq flit.header)))

/-- A retry round of the oldest flit begins where it has been sent since the last one (R274). -/
def Link.roundBegins (l : Link) : Bool :=
  match l.retryBuf with
  | f :: _ => f.sent && !f.resend
  | [] => false

/-- RETRYREQ (R273, R274): flits before the one asked for are acknowledged; the rest go again in order, each under a new
invocation value; a link whose oldest flit is asked for again after 16 rounds in a row goes DOWN. -/
def execRetryreq (link : Nat) (flit : Flit) (s : State) : Host.Outcome State Fault Refusal :=
  .next (s.receive link kRetry flit (fun s _ =>
    let s := s.acked link (hLseq flit.header - 1)
    let l := s.link link
    if l.retryBuf.isEmpty then s
    else if l.roundBegins && 16 ≤ l.rounds then s.linkDown link
    else
      let s := s.modLink link (fun l => { l with
        rounds := if l.roundBegins then l.rounds + 1 else l.rounds
        retryBuf := l.retryBuf.map (fun f => { f with resend := true }) })
      (rangeFrom 0 l.retryBuf.length).foldl (fun s _ => s.sendDue link) s))

/-- CREDIT_FLIT (R273): allowances of a virtual channel come back. (DESIGN CHOICE, log 34.) -/
def execCreditFlit (link : Nat) (flit : Flit) (s : State) : Host.Outcome State Fault Refusal :=
  .next (s.receive link kCredit flit (fun s bs =>
    let vc := (hVc flit.header).toNat
    s.modLink link (fun l => { l with spent := tabSet 0 l.spent vc (tabGet 0 l.spent vc - fieldAt bs 0 2) })))

/-- KEYMARK (R278): a KEYMARK accepted under a slot sets the other receive slot EMPTY. -/
def execKeymark (link : Nat) (flit : Flit) (s : State) : Host.Outcome State Fault Refusal :=
  .next (s.receiveSeq link kKeymark flit (fun s _ =>
    s.modLink link (fun l => l.modSlot (!hKs flit.header) (fun k => { k with rxOpen := false }))))

/-- DRAIN_FLIT (R279): an UP end enters DRAINING and sends its own DRAIN. -/
def execDrainFlit (link : Nat) (flit : Flit) (s : State) : Host.Outcome State Fault Refusal :=
  .next (s.receiveSeq link kDrain flit (fun s _ =>
    (s.modLink link (fun l => { l with
      peerDrained := true, state := if l.state == .up then .draining else l.state })).judgeDark link))

/-- HELLO (R272, R279): in TRAINING it reports the peer's fabric ID and link number; in any other state it is not accepted: it
is dropped, and counts as no failed flit. (DESIGN CHOICE, log 34.) -/
def execHello (link : Nat) (flit : Flit) (s : State) : Host.Outcome State Fault Refusal :=
  .next (if hKind flit.header == kHello && (s.link link).state == .training && flit.tag == 0 then
    s.modLink link (fun l => { l with
      peer := hSrc flit.header, peerLink := (hLseq flit.header).extractLsb' 0 6, flitRx := l.flitRx + 1
      lastArrival := s.cycle })
  else s)

/-- UNKNOWN_FLIT (R270): discarded, counted in AUTHFAIL and asked for again. -/
def execUnknownFlit (link : Nat) (flit : Flit) (s : State) : Host.Outcome State Fault Refusal :=
  .next (if 8 ≤ hKind flit.header && (s.link link).listens then s.authFailed link flit else s)

/-- IDLE_FLIT (R274): it keeps the link alive. While a flit is missing it says that the peer has nothing to send again, so the
flit is asked for again (R273). (DESIGN CHOICE, log 34.) -/
def execIdleFlit (link : Nat) (flit : Flit) (s : State) : Host.Outcome State Fault Refusal :=
  .next (s.receive link kIdle flit (fun s _ => s.modLink link (fun l =>
    { l with retryReq := if l.asked.isSome then some l.rxSeq else l.retryReq })))

/-- LINK_LOCK_LOSS (R274). -/
def execLinkLockLoss (link : Nat) (s : State) : Host.Outcome State Fault Refusal :=
  .next (if (s.link link).state == .up || (s.link link).state == .draining then s.linkDown link else s)

/-- 2 µs in cycles of 3.0 GHz (R274). -/
def silenceCycles : Nat := 6000

/-- LINK_SILENCE_TIMEOUT (R274): no flit has come for 2 µs. -/
def execLinkSilenceTimeout (link : Nat) (s : State) : Host.Outcome State Fault Refusal :=
  let l := s.link link
  .next (if (l.state == .up || l.state == .draining) && l.lastArrival.toNat + silenceCycles ≤ s.cycle.toNat
    then s.linkDown link else s)

/-! ## Flits that leave -/

/-- A link may send a new DATA flit on a virtual channel (R273, R274, R464). -/
def State.dataOpen (s : State) (n : Nat) (vc : BitVec 3) : Bool :=
  let l := s.link n
  l.state == .up && l.keymark.isNone && l.sendSlot.isSome && l.retryBuf.length < 64 && l.dueCount = 0
    && tabGet 0 l.spent vc.toNat < 64 && s.lineFree n

/-- A new DATA flit leaves: it spends an allowance and keeps a place in the retry buffer. -/
def State.sendData (s : State) (n : Nat) (f : RetryFlit) : State :=
  let s := s.modLink n (fun l => { l with spent := tabSet 0 l.spent f.vc.toNat (tabGet 0 l.spent f.vc.toNat + 1) })
  (s.enqueueRetry n f).sendDue n

/-- The die whose route table serves a destination for a flit of the port. -/
def State.hops (s : State) (o : Out) : List Nat := s.nextHops o.die o.op.dst

/-- Operation i of the port has flits to send, its route takes the link, and no earlier operation of its entry is on its way
(R169, R468). -/
def State.portReady (s : State) (link i : Nat) : Bool :=
  match s.out[i]? with
  | some o => (match o.stage with
      | .port _ => true
      | _ => false) && (s.hops o).contains link && !State.behind (s.out.take i) o
  | none => false

/-- Virtual channel of operation i of the port. -/
def State.portVc (s : State) (i : Nat) : BitVec 3 := ((s.out[i]?).map (fun o => vcOf o.op.op)).getD 0

/-- A flit other than IDLE waits to leave on the link (R463), be it for want of an allowance or of a place. -/
def State.flitWaits (s : State) (n : Nat) : Bool :=
  let l := s.link n
  0 < l.dueCount || l.ackDue || l.retryReq.isSome || !l.creditDue.isEmpty || l.switchDue
    || s.transit.any (fun f => (s.nextHops (linkDie n) f.dst).contains n)
    || (rangeFrom 0 s.out.length).any (s.portReady n)

/-- DATA_FLIT_SEND (R273, R269, R271): the first flit in transit, or the next flit of the oldest operation at the port, whose
route takes this link and whose virtual channel has an allowance. -/
def execDataFlitSend (link : Nat) (s : State) : Host.Outcome State Fault Refusal :=
  .next (
    match s.transit.find? (fun f => (s.nextHops (linkDie link) f.dst).contains link && s.dataOpen link f.vc) with
    | some f => ({ s with transit := s.transit.erase f } : State).sendData link f
    | none =>
      match (rangeFrom 0 s.out.length).find? (fun i => s.portReady link i && s.dataOpen link (s.portVc i)) with
      | none => s
      | some i => match s.out[i]? with
        | none => s
        | some o =>
          let k := match o.stage with
            | .port k => k
            | _ => 0
          let last := flitCount o.op.data.length ≤ k + 1
          let o' : Out := { o with
            stage := if last then .sent else .port (k + 1), link := some link
            firstSent := some (o.firstSent.getD s.cycle) }
          let s := { s with out := if last && o.kind == OutKind.response then s.out.eraseIdx i else s.out.set i o' }
          s.sendData link (opFlit o.op k (vcOf o.op.op)))

/-- IDLE_FLIT_SEND (R463, R274): after 1,024 cy without a flit sent, where nothing waits; a link in TRAINING sends HELLO,
and an IDLE flit under its key once it has one, the first flit of its end (DESIGN CHOICE, log 34). -/
def execIdleFlitSend (link : Nat) (s : State) : Host.Outcome State Fault Refusal :=
  let l := s.link link
  .next (if l.lastSent.toNat + 1024 ≤ s.cycle.toNat then
    match l.state with
    | .up => if !s.flitWaits link && l.sendSlot.isSome then s.emit link (ctlFlit kIdle 0 0 []) else s
    | .training =>
      let s := s.emitHello link
      if l.sendSlot.isSome then s.emit link (ctlFlit kIdle 0 0 []) else s
    | _ => s
  else s)

end Sys2Proof.Machine
end

