-- ==== Sys2Proof/Machine/System.lean ====
section
/-!
DEFINITION. System operations on translation, links, routes and channels (13: R345, R346, R348-R355) and the replay of
side logs (R109, R111-R113).
-/

namespace Sys2Proof.Machine

/-- A system operation (R355): S in Table 12.11. -/
def sysOp (needs : List Nat) (bad : Arg → Bool) : Op :=
  { ports := syPorts, needs := fun _ => needs, weight := 2, sysOnly := true
    illegal := fun a => if bad a then some a.port else none }

/-! ## Translation (R345, R346) -/

/-- Bytes of the page size of a code (R345). -/
def codeSize (code : Nat) : Nat := if code < 5 then pageSize code else 2 ^ 52

/-- The page of a size code that holds an address: its first address. -/
def pageBase (code va : Nat) : Nat := va / codeSize code * codeSize code

/-- The address lies in the page of a size code around va. -/
def inPage (code va a : Nat) : Bool := pageBase code va ≤ a && a < pageBase code va + codeSize code

/-- `tlb.inv` removes an entry: every one, or one of the size that covers the address; of a 1 GiB page, every fragment. -/
def tlbRemoves (code va : Nat) (e : TlbEntry) : Bool :=
  code == 7 || (e.level == code && inPage code va e.base.toNat)

/-- Removes entries from the TLBs of both dies. -/
def State.tlbRemove (s : State) (code va : Nat) : State :=
  let keep (t : Tab (List TlbEntry)) : Tab (List TlbEntry) :=
    [0, 1].foldl (fun t d => tabSet [] t d ((tabGet [] t d).filter (fun e => !tlbRemoves code va e))) t
  { s with tlb := keep s.tlb, tlbBig := keep s.tlbBig }

/-- `tlb.inv` at a size code around va covers the address: code 7 covers every one. -/
def invCovers (code va a : Nat) : Bool := code == 7 || inPage code va a

/-- Numbers of the host accesses that a TLB entry of the page has translated. -/
def State.hostThrough (s : State) (code va : Nat) : List Nat :=
  (s.hostPending.filter (fun r => match r.va with
    | some a => invCovers code va a.toNat
    | none => false)).map (·.id)

/-- TLB_INV (R345): the entries go at once; the operation completes when the walks begun before have returned and the host
accesses translated through a removed entry are answered. -/
def opTlbInv : Op :=
  { sysOp [0x310] (fun a => a.val.toNat % 8 == 5 || a.val.toNat % 8 == 6) with
    fin := fun a s =>
      let code := a.val.toNat % 8
      let hosts := s.hostThrough code a.x1.toNat
      let s := s.tlbRemove code a.x1.toNat
      s.modCtx a.core a.ctx (fun cx => { cx with
        completing := cx.completing ++ [.tlbInv code a.x1 (s.walks.map (fun w => (w.die, w.va, w.asked))) hosts] }) }
/-- TLB_INV: issue of its slot. -/
def execTlbInv (m : Mv) (s : State) : Host.Outcome State Fault Refusal :=
  issueTrigger m 0x322 opTlbInv s

/-! ### Replay of side logs (R109) -/

/-- The answer to an arrival that was performed: an acknowledgement, with the old value of an atomic and its poison (R420). -/
def State.ackArrival (s : State) (q : RemoteOp) (old : List Byte) (poison : List Nat) : State :=
  if q.op == opAtomic then s.respond opAck 0 q old poison else s.respond opAck 0 q []

/-- The destination cannot perform an arrival: its source ends the context with REMOTE.ERR (R104, R109, R112). -/
def State.failArrival (s : State) (q : RemoteOp) : State :=
  s.respond (if q.op == opReadReq then opReadData else opAck) ropFailed q []

/-- A piece of a remote write to a host window. -/
def HostWho.writes (w : HostWho) (q : RemoteOp) : Bool :=
  match w with
  | .arrivalWrite p _ => p == q
  | _ => false

/-- Part of an arrival has failed: its source is told once, and what else of it is under way is acknowledged no more. -/
def State.failParts (s : State) (q : RemoteOp) : State :=
  ({ s with
    sideLogs := s.sideLogs.map (fun e => if e.arrival == some q then { e with failed := true } else e)
    portParts := s.portParts.map (fun p => if p.op == q then { p with failed := true } else p)
    hostPending := s.hostPending.map (fun r =>
      if r.who.writes q then { r with who := HostWho.nobody } else r) } : State).failArrival q

/-- Part of an arrival has been performed: the last one acknowledges it (R111). -/
def State.partDone (s : State) (q : RemoteOp) (old : List Byte) (poison : List Nat) : State :=
  if s.sideLogs.any (fun f => f.arrival == some q) || s.portParts.any (fun p => p.op == q)
      || s.hostPending.any (fun r => r.who.writes q) then s
  else s.ackArrival q old poison

/-- The access of an entry ends: a `vatom` holds the later accesses of its context no more (R426). -/
def State.letGo (s : State) (e : LogEntry) : State :=
  match e.hold with
  | some i => s.modCtx e.core e.ctx (fun cx => { cx with acquireHold := cx.acquireHold.filter (· != i) })
  | none => s

/-- The issuer of a logged access that fails: REMOTE.ERR for an arrival, the cause for a local write, naming the unit that
issued it (Table 9.2). -/
def State.failEntry (s : State) (e : LogEntry) (cause : BitVec 8) : State :=
  match e.arrival with
  | some q => if e.failed then s else s.failParts q
  | none =>
    let s := (s.letGo e).pendCause e.core e.ctx cause (trapInfoWord none e.issuer e.va.toNat)
    if e.serial = 0 then s else s.refillEngine e.core e.ctx e.serial

/-- Removes the first entry equal to e from the logs. -/
def State.dropEntry (s : State) (e : LogEntry) : State := { s with sideLogs := s.sideLogs.erase e }

/-- An entry as it stands in the log now: another part of its arrival may have failed meanwhile. -/
def State.entryNow (s : State) (e : LogEntry) : LogEntry :=
  (s.sideLogs.find? (fun f => { f with failed := e.failed } == e)).getD e

/-- Of the entries of one arrival the first alone; every entry of a local write. -/
def firstParts : List LogEntry → List LogEntry
  | [] => []
  | e :: t => e :: (firstParts t).filter (fun f => f.arrival.isNone || f.arrival != e.arrival)

/-- A logged access has been performed at an address of HBM: an arrival is acknowledged, an old value lands; one that is
poisoned ends its context (R100). -/
def State.entryDone (s : State) (e : LogEntry) (pa : Nat) (old : List Byte) (poison : List Nat) : State :=
  match e.arrival with
  | some q => if e.failed then s else s.partDone q old poison
  | none =>
    let s := s.letGo e
    if e.serial = 0 then s
    else match poison with
      | [] => s.landEngine e.core e.ctx e.serial (dwordOf old)
      | p :: _ => s.endCtx e.core e.ctx (eccRecord .hbm e.core e.ctx (pa + p))

/-- Replays one entry, whose page is valid (R109, R111, R113): it is performed in HBM, or as an RDMA WRITE where the page lies
in a host window (R263). -/
def State.replayEntry (s : State) (e : LogEntry) (level : Nat) (pte : Dword) : State :=
  let s := s.dropEntry e
  let pa := leafPa pte level e.va.toNat
  if e.op != .store && !pteImmediate pte then s.failEntry e causeRegionKind
  else if !pteW pte || (e.op.isAtomic && !pteA pte) || (e.op != .store && hostBase ≤ pa) then s.failEntry e causeXlatePerm
  else if hostBase ≤ pa then
    match s.hostWindow pa e.data.length with
    | some (w, h) =>
      let who : HostWho := match e.arrival with
        | some q => if e.failed then .nobody else .arrivalWrite q e.migrating
        | none => .replay e.core e.ctx e.migrating
      s.sendHost who w.qp (some e.va) (.rdmaWrite w.qp w.key h e.data)
    | none => s.failEntry e causeXlatePerm
  else
    let p := s.hPerform pa e.op e.data e.poison
    p.1.entryDone e pa p.2.1 p.2.2

/-- Replays the entries of a log, oldest first, until one whose page is still invalid or migrating, which posts a new
fault record (R109, R346). An entry without data has no page to wait for (R424). -/
def State.replayLog : List LogEntry → State → State
  | [], s => s
  | f :: t, s =>
    let e := s.entryNow f
    if e.data.isEmpty then State.replayLog t ((s.dropEntry e).entryDone e 0 [] [])
    else match s.walk e.va.toNat with
    | none => { s with faults := s.faults ++ [{ unit := e.unit, va := e.va, migration := false }] }
    | some (level, pte) =>
      if pteMig pte then { s with faults := s.faults ++ [{ unit := e.unit, va := e.va, migration := true }] }
      else State.replayLog t (s.replayEntry e level pte)

/-- Units whose log holds an entry of a page. -/
def State.unitsOf (s : State) (code va : Nat) : List LogUnit :=
  (s.sideLogs.filter (fun e => inPage code va e.va.toNat)).foldl
    (fun us e => if us.contains e.unit then us else us ++ [e.unit]) []

/-- A live service holds an entry of a log that a replay of the page makes (R285). (DESIGN CHOICE, log 62.) -/
def State.replayHeld (s : State) (code va : Nat) : Bool :=
  !s.calm && s.sideLogs.any (fun e => (s.unitsOf code va).contains e.unit && s.rangeHeld e.va.toNat e.data.length)

/-- Every log that holds entries of the page is replayed. -/
def State.replayPage (s : State) (code va : Nat) : State :=
  (s.unitsOf code va).foldl (fun s u => State.replayLog (s.sideLogs.filter (fun e => e.unit == u)) s) s

/-- A transfer whose held read can never be made: `rput` and `rred` still send their sequence number (R424), any other
command is finished. -/
def State.giveUp (s : State) (c ch : Nat) (x : Xfer) : State :=
  let send (op rop : BitVec 8) (st : BitVec 5) (rdst : Dword) : State :=
    (s.sendXfer x false (s.remoteOp x.cmd op rop st rdst 0 [])).modXfer c ch x.id
      (fun y => if y.stage == .finished then y else { y with stage := .sent, buffer := [], counted := 0 })
  match x.cmd.op with
  | .rput st _ rdst _ _ => send opWrite 0 st rdst
  | .rred st _ rdst ctl _ => send opReduce (redRop (ctlOp ctl) (ctlTyp ctl)) st rdst
  | _ => s.modXfer c ch x.id (fun x => { x with stage := .finished })

/-- Changes every held transfer and every held loader ring of a page. (DEDUCED, log 64.) -/
def State.modHeld (s : State) (code va : Nat) (f : State → Nat → Nat → Xfer → State) (g : State → Nat → LoadRing → State) :
    State :=
  let held (v : Option Dword) : Bool := match v with
    | some a => inPage code va a.toNat
    | none => false
  s.cores.foldl (fun s p =>
    let s := p.2.buffers.foldl (fun s b => b.2.foldl (fun s x => match x.stage with
      | .held a => if inPage code va a.toNat then f s p.1 b.1 x else s
      | _ => s) s) s
    p.2.rings.foldl (fun s r => if held r.heldVa then g s p.1 r else s) s) s

/-- Changes every stage queue whose refill a page holds (R164). -/
def State.modRefills (s : State) (code va : Nat) (f : State → Nat → State) : State :=
  s.queues.foldl (fun s p => match p.2.refillHeld with
    | some a => if inPage code va a.toNat then f s p.1 else s
    | none => s) s

/-- The oldest entry of a ring is given up: its pushing context takes a cause (R104, R112). (DESIGN CHOICE, log 71.) -/
def State.loseRefill (s : State) (qi : Nat) (cause : BitVec 8) (va : Nat) : State :=
  let q := tabGet {} s.queues qi
  let s := match q.pushers with
    | (c, x) :: _ => s.pendCause c x cause (trapInfoWord none quUnit va)
    | [] => s
  { s with queues := tabSet {} s.queues qi { q with
      ovhead := q.ovhead + 1, pushers := q.pushers.tail, refillBuf := [], refillPoison := [], refillHeld := none } }

/-- Notes of failed walks of a page are dropped: the next access walks afresh. -/
def State.dropMisses (s : State) (code va : Nat) : State :=
  { s with walkMiss := s.walkMiss.filter (fun w => !inPage code va w.2.toNat) }

/-- Action 0: replay, and held loads go on (R112). (DEDUCED, log 64.) -/
def State.fixMapped (s : State) (code va : Nat) : State :=
  let s := s.dropMisses code va
  let s := s.modHeld code va (fun s c ch x => s.modXfer c ch x.id (fun x => { x with stage := .waiting }))
    (fun s c r => s.modRing c r.ring (fun r => { r with heldVa := none }))
  let s := s.modRefills code va (fun s qi => { s with
    queues := tabSet {} s.queues qi { tabGet {} s.queues qi with refillHeld := none } })
  let back := s.heldReads.filter (fun q => inPage code va q.2.toNat)
  let s := { s with
    heldReads := s.heldReads.filter (fun q => !inPage code va q.2.toNat), inbox := s.inbox ++ back.map Prod.fst }
  s.replayPage code va

/-- Action 1: logged entries are discarded, held loads take XLATE.LOAD, held remote reads fail (R109, R112). An entry without
data writes nothing and commits (R424). (DEDUCED, log 64.) -/
def State.fixUnmappable (s : State) (code va : Nat) : State :=
  let s := s.dropMisses code va
  let es := s.sideLogs.filter (fun e => inPage code va e.va.toNat)
  let s : State := { s with sideLogs := s.sideLogs.filter (fun e => !inPage code va e.va.toNat) }
  let s := (firstParts es).foldl (fun s e =>
    if e.data.isEmpty then s.entryDone e 0 [] [] else s.failEntry e causeXlatePerm) s
  let s := s.modHeld code va (fun s c ch x =>
      let a := match x.stage with
        | .held a => a.toNat
        | _ => 0
      (((s.deferFault x.cmd causeXlateLoad a).refillEngine c x.cmd.ctx x.cmd.serial).performed x.cmd false).giveUp c ch x)
    (fun s c r => (s.deferFault r.cmd causeXlateLoad (r.heldVa.getD 0).toNat).modRing c r.ring
      (fun r => { r with heldVa := none, ended := true }))
  let s := s.modRefills code va (fun s qi =>
    s.loseRefill qi causeXlateLoad (((tabGet {} s.queues qi).refillHeld).getD 0).toNat)
  let lost := (s.heldReads.filter (fun q => inPage code va q.2.toNat)).map (·.1)
  let s := { s with
    heldReads := s.heldReads.filter (fun q => !inPage code va q.2.toNat)
    readGot := s.readGot.filter (fun g => !lost.contains g.1) }
  lost.foldl State.failArrival s

/-- Action 2: replay into the new frame (R113, step 4). (DEDUCED, log 64.) -/
def State.fixMigrated (s : State) (code va : Nat) : State := (s.dropMisses code va).replayPage code va

/-- `tlb.fix` (R346), one meaning for its actions, told apart by the moved value; a replay that a live service holds holds the
bundle (R285). -/
def tlbFixOp : Op :=
  { sysOp [0x310, 0x311] (fun a => a.val.toNat % 4 == 3 || 5 ≤ a.x2.toNat % 8) with
    gate := fun a =>
      if a.val.toNat % 4 != 1 && a.pre.replayHeld (a.x2.toNat % 8) a.x1.toNat then .hold else .go
    act := fun a s =>
      let code := a.x2.toNat % 8
      match a.val.toNat % 4 with
      | 0 => s.fixMapped code a.x1.toNat
      | 1 => s.fixUnmappable code a.x1.toNat
      | _ => s.fixMigrated code a.x1.toNat }

/-- TLB_FIX_MAPPED (R346, action 0). -/
def opTlbFixMapped : Op := tlbFixOp
/-- TLB_FIX_MAPPED: issue of its slot. -/
def execTlbFixMapped (m : Mv) (s : State) : Host.Outcome State Fault Refusal :=
  issueTrigger m 0x323 opTlbFixMapped s

/-- TLB_FIX_UNMAPPABLE (R346, action 1). -/
def opTlbFixUnmappable : Op := tlbFixOp
/-- TLB_FIX_UNMAPPABLE: issue of its slot. -/
def execTlbFixUnmappable (m : Mv) (s : State) : Host.Outcome State Fault Refusal :=
  issueTrigger m 0x323 opTlbFixUnmappable s

/-- TLB_FIX_MIGRATED (R346, action 2). -/
def opTlbFixMigrated : Op := tlbFixOp
/-- TLB_FIX_MIGRATED: issue of its slot. -/
def execTlbFixMigrated (m : Mv) (s : State) : Host.Outcome State Fault Refusal :=
  issueTrigger m 0x323 opTlbFixMigrated s

/-! ## Links (R348-R350) -/

/-- Link, item or command, and slot of a link operation's value. -/
def Arg.linkNo (a : Arg) : Nat := a.val.toNat % 64
def Arg.linkItem (a : Arg) : Nat := bits a.val.toNat 11 8

/-- A key load (R277, R215, R216, R471): the slot pair takes key and salt; transmit READY, receive OPEN, counters 0, KEY.DUE
armed. -/
def Link.loadKey (l : Link) (k : Bool) (block : List Byte) : Link :=
  let l := l.modSlot k (fun _ => {
    key := BitVec.ofNat 256 (fieldAt block 0 32), salt := BitVec.ofNat 48 (fieldAt block 32 6)
    tx := .ready, rxOpen := true, txic := 0, rxic := 0, arm := true })
  { l with first := match l.first with
    | some f => some f
    | none => some k }

/-- LNK_KEY (R348, R277). -/
def opLnkKey : Op :=
  let ok (a : Arg) : Bool := ((a.pre.link a.linkNo).slot (a.val.getLsbD 8)).tx != .active
  { sysOp [0x310] (fun a => 46 < a.linkNo) with
    traps := fun a => addrCause a.pre a.x1.toNat 64 false
    gate := fun a => if a.cx.acquiring || a.cx.lateAt a.x1.toNat 64 then .hold else .go
    act := fun a s =>
      let s := s.syResult a 2 (if ok a then stDone else stRefused)
      let s := s.consumeRead a.core a.ctx a.x1.toNat 64
      if ok a then
        s.modLink a.linkNo (fun l => l.loadKey (a.val.getLsbD 8) (a.pre.coreRead a.core a.x1.toNat 64))
      else s }
/-- LNK_KEY: issue of its slot. -/
def execLnkKey (m : Mv) (s : State) : Host.Outcome State Fault Refusal :=
  issueTrigger m 0x326 opLnkKey s

/-- Codes of the state word (R349). -/
def LinkState.code : LinkState → Nat
  | .down => 0 | .training => 1 | .up => 2 | .draining => 3 | .dark => 4
def TxState.code : TxState → Nat
  | .empty => 0 | .ready => 1 | .active => 2

/-- Item n of a link (R349). -/
def Link.item (l : Link) (n : Nat) : Nat :=
  match n with
  | 0 => l.state.code + l.k0.tx.code * 2 ^ 4 + l.k1.tx.code * 2 ^ 6 + (if l.k0.rxOpen then 2 ^ 8 else 0)
    + (if l.k1.rxOpen then 2 ^ 9 else 0) + l.peer.toNat * 2 ^ 16 + l.peerLink.toNat * 2 ^ 32
  | 1 => l.k0.txic.toNat
  | 2 => l.k1.txic.toNat
  | 3 => l.k0.rxic.toNat
  | 4 => l.k1.rxic.toNat
  | 5 => l.flitTx.toNat
  | 6 => l.flitRx.toNat
  | 7 => l.retry.toNat
  | 8 => l.authFail.toNat
  | _ => l.kdue.toNat

/-- LNK_GET (R349). -/
def opLnkGet : Op :=
  { sysOp [] (fun a => 46 < a.linkNo || 10 ≤ a.linkItem) with
    act := fun a s => s.syResult a 2 (BitVec.ofNat 64 ((a.pre.link a.linkNo).item a.linkItem)) }
/-- LNK_GET: issue of its slot. -/
def execLnkGet (m : Mv) (s : State) : Host.Outcome State Fault Refusal :=
  issueTrigger m 0x327 opLnkGet s

/-- DRAIN (R279): an UP link enters DRAINING and sends its DRAIN flit. -/
def State.linkDrain (s : State) (n : Nat) : State :=
  if (s.link n).state == .up then (s.modLink n (fun l => { l with state := .draining })).linkPump n else s

/-- RELOCK (R279, R469, R471): a DARK or DOWN link enters TRAINING, every slot EMPTY with its counters, and sends HELLO: it
enters UP under no slot of the old pairing (R472). -/
def State.linkRelock (s : State) (n : Nat) : State :=
  if (s.link n).state == .dark || (s.link n).state == .down then
    (s.modLink n (fun l => { l with
      state := .training, k0 := {}, k1 := {}, first := none, keymark := none, rounds := 0, retryBuf := []
      ackDue := false, retryReq := none, asked := none, creditDue := [], switchDue := false })).emitHello n
  else s

/-- SWITCH (R278, R350): of an UP link; the KEYMARK leaves at once where the line is free. -/
def State.linkSwitch (s : State) (n : Nat) : State :=
  if (s.link n).state == .up && (s.link n).readySlot.isSome then (s.beginSwitch n).linkPump n else s

/-- KDUE (R215): the threshold is written and both slots are armed. -/
def State.linkKdue (s : State) (n : Nat) (v : BitVec 48) : State :=
  s.modLink n (fun l => { l with
    kdue := v, k0 := { l.k0 with arm := true }, k1 := { l.k1 with arm := true } })

/-- `lnk.cmd` (R350), one meaning for its commands, told apart by the moved value. -/
def lnkCmdOp : Op :=
  { sysOp [] (fun a => 46 < a.linkNo || 5 ≤ a.linkItem) with
    needs := fun v => if bits v.toNat 11 8 == 3 then [0x310] else []
    act := fun a s => match a.linkItem with
      | 0 => s.linkDrain a.linkNo
      | 1 => s.linkRelock a.linkNo
      | 2 => s.linkSwitch a.linkNo
      | 3 => s.linkKdue a.linkNo (a.x1.extractLsb' 0 48)
      | _ => if (s.link a.linkNo).state == .down then s else s.linkDown a.linkNo }

/-- LINK_DRAIN (R350, command 0). -/
def opLinkDrain : Op := lnkCmdOp
/-- LINK_DRAIN: issue of its slot. -/
def execLinkDrain (m : Mv) (s : State) : Host.Outcome State Fault Refusal :=
  issueTrigger m 0x328 opLinkDrain s

/-- LINK_RELOCK (R350, command 1). -/
def opLinkRelock : Op := lnkCmdOp
/-- LINK_RELOCK: issue of its slot. -/
def execLinkRelock (m : Mv) (s : State) : Host.Outcome State Fault Refusal :=
  issueTrigger m 0x328 opLinkRelock s

/-- LINK_SWITCH (R350, command 2). -/
def opLinkSwitch : Op := lnkCmdOp
/-- LINK_SWITCH: issue of its slot. -/
def execLinkSwitch (m : Mv) (s : State) : Host.Outcome State Fault Refusal :=
  issueTrigger m 0x328 opLinkSwitch s

/-- LINK_KDUE (R350, command 3). -/
def opLinkKdue : Op := lnkCmdOp
/-- LINK_KDUE: issue of its slot. -/
def execLinkKdue (m : Mv) (s : State) : Host.Outcome State Fault Refusal :=
  issueTrigger m 0x328 opLinkKdue s

/-- LINK_DOWN_COMMAND (R350, command 4). -/
def opLinkDownCommand : Op := lnkCmdOp
/-- LINK_DOWN_COMMAND: issue of its slot. -/
def execLinkDownCommand (m : Mv) (s : State) : Host.Outcome State Fault Refusal :=
  issueTrigger m 0x328 opLinkDownCommand s

/-! ## Routes (R351, R280) -/

/-- A route entry that `rt.wr` refuses: STATE 3, or a valid hop above 46. -/
def routeBad (e : Dword) : Bool :=
  e.toNat % 4 == 3
    || (rangeFrom 0 8).any (fun j => e.getLsbD (8 + j) && 46 < bits e.toNat (16 + 6 * j + 5) (16 + 6 * j))

/-- A route of a group has become NONE (R280): the operations of the device bound for it fail, responses and the flits of other
devices are dropped. (DEDUCED, log 36.) -/
def State.routeGone (s : State) (group : Nat) : State :=
  if group = groupOf s.fabid then s
  else
    let gone (o : Out) : Bool := groupOf o.op.dst == group
    let os := s.out.filter gone
    let s := { s with
      out := s.out.filter (fun o => !gone o)
      transit := s.transit.filter (fun f => groupOf f.dst != group) }
    os.foldl State.failOut s

/-- Writes a route entry. -/
def State.writeRoute (s : State) (die group : Nat) (e : Dword) : State :=
  let was := s.route die group
  let s := { s with routes := tabSet 0 s.routes (64 * die + group) e }
  if e.toNat % 4 == 0 && was % 4 != 0 then s.routeGone group else s

/-- RT_WR (R351). -/
def opRtWr : Op :=
  { sysOp [0x310] (fun a => routeBad a.x1) with
    fin := fun a s =>
      let g := a.val.toNat % 64
      let dies := if a.val.getLsbD 9 then [0, 1] else [bits a.val.toNat 8 8]
      dies.foldl (fun s d => s.writeRoute d g a.x1) s }
/-- RT_WR: issue of its slot. -/
def execRtWr (m : Mv) (s : State) : Host.Outcome State Fault Refusal :=
  issueTrigger m 0x329 opRtWr s

/-! ## Channels (R352, R203) -/

/-- A channel-table entry from its 64 bytes (Table 6.15), as kernel load writes it (Table 22.4, R471): a send end holds DEPTH
credits (R169). -/
def chanOf (b : List Byte) : Chan :=
  let w0 := fieldAt b 0 8
  let w1 := fieldAt b 8 8
  let w2 := fieldAt b 16 8
  let w3 := fieldAt b 24 8
  let w4 := fieldAt b 32 8
  { kind := BitVec.ofNat 2 (bits w0 63 62), peer := BitVec.ofNat 11 (bits w0 60 50), pcore := BitVec.ofNat 7 (bits w0 49 43)
    pctx := BitVec.ofNat 2 (bits w0 42 41), lcore := BitVec.ofNat 7 (bits w0 40 34), lctx := BitVec.ofNat 2 (bits w0 33 32)
    depth := BitVec.ofNat 16 (bits w0 31 16)
    credit := if bits w0 63 62 == 1 then BitVec.ofNat 16 (bits w0 31 16) else BitVec.ofNat 16 w0
    elines := BitVec.ofNat 6 (bits w1 37 32), buf := BitVec.ofNat 30 w1
    next := BitVec.ofNat 11 (bits w2 63 53), prev := BitVec.ofNat 11 (bits w2 52 42), op := BitVec.ofNat 4 (bits w2 41 38)
    type := BitVec.ofNat 4 (bits w2 37 34), chunk := BitVec.ofNat 32 w2
    seq := BitVec.ofNat 24 (bits w3 63 40), step := BitVec.ofNat 16 (bits w3 39 24), nstep := BitVec.ofNat 16 (bits w3 23 8)
    rtail := BitVec.ofNat 32 (bits w4 63 32), rhead := BitVec.ofNat 32 w4 }

/-- The same as `ch.wr` writes it: SEQ, STEP, RTAIL and RHEAD are 0 (R352). -/
def Chan.rewritten (e : Chan) : Chan := { e with seq := 0, step := 0, rtail := 0, rhead := 0 }

/-- A ring image or declaration whose OP or TYPE is not allowed (R204). -/
def ringBad (e : Chan) : Bool := e.kind == 3 && !opTypeOk e.op.toNat e.type.toNat

/-- An operation on its way to entry n of this device: a contribution, an element or a credit. -/
def State.toChan (s : State) (n : Nat) (q : RemoteOp) : Bool :=
  (q.op == opCollective && (if q.rop == ropSetup then q.auxop.toNat % 2048 == n else bits q.tag.toNat 58 48 == n))
    || (q.isElement && s.mirror 2 q == some n)
    || (q.op == opWrite && q.stream == 0 && q.rop == ropCredit && s.mirror 1 q == some n)

/-- An operation that waits or travels for entry n: one that it sent, one of this device bound for it, or the acknowledgement
of a contribution to it that has not left (R468). -/
def State.outOfChan (s : State) (n : Nat) (o : Out) : Bool :=
  match o.kind with
  | .element k _ | .credit k | .setup k | .collective k => k == n || (o.op.dst == s.fabid && s.toChan n o.op)
  | .response =>
    let e := s.chan n
    e.kind == 3 && o.op.op == opAck && o.op.dst == e.prev
      && (if o.op.tag.getLsbD 63 then bits o.op.tag.toNat 58 48 == n else e.setupTags.contains o.op.tag && o.op.auxop.toNat == n)
  | _ => false

/-- The channel has an element, credit or contribution in flight, or a command that names it is queued or running (R203,
R468). -/
def State.chanBusy (s : State) (n : Nat) : Bool :=
  s.out.any (s.outOfChan n) || s.inbox.any (s.toChan n) || s.gather.any (fun g => s.toChan n g.op)
    || (s.chan n).running.isSome
    || s.cores.any (fun p => allCtxs.any (fun x =>
      (tabGet [] p.2.queues (4 * 11 + x)).any (fun m => m.op.channel == n)))

/-- CH_WR (R352): the image is read after what the context has before it at that address (R129). -/
def opChWr : Op :=
  let chan (a : Arg) : Nat := a.val.toNat % 2048
  let image (a : Arg) : Chan := (chanOf (a.pre.coreRead a.core a.x1.toNat 64)).rewritten
  { sysOp [0x310] (fun _ => false) with
    traps := fun a => addrCause a.pre a.x1.toNat 64 false
    gate := fun a => if a.cx.acquiring || a.cx.lateAt a.x1.toNat 64 then .hold else .go
    act := fun a s =>
      let ok := !ringBad (image a) && !s.chanBusy (chan a)
      let s := s.syResult a 2 (if ok then stDone else stRefused)
      let s := s.consumeRead a.core a.ctx a.x1.toNat 64
      if ok then s.writeChan (chan a) (image a) else s }
/-- CH_WR: issue of its slot. -/
def execChWr (m : Mv) (s : State) : Host.Outcome State Fault Refusal :=
  issueTrigger m 0x32A opChWr s

/-! ## Link service and performance counters (R353, R354) -/

/-- LNK_SVC (R353). -/
def opLnkSvc : Op :=
  { sysOp [] (fun _ => false) with
    act := fun a s =>
      let c := a.val.toNat % 128
      { s with svc := tabSet none s.svc (dieOf c) (if a.val.getLsbD 9 then some (c, bits a.val.toNat 8 7) else none) } }
/-- LNK_SVC: issue of its slot. -/
def execLnkSvc (m : Mv) (s : State) : Host.Outcome State Fault Refusal :=
  issueTrigger m 0x32B opLnkSvc s

/-- PERF_CLR (R354, R210): it acts after the samples and increments of its cycle. -/
def opPerfClr : Op :=
  { sysOp [] (fun _ => false) with
    fin := fun a s => s.modCore a.core (fun k =>
      let which := (rangeFrom 0 4).filter (fun i => a.val.getLsbD i)
      { k with
        pmc := which.foldl (fun t i => tabSet 0 t i 0) k.pmc
        pmcSet := which.foldl (fun m i => m ||| (1 <<< i)) k.pmcSet
        capW1c := if a.val.getLsbD 8 then
            k.capW1c ++ (0x179 :: 0x17A :: rangeFrom 0x080 32).map (fun n => (n, BitVec.allOnes 32))
          else k.capW1c }) }
/-- PERF_CLR: issue of its slot. -/
def execPerfClr (m : Mv) (s : State) : Host.Outcome State Fault Refusal :=
  issueTrigger m 0x32C opPerfClr s

end Sys2Proof.Machine
end

