-- ==== Sys2Proof/Machine/Arrivals.lean ====
section
/-!
DEFINITION. The walk unit (R105) and the arrival port: commit of remote operations (R142-R146, R168), acknowledgements
and refusals (R420), remote reads (R427), unreachable operations (R276), and the host's answers (R263).
-/

namespace Sys2Proof.Machine

/-! ## Walks (R105, R106) -/

/-- A `tlb.inv` of the page that a context still completes was issued after the walk began (R345). -/
def State.walkStale (s : State) (w : Walk) : Bool :=
  s.cores.any (fun p => p.2.ctxs.any (fun q => q.2.completing.any (fun d => match d with
    | .tlbInv code va ws _ => ws.contains (w.die, w.va, w.asked) && invCovers code va.toNat w.va.toNat
    | _ => false)))

/-- TLB_WALK (R105): a walk that a die asked for returns its leaf to the TLB, or notes the invalid entry it found; walks that a
live service holds wait (R285). A walk that stood before a `tlb.inv` of its page returns, and leaves no entry
(R345): who asked walks anew. (DESIGN CHOICE, log 5.) -/
def execTlbWalk (die : Nat) (va : BitVec 64) (s : State) : Host.Outcome State Fault Refusal :=
  let mine (w : Walk) : Bool := w.die == die && w.va.toNat / 0x10000 == va.toNat / 0x10000
  .next (match s.walks.find? mine with
    | none => s
    | some w =>
      if s.walkHeld w.va.toNat then s
      else
      let s := { s with walks := s.walks.filter (fun w => !mine w) }
      let s := match w.core with
        | some c => s.sample c 0x09 (s.cycle - w.asked).toNat
        | none => s
      match s.walk w.va.toNat with
      | some (level, e) => if s.walkStale w then s else s.tlbInsert die w.va.toNat level e
      | none => { s with walkMiss := s.walkMiss ++ [(die, w.va)] })

/-! ## Commit (R142, R146) -/

/-- Key of the expected number of a source and stream (R142). -/
def commitKey (q : RemoteOp) : Nat :=
  ((q.src.toNat * 128 + q.score.toNat) * 4 + q.sctx.toNat) * 32 + q.stream.toNat

/-- Two operations come from one source on one stream. -/
def RemoteOp.sameStream (a b : RemoteOp) : Bool := commitKey a == commitKey b

/-- Die whose arrival port commits a stream (R142). -/
def streamDie (q : RemoteOp) : Nat := q.stream.toNat % 2

/-- What an arrival asks of memory (R424-R426). (DEDUCED, log 23.) (DESIGN CHOICE, log 24.) -/
def arrivalOp (q : RemoteOp) : LogOp :=
  if q.op == opReduce then .reduce (q.rop.extractLsb' 0 4) (BitVec.ofNat 4 (bits q.rop.toNat 6 4))
  else if q.op == opAtomic then
    .atomic (atomicOf (q.rop.toNat % 16)) (q.data.length == 4) (dwordOf q.data) q.auxop
  else .store

/-- Pieces of an arrival's data behind the first `got` bytes, by page: address, bytes, and places of the poisoned ones. -/
def arrivalPieces (q : RemoteOp) (got : Nat) : List (Nat × List Byte × List Nat) :=
  (piecesOf (q.vaddr.toNat + got) (q.data.length - got)).map (fun p =>
    let at_ := p.1 - q.vaddr.toNat
    (p.1, (q.data.drop at_).take p.2, cutPlaces q.poison at_ p.2))

/-- The first n bytes of pieces. -/
def takePieces : Nat → List (Nat × List Byte × List Nat) → List (Nat × List Byte × List Nat)
  | _, [] => []
  | n, p :: t => if n = 0 then [] else (p.1, p.2.1.take n, cutPlaces p.2.2 0 n) :: takePieces (n - p.2.1.length) t

/-- Bytes of pieces for which a log has room. -/
def piecesFit : Nat → List (Nat × List Byte × List Nat) → Nat
  | _, [] => 0
  | room, p :: t =>
    if logSlots p.2.1.length ≤ room then p.2.1.length + piecesFit (room - logSlots p.2.1.length) t else 256 * room

/-- Entries of other arrivals of a source and stream in the arrival port's log. -/
def State.streamEntries (s : State) (q : RemoteOp) : List LogEntry :=
  s.sideLogs.filter (fun e => match e.arrival with
    | some p => p.sameStream q && p != q && e.unit == .arrival (streamDie q)
    | none => false)

/-- A later arrival of a source and stream with an entry in the arrival port's log goes into the log behind it (R108). -/
def State.streamLogged (s : State) (q : RemoteOp) : Bool := !(s.streamEntries q).isEmpty

/-- The access of an arrival at its arrival port. -/
def State.arrivalAccess (s : State) (q : RemoteOp) : Access :=
  { die := streamDie q, log := .arrival (streamDie q), core := q.score.toNat, ctx := q.sctx.toNat, issuer := 2
    arrival := some q, foreign := q.src != s.fabid }

/-- Performs one piece, or enters it into the log behind the earlier arrivals of its stream, because of migration where one of
them stands there so (R114): the state, the old bytes where it was performed, and the places of poisoned ones. -/
def State.commitPiece (q : RemoteOp) (logged : Bool) (acc : State × List Byte × List Nat)
    (p : Nat × List Byte × List Nat) : State × List Byte × List Nat :=
  let s := acc.1
  let a := s.arrivalAccess q
  if logged then (s.logWrite a p.1 (arrivalOp q) p.2.1 p.2.2 ((s.streamEntries q).any (·.migrating)) false, acc.2)
  else match s.vStore a p.1 (arrivalOp q) p.2.1 p.2.2 with
    | .done s old ps => (s, acc.2.1 ++ old, acc.2.2 ++ ps.map (· + acc.2.1.length))
    | .logged s => (s, acc.2)
    | .host pa => match s.hostWindow pa p.2.1.length with
      | some (w, h) =>
        (s.sendHost (.arrivalWrite q false) w.qp (some (BitVec.ofNat 64 p.1)) (.rdmaWrite w.qp w.key h p.2.1), acc.2)
      | none => acc
    | _ => acc

/-- What a commit comes to. -/
inductive Commit where
  | done (s : State)
  /-- A walk is under way, or the side log is full (R110): the arrival stays. -/
  | waits (s : State)

/-- The part of an arrival that its port's log has taken already. -/
def State.partOf (s : State) (q : RemoteOp) : PortPart :=
  (s.portParts.find? (fun p => p.op == q)).getD { op := q, got := 0, failed := false }

/-- Commits all that is left of an arrival (R142). -/
def State.commitAll (s : State) (q : RemoteOp) (logged : Bool) : State :=
  let ps := arrivalPieces q (s.partOf q).got
  let s := { s with portParts := s.portParts.filter (fun p => p.op != q) }
  let r := (if ps.isEmpty && logged then [(q.vaddr.toNat, [], [])] else ps).foldl (State.commitPiece q logged) (s, [], [])
  r.1.partDone q r.2.1 r.2.2

/-- Commits the next bytes of an arrival, as many as the log has room for (R110). (DESIGN CHOICE, log 71.) -/
def State.commitPart (s : State) (q : RemoteOp) (logged : Bool) (fit : Nat) : State :=
  let p := s.partOf q
  let s := ((takePieces fit (arrivalPieces q p.got)).foldl (State.commitPiece q logged) (s, [], [])).1
  { s with portParts := s.portParts.filter (fun p => p.op != q) ++ [{ p with got := p.got + fit }] }

/-- Performs an arrival in the destination's V-space, or enters it into the side log (R142, R108): every page is looked at
first, so that a permission or region failure has no effect (R104, R115). Where the log takes a first part of it only, the
arrival stays with the rest (R110); an arrival of which a part has failed meanwhile is over. (DESIGN CHOICE, log 71.) -/
def State.commitOp (s : State) (q : RemoteOp) : Commit :=
  let p := s.partOf q
  let ps := arrivalPieces q p.got
  let u : LogUnit := .arrival (streamDie q)
  if p.failed then .done { s with portParts := s.portParts.filter (fun p => p.op != q) }
  else if s.logFull u then .waits s
  else if s.streamLogged q then
    let fit := piecesFit (s.logRoom u) ps
    if p.got + fit < q.data.length then .waits (s.commitPart q true fit) else .done (s.commitAll q true)
  else if 2 ^ 52 < q.vaddr.toNat + q.data.length then .done (s.failArrival q)
  else match State.probeWrites (s.arrivalAccess q) (arrivalOp q) (ps.map (fun p => (true, p.1, p.2.1.length))) (s.logRoom u) 0 s with
    | .go => .done (s.commitAll q false)
    | .fails _ _ => .done ({ s.failParts q with portParts := (s.failParts q).portParts.filter (fun p => p.op != q) })
    | .waits s => .waits s
    | .full _ fit => .waits (if fit = 0 then s else s.commitPart q false fit)

/-- Raises the expected number of a source and stream. -/
def State.raiseExpected (s : State) (q : RemoteOp) : State :=
  { s with expected := tabSet 0 s.expected (commitKey q) (tabGet 0 s.expected (commitKey q) + 1) }

/-- Commits the held entries that come next, one after the other; one that has to wait goes back to the arrivals (R142). -/
def State.commitHeld (q : RemoteOp) : Nat → State → State
  | 0, s => s
  | fuel + 1, s =>
    match s.window.find? (fun h => h.sameStream q && h.seq == tabGet 0 s.expected (commitKey q)) with
    | none => s
    | some h =>
      let s := { s with window := s.window.erase h }
      match s.commitOp h with
      | .waits s => { s with inbox := s.inbox ++ [h] }
      | .done s => State.commitHeld q fuel (s.raiseExpected h)

/-- An arrival on a stream is judged by its number (Table 4.3). (DESIGN CHOICE, log 75.) -/
def State.judgeArrival (s : State) (idx : Nat) (q : RemoteOp) : State :=
  let gone : State := { s with inbox := s.inbox.eraseIdx idx }
  let stay (w : State) : State := { w with inbox := s.inbox }
  if q.stream = 0 then
    match gone.commitOp q with
    | .waits w => stay w
    | .done s => s
  else
    let d := (q.seq - tabGet 0 s.expected (commitKey q)).toNat
    if d = 0 then
      match gone.commitOp q with
      | .waits w => stay w
      | .done s => State.commitHeld q 128 (s.raiseExpected q)
    else if d ≤ 127 then
      if s.window.any (fun h => h.sameStream q && h.seq == q.seq) then gone
      else if (s.window.filter (fun h => h.stream == q.stream)).length < 128 then
        { gone with window := gone.window ++ [q] }
      else gone.refuse q
    else if d < 2 ^ 23 then gone.refuse q
    else if s.sideLogs.any (fun e => e.arrival == some q) || s.hostPending.any (fun r => r.who.writes q) then gone
    else gone.respond opAck 0 q []

/-- A remote write, reduction or atomic, no channel traffic. -/
def isStreamOp (q : RemoteOp) : Bool :=
  q.op == opReduce || q.op == opAtomic || (q.op == opWrite && (q.stream != 0 || q.rop == 0))

/-- STREAM_ARRIVAL (R142-R146, R168, R424-R426). -/
def execStreamArrival (idx : Nat) (s : State) : Host.Outcome State Fault Refusal :=
  .next (match s.inbox[idx]? with
    | some q => if isStreamOp q && !s.portStalled (if streamDie q = 0 then 0 else 16) then s.judgeArrival idx q else s
    | none => s)

/-! ## Answers at the source -/

/-- REFUSED_RESEND (R168): a refused operation leaves again, 256 ns after its refusal and behind the earlier operations of its
entry (R169, R468). -/
def execRefusedResend (idx : Nat) (s : State) : Host.Outcome State Fault Refusal :=
  .next (match s.out[idx]? with
    | some o => match o.stage with
      | .refused t =>
        if t.toNat ≤ s.cycle.toNat && !State.behind (s.out.take idx) o then
          if o.op.dst = s.fabid then
            { s with out := s.out.set idx { o with stage := .sent }, inbox := s.inbox ++ [o.op] }
          else { s with out := s.out.set idx { o with stage := .port 0 } }
        else s
      | _ => s
    | none => s)

/-- Memory address of a remote value: that of this device's HBM for its own ID, else the V-address, as far as the source knows
it. (DESIGN CHOICE, log 25.) -/
def State.remotePa (s : State) (q : RemoteOp) : Nat :=
  if q.dst = s.fabid then ((s.walk q.vaddr.toNat).map (fun e => leafPa e.2 e.1 q.vaddr.toNat)).getD q.vaddr.toNat
  else q.vaddr.toNat

/-- The outgoing operation that a response answers. -/
def State.answered (s : State) (q : RemoteOp) : Option Out := s.out.find? (fun o => o.answers q)

/-- An outgoing operation is over. -/
def State.dropOut (s : State) (o : Out) : State := { s with out := s.out.erase o }

/-- The command that an outgoing operation performs. -/
def State.outCmd (s : State) (o : Out) : Option Cmd :=
  match o.kind with
  | .channel ch id | .read ch id => (s.xfer o.core ch id).map (·.cmd)
  | _ => none

/-- A remote value that a context consumes is poisoned: the record names its address in the peer's V-space. -/
def State.endRemotePoison (s : State) (o : Out) : State :=
  s.endCtx o.core o.ctx (eccRecord .hbm o.core o.ctx (s.remotePa o.op))

/-- A commit acknowledgement of a copy-channel operation (R420, R426, R74): its command is finished, the old value of an
atomic lands, a reduction or atomic gives its effect mark; a poisoned old value ends the context (R100). (DEDUCED, log 26.) -/
def State.commitAcked (s : State) (o : Out) (ch : Nat) (id : BitVec 32) (data : List Byte) (poison : List Nat) : State :=
  let s := (s.sample o.core 0x08 (s.cycle - o.issued).toNat).event o.core 0x12 1
  let s := s.commitDone o.core o.ctx o.op.stream o.op.dst
  let s := match s.outCmd o with
    | some cmd => match cmd.op with
      | .ratom _ _ _ w _ =>
        let s := s.performed cmd true
        if !ctlRet w then s
        else if poison.isEmpty then s.landEngine o.core o.ctx cmd.serial (dwordOf data)
        else s.endRemotePoison o
      | .rred .. => s.performed cmd true
      | _ => s
    | none => s
  s.modXfer o.core ch id (fun x => { x with stage := .finished })

/-- COMMIT_ACKNOWLEDGEMENT (R420, R145): the acknowledgement of an operation reaches its source; one that answers nothing is
discarded (R275). -/
def execCommitAcknowledgement (idx : Nat) (s : State) : Host.Outcome State Fault Refusal :=
  .next (match s.takeInbox idx (fun q => q.op == opAck) with
    | none => s
    | some (q, s) => match s.answered q with
      | none => s
      | some o =>
        let s := s.dropOut o
        if q.rop == ropFailed then s.failOut o
        else match o.kind with
          | .channel ch id => s.commitAcked o ch id q.data q.poison
          | .element _ serial =>
            s.modCtx o.core o.ctx (fun cx =>
              let live := cx.live.filter (fun l => l.1 != serial)
              { cx with live := live, fences := cx.fences.filter (fun f => live.any (fun l => l.1 < f.serial)) })
          | _ => s)

/-- Reads of a remote read request, page by page (R427), behind the bytes it has: all bytes and the places of
poisoned ones, or what it waits for or fails by; what it has by then goes with it. -/
def State.readPieces (s : State) (q : RemoteOp) : List (Nat × Nat) → List Byte → List Nat → Rd × List Byte × List Nat
  | [], bs, p => (.data s bs p, bs, p)
  | (va, n) :: t, bs, p =>
    match s.readSide (s.arrivalAccess q) true va n with
    | .data s b p' => s.readPieces q t (bs ++ b) (p ++ p'.map (· + bs.length))
    | r => (r, bs, p)

/-- What a remote read request still has to read. -/
def readRest (q : RemoteOp) (got : Nat) : List (Nat × Nat) :=
  (piecesOf q.vaddr.toNat q.auxop.toNat).filter (fun p => q.vaddr.toNat + got ≤ p.1)

/-- READ_REQUEST (R427, R112, R115): a remote read is served from its translated pages; one that a host window interrupts
stays until the host has answered (R263). -/
def execReadRequest (idx : Nat) (s : State) : Host.Outcome State Fault Refusal :=
  .next (match s.inbox[idx]? with
    | none => s
    | some q =>
      if q.op != opReadReq || s.hostPending.any (fun r => r.who == HostWho.arrival q) then s
      else
        let got : List Byte × List Nat := ((s.readGot.find? (fun g => g.1 == q)).map (·.2)).getD ([], [])
        let keep (w : State) (g : List Byte × List Nat) : State :=
          { w with readGot := w.readGot.filter (fun g => g.1 != q) ++ (if g.1.isEmpty then [] else [(q, g)]) }
        let gone (w : State) : State := { w with inbox := w.inbox.eraseIdx idx }
        let fini (w : State) : State := keep (gone w) ([], [])
        if 2 ^ 52 < q.vaddr.toNat + q.auxop.toNat then (fini s).failArrival q
        else match s.readPieces q (readRest q got.1.length) got.1 got.2 with
          | (.data w bs p, _, _) => (fini w).respond opReadData 0 q bs p
          | (.fails _ _, _, _) => (fini s).failArrival q
          | (.host w h, g) =>
            let va := q.vaddr.toNat + g.1.length
            let n := ((readRest q g.1.length).head?.map (·.2)).getD 0
            (keep s g).sendHost (.arrival q) w.qp (some (BitVec.ofNat 64 va)) (.rdmaRead w.qp w.key h n)
          | (.waits w, _, _) => w
          | (.held w, g) =>
            { gone (keep w g) with heldReads := s.heldReads ++ [(q, BitVec.ofNat 64 (q.vaddr.toNat + g.1.length))] }
          | (.full _, _, _) => s)

/-- Read data reaches its command (R427): it waits to be written locally, or lands in DST. -/
def State.readBack (s : State) (o : Out) (ch : Nat) (id : BitVec 32) (data : List Byte) (poison : List Nat) : State :=
  match s.xfer o.core ch id with
  | none => s
  | some x =>
    let s := s.sample o.core 0x03 (s.cycle - x.accepted).toNat
    if ctlDsp x.cmd.op.ctl == 2 then
      let s := if poison.isEmpty then s.landEngine o.core o.ctx x.cmd.serial (dwordOf data) else s.endRemotePoison o
      s.modXfer o.core ch id (fun x => { x with stage := .finished, counted := 8 })
    else s.modXfer o.core ch id (fun x => { x with stage := .waiting, buffer := data, poison := poison })

/-- READ_DATA (R427): data with no request behind it is dropped (R275). -/
def execReadData (idx : Nat) (s : State) : Host.Outcome State Fault Refusal :=
  .next (match s.takeInbox idx (fun q => q.op == opReadData) with
    | none => s
    | some (q, s) => match s.answered q with
      | none => s
      | some o =>
        let s := s.dropOut o
        if q.rop == ropFailed then s.failOut o
        else match o.kind with
          | .read ch id => s.readBack o ch id q.data q.poison
          | _ => s)

/-- 50 ms in cycles of 3.0 GHz (R276). -/
def unreachableCycles : Nat := 150000000

/-- OPERATION_UNREACHABLE (R276): not committed, accepted or answered 50 ms after its first flit left. -/
def execOperationUnreachable (idx : Nat) (s : State) : Host.Outcome State Fault Refusal :=
  .next (match s.out[idx]? with
    | some o => match o.firstSent with
      | some t =>
        if o.kind != OutKind.response && t.toNat + unreachableCycles ≤ s.cycle.toNat then (s.dropOut o).failOut o else s
      | none => s
    | none => s)

/-! ## The host's answers (R263) -/

/-- Bytes a transfer moves in all, where its pieces count them. -/
def Xfer.total (x : Xfer) : Nat :=
  match x.cmd.op with
  | .copy _ _ w _ => copyLen w
  | .rget .. => x.buffer.length
  | .copyTr8 .. | .copyTr16 .. | .copyNd .. => descTotal x.srcDesc * descElem x.srcDesc
  | _ => x.moved

/-- The host's answer reaches a transfer. -/
def Xfer.hostAnswer (x : Xfer) (read : Bool) (n : Nat) (data : List Byte) : Xfer :=
  if read then { x with stage := .waiting, buffer := x.buffer ++ data }
  else match x.cmd.op with
    | .rget .. => { x with stage := .waiting, moved := x.moved + n, counted := x.counted + n, wrote := 0 }.doneAt x.buffer.length
    | _ => { x with stage := .waiting, wrote := x.wrote + n }

/-- A host access of the device fails: its context ends with REMOTE.ERR, the record naming the V-address (R263, R251). A command
on a stream that has not been sent is uncommitted no more (R74). -/
def State.hostFailed (s : State) (r : HostReq) : State :=
  let lose (s : State) (c x : Nat) : State :=
    s.endCtx c x { causeRecord causeRemoteErr c x 0 with addr := r.va.getD 0 }
  match r.who with
  | .nobody => s
  | .xfer c ch id => match s.xfer c ch id with
    | some x =>
      let s := lose s c x.cmd.ctx
      let s := match x.cmd.op.stream with
        | some st => s.commitDone c x.cmd.ctx st x.cmd.op.dest
        | none => s
      s.modXfer c ch id (fun x => { x with stage := .finished, counted := 0 })
    | none => s
  | .loader c ring => match (s.core c).rings.find? (fun g => g.ring == ring) with
    | some g => (lose s c g.cmd.ctx).modRing c ring (fun g => { g with hostWait := none, ended := true })
    | none => s
  | .arrival q =>
    ({ s with inbox := s.inbox.erase q, readGot := s.readGot.filter (fun g => g.1 != q) } : State).failArrival q
  | .arrivalWrite q _ => s.failParts q
  | .spill c x => lose s c x
  | .replay c x _ => lose s c x
  | .refill qi =>
    let q := tabGet {} s.queues qi
    let s := match q.pushers with
      | (c, x) :: _ => lose s c x
      | [] => s
    { s with queues := tabSet {} s.queues qi { q with
        ovhead := q.ovhead + 1, pushers := q.pushers.tail, refillBuf := [], refillPoison := [], refillWait := false } }
  | .dispatcher pa => { s with hostData := s.hostData ++ [{ pa := pa, data := none, reader := none }] }
  | .post c x _ => lose s c x

/-- The host answers who waits. -/
def State.hostAnswered (s : State) (who : HostWho) (data : List Byte) : State :=
  match who with
  | .nobody => s
  | .xfer c ch id => s.modXfer c ch id (fun x => match x.stage with
    | .hostWait _ read n => x.hostAnswer read n data
    | _ => x)
  | .loader c ring => s.modRing c ring (fun r =>
    if r.hostWait.isSome then { r with hostWait := none, buffer := data } else r)
  | .arrival q =>
    let got := ((s.readGot.find? (fun g => g.1 == q)).map (·.2)).getD ([], [])
    { s with readGot := s.readGot.filter (fun g => g.1 != q) ++ [(q, got.1 ++ data, got.2)] }
  | .arrivalWrite q _ => s.partDone q [] []
  | .spill _ _ => s
  | .replay _ _ _ => s
  | .refill qi =>
    let q := tabGet {} s.queues qi
    { s with queues := tabSet {} s.queues qi { q with refillBuf := q.refillBuf ++ data, refillWait := false } }
  | .dispatcher pa => { s with hostData := s.hostData ++ [{ pa := pa, data := some data, reader := none }] }
  | .post c x pa => { s with hostData := s.hostData ++ [{ pa := pa, data := some data, reader := some (c, x) }] }

/-- HOST_RDMA_RESPONSE (R263): the answer to the oldest access of a queue pair; a NAK puts the pair in the error state.
(DEDUCED, log 55.) -/
def execHostRdmaResponse (q : QpId) (resp : HostResponse) (s : State) : Host.Outcome State Fault Refusal :=
  .next (match s.hostPending.find? (fun r => r.q == q) with
    | none => s
    | some r =>
      let s := { s with hostPending := s.hostPending.erase r }
      match resp with
      | .readData data => s.hostAnswered r.who data
      | .ack => s.hostAnswered r.who []
      | .nak =>
        ({ s with qpError := if s.qpError.contains q then s.qpError else s.qpError ++ [q] } : State).hostFailed r)

/-- Accesses on a queue pair in the error state fail (R263). (DEDUCED, log 55.) -/
def State.failQpErrors (s : State) : State :=
  let bad := s.hostPending.filter (fun r => s.qpError.contains r.q)
  if bad.isEmpty then s
  else
    let s := { s with hostPending := s.hostPending.filter (fun r => !s.qpError.contains r.q) }
    bad.foldl State.hostFailed s

end Sys2Proof.Machine
end

