-- ==== Sys2Proof/Machine/Context.lean ====
section
/-!
DEFINITION. Steps of contexts and cores: arrivals of long-latency values (R50, R82, R129), releases (R131), delivery of
pending causes (R247-R249), the timer (R344), the Dovetail (R178-R181), freeze cycles (R78), phases (R121-R127), error
checking (R92, R100, R218, R260), overflow refills (R164), acceptance of engine commands (R157).
-/

namespace Sys2Proof.Machine

/-! ## Waking (R39, R51, R158, R165, R202, R333) -/

/-- The condition a BLOCKED context waits for holds. `phase` and `halt` end by other steps. (DEDUCED, log 20.) -/
def State.unblocked (s : State) (c x : Nat) : Bool :=
  let cx := s.ctx c x
  match cx.block with
  | .no => false
  | .regs keys => !keys.any cx.isEmpty
  | .queueFull units => !units.any (fun u => s.queueFull c x u)
  | .tileReady t => (s.tile c t).state == .ready
  | .tileDecl t => (s.tile c t).state != .filling && (s.tile c t).state != .draining
  | .popEmpty k => match s.inq c k with
    | some qi => (tabGet {} s.queues qi).count != 0
    | none => true
  | .phase => false
  | .halt => false
  | b => s.waitHolds c b

/-- Wakes a BLOCKED context whose condition holds. (DEDUCED, log 20.) -/
def State.unblock (s : State) (c x : Nat) : State :=
  if (s.ctx c x).state == .blocked && s.unblocked c x then s.wakeCtx c x else s

/-! ## Long-latency accesses (R50, R82, R129) -/

/-- Access `i` of a context may be performed now: its mesh time has passed, and no earlier access of the context to one of
its locations is still to be performed (R129). (DESIGN CHOICE, log 5.) (DEDUCED, log 63.) -/
def State.lateReady (s : State) (c x i : Nat) : Option Late :=
  let ls := (s.ctx c x).late
  match ls[i]? with
  | some l =>
    if l.earliest.toNat ≤ s.cycle.toNat && (ls.take i).all (fun e => e.addrs.all (fun a => !l.addrs.contains a))
    then some l else none
  | none => none

/-- Access `i` of a context is over. -/
def State.dropLate (s : State) (c x i : Nat) : State :=
  s.modCtx c x (fun cx => { cx with late := cx.late.eraseIdx i })

/-- A value arrives: it is written into its register, whose bit becomes full (R50). -/
def State.landLate (s : State) (c x : Nat) (d : Option LateDst) (v : Line) : State :=
  match d with
  | none => s
  | some d =>
    let s := s.modCtx c x (fun cx =>
      let cx := match d with
        | .sreg n sys => cx.putS (sKey sys n) (low64 v)
        | .vreg cl n mask => cx.writeV cl n mask v
      cx.setEmpty d.key false)
    s.unblock c x

/-- Lanes of a vector load, zero in the lanes it does not name. -/
def State.lanesOver (s : State) (ov : List Host.Cell) (lanes : List (Nat × Nat)) : Line :=
  mapLanes (fun l => match lanes.find? (fun p => p.1 == l) with
    | some p => BitVec.ofNat 32 (leNat (s.readOver ov p.2 4))
    | none => 0)

/-- The consumption of a poisoned word of which not every byte was taken at issue. -/
def State.consumeOver (s : State) (c x : Nat) (ov : List Host.Cell) (a n : Nat) : State :=
  if (rangeFrom a n).all (fun i => ov.any (fun p => p.1 == i)) then s else s.consume c x a n

/-- LONG_LATENCY_ARRIVAL (R50, R82, R368, R371): the value of access `idx` arrives; poisoned data end the context (R260). -/
def execLongLatencyArrival (core ctx idx : Nat) (s : State) : Host.Outcome State Fault Refusal :=
  .next (match s.lateReady core ctx idx with
    | none => s
    | some l =>
      let gone := s.dropLate core ctx idx
      let lat := (s.cycle - l.issued).toNat
      match l.kind with
      | .load a n ov =>
        ((gone.sample core 0x01 lat).landLate core ctx l.dst (ofDword (dwordOf (s.readOver ov a n)))).consumeOver
          core ctx ov a n
      | .vload ls ov =>
        ls.foldl (fun s p => s.consumeOver core ctx ov p.2 4)
          ((gone.sample core 0x01 lat).landLate core ctx l.dst (s.lanesOver ov ls))
      | .amo op a w x e =>
        let p := gone.amoPerform op a w x e
        (p.1.landLate core ctx l.dst (ofDword p.2)).consume core ctx a (if w then 4 else 8)
      | .value v => gone.landLate core ctx l.dst v
      | _ => s)

/-- MESH_STORE_PERFORMED (R129, R140): a plain store or a barrier operation of another slice is performed at its bank; a
word that has become a barrier word meanwhile is left alone (Table 3.3). -/
def execMeshStorePerformed (core ctx idx : Nat) (s : State) : Host.Outcome State Fault Refusal :=
  .next (match s.lateReady core ctx idx with
    | none => s
    | some l =>
      let gone := s.dropLate core ctx idx
      match l.kind with
      | .store cells => match cells with
        | [] => gone
        | (a, _) :: _ => gone.sWriteEngine core a (cells.map (·.2))
      | .bar op a v =>
        let t := gone.barPerform op a v
        if 2 ≤ op then t.consume core ctx a 8 else t
      | _ => s)

/-! ## Releases and fences (R131, R145, R345) -/

/-- What a completed release lets happen (R370-R372), in its own place in program order. -/
def State.afterRelease (s : State) (c x : Nat) (a : After) (order : Nat) : State :=
  match a with
  | .nothing => s
  | .store addr n data => s.storeImmediate c x addr (leBytes data.toNat n) order
  | .amo op addr w v e dst sys acq => s.amoStart c x op addr w v e (lateS sys dst) acq order
  | .barArr addr v => s.barStart c x 3 addr v order

/-- The oldest operation that a context completes is done (R131, R339, R345): a release; `fence.st`, once its streams are
committed and no write of the context waits for a migration (R114, R145); `tlb.inv`, once the walks and the host accesses
through removed entries that were under way have ended. (DEDUCED, log 65.) -/
def State.operationDone (s : State) (c x : Nat) (o : Completing) : Bool :=
  match o with
  | .release scope _ order => s.releaseDone c x scope order
  | .fenceSt m order => s.streamsDone c x m order && !s.logsMigrate c x
  | .tlbInv _ _ ws hs =>
    ws.all (fun p => !s.walks.any (fun w => w.die == p.1 && w.va == p.2.1 && w.asked == p.2.2))
      && !s.hostPending.any (fun r => hs.contains r.id)
  | .taskDone => false

/-- What follows the completion: the access of a release; a translation made after a `tlb.inv` reads the page table afresh
(R345). -/
def State.completed (s : State) (c x : Nat) (o : Completing) : State :=
  match o with
  | .release _ a order => s.afterRelease c x a order
  | .tlbInv code va _ _ => { s.tlbRemove code va.toNat with walkMiss := [] }
  | _ => s

/-- The context has completed an operation: where it was the last, and a pre-emption has asked it to stop, a halted context
stands at its boundary now (R248, R335). -/
def Ctx.completedOne (cx : Ctx) (rest : List Completing) : Ctx :=
  let cx := { cx with completing := rest }
  { cx with stopped := cx.stopped || (cx.preempt && cx.atBoundary && !cx.seatedNow) }

/-- RELEASE_COMPLETE (R131, R339, R345): the oldest operation a context completes is done, and with the last of them its
bundles issue again. (DEDUCED, log 65.) -/
def execReleaseComplete (core ctx : Nat) (s : State) : Host.Outcome State Fault Refusal :=
  .next (match (s.ctx core ctx).completing with
    | o :: rest =>
      if s.operationDone core ctx o then (s.modCtx core ctx (fun cx => cx.completedOne rest)).completed core ctx o
      else s
    | [] => s)

/-! ## Causes and the timer (R247-R249, R344) -/

/-- TRAP_DELIVERY (R247-R249): the first pending cause of a context is delivered before its next user-plane bundle. -/
def execTrapDelivery (core ctx : Nat) (s : State) : Host.Outcome State Fault Refusal :=
  let cx := s.ctx core ctx
  .next (
    if s.canIssue core ctx && !cx.modeSys && cx.completing.isEmpty && !cx.doneIssued && !cx.preempt then
      match cx.firstPending with
      | some t =>
        (s.modCtx core ctx (fun cx => { cx with pend := tabSet none cx.pend t.cause.toNat none })).deliver core ctx t
      | none => s
    else s)

/-- TIMER_EXPIRY (R344). -/
def execTimerExpiry (core ctx : Nat) (s : State) : Host.Outcome State Fault Refusal :=
  .next (match (s.ctx core ctx).timer with
    | some d =>
      if d.toNat ≤ s.cycle.toNat then
        (s.modCtx core ctx (fun cx => { cx with timer := none })).pendCause core ctx causeTimer
          (trapInfoWord none 0 (s.cycle.toNat % 2 ^ 52))
      else s
    | none => s)

/-! ## The Dovetail (R178-R181) -/

/-- Seated contexts of a core, lower number first. -/
def Core.seats (k : Core) : List Nat := allCtxs.filter (fun x => (k.ctx x).seatedNow)

/-- READY contexts without a seat. -/
def Core.readyCtxs (k : Core) : List Nat :=
  allCtxs.filter (fun x => (k.ctx x).state == .ready && !(k.ctx x).seatedNow && !(k.ctx x).stopped)

/-- A rotation asked of a context that has left its seat meanwhile is over (R179). -/
def Core.rotation (k : Core) : Option Nat := k.rotate.filter (fun x => (k.ctx x).seatedNow)

/-- DOVETAIL_SEAT (R178): a free seat goes to the context READY the longest, ties to the lower number. -/
def execDovetailSeat (core : Nat) (s : State) : Host.Outcome State Fault Refusal :=
  .next (
    let k := s.core core
    let s := if k.rotate == k.rotation then s else s.modCore core (fun k => { k with rotate := k.rotation })
    if 2 ≤ k.seats.length then s
    else match minBy (fun x => (k.ctx x).readySince.toNat) k.readyCtxs with
      | some x => s.modCtx core x (fun cx => { cx with
          state := if cx.modeSys then .system else .seated, seatedNow := true, seatedSince := s.cycle })
      | none => s)

/-- Cycles that a READY context waits before it forces a rotation (R179). -/
def rotationCycles : Nat := 1024

/-- A READY context forces a rotation (R179). -/
def Core.rotationDue (k : Core) (now : Dword) : Bool :=
  2 ≤ k.seats.length && k.readyCtxs.any (fun x => (k.ctx x).readySince.toNat + rotationCycles ≤ now.toNat)

/-- DOVETAIL_ROTATION (R179): the longer-seated context is to give up its seat after its next bundle; of two seated in one
cycle the lower-numbered one. (DESIGN CHOICE, log 77.) -/
def execDovetailRotation (core : Nat) (s : State) : Host.Outcome State Fault Refusal :=
  .next (
    let k := s.core core
    if k.rotationDue s.cycle then
      if k.rotation.isSome then s
      else s.modCore core (fun k => { k with rotate := minBy (fun x => (k.ctx x).seatedSince.toNat) k.seats })
    else if k.rotate.isSome then s.modCore core (fun k => { k with rotate := none })
    else s)

/-- Refusals after which the roles are swapped (R181). -/
def swapRefusals : Nat := 256

/-- DOVETAIL_ROLE_SWAP (R181): the next cycle in which both contexts can issue has their roles swapped. -/
def execDovetailRoleSwap (core : Nat) (s : State) : Host.Outcome State Fault Refusal :=
  .next (if swapRefusals ≤ (s.core core).refusals then s.modCore core (fun k => { k with swapRoles := true }) else s)

/-! ## Freeze cycles (R78) -/

/-- Sum of the last 32 cycles' weights. -/
def Core.weightSum (k : Core) : Nat := (k.weights.take 32).foldl (· + ·) 0

/-- FREEZE_CYCLE (R78): the sum at the end of the last cycle exceeds PWRLIM.LIMIT, and this cycle, in which nothing has
issued yet, is a freeze cycle. -/
def execFreezeCycle (core : Nat) (s : State) : Host.Outcome State Fault Refusal :=
  .next (
    let k := s.core core
    if k.frozen || k.weightNow != 0 || k.weightSum ≤ k.pwrlim.toNat then s
    else (s.modCore core (fun k => { k with frozen := true, frzcnt := k.frzcnt + 1 })).event core 0x05 1)

/-! ## Phases (R121-R127) -/

/-- Members of the phase group of a core, in ascending order: group 0 is the core alone (R121). -/
def State.phaseMembers (s : State) (c : Nat) : List Nat :=
  let g := (s.core c).phaseGroup
  if g = 0 then [c] else allCores.filter (fun d => (s.core d).phaseGroup == g)

/-- Everything that a core has performed is performed for every member of its group (R123, R127): no access of its contexts
to other slices, no release and no logged write is open. (DEDUCED, log 47.) -/
def State.coreSettled (s : State) (c : Nat) : Bool :=
  allCtxs.all (fun x =>
    let cx := s.ctx c x
    !cx.late.any Late.isAccess && cx.completing.isEmpty && !s.logsHold c x)

/-- A core has arrived: each context has issued `phase`, or is IDLE, or is DEAD (R122). -/
def Core.phaseArrived (k : Core) : Bool :=
  allCtxs.all (fun x =>
    let cx := k.ctx x
    cx.state == .idle || cx.state == .dead || cx.block == .phase)

/-- The core has arrived: sample 0x05, once for the phase (R221), whatever a context placed on it later does before the
opening. (DESIGN CHOICE, log 88.) -/
def State.sampleArrival (s : State) (c : Nat) : State :=
  if (s.core c).arrived then s
  else (s.sample c 0x05 (s.core c).occ).modCore c (fun k => { k with arrived := true })

/-- The core arrives (R122): the sample is taken when the last of its contexts waits in `phase`; that of a core with none there
when its group opens. (DEDUCED, log 47.) (DESIGN CHOICE, log 88.) -/
def State.noteArrival (s : State) (c : Nat) : State :=
  let k := s.core c
  if k.phaseArrived && allCtxs.any (fun x => (k.ctx x).block == .phase) then s.sampleArrival c else s

/-- Something asks for an opening: a context waits in `phase`, or a core that is to move has lines to drain (R126).
(DEDUCED, log 47.) -/
def State.phaseAsked (s : State) (ms : List Nat) : Bool :=
  ms.any (fun d =>
    let k := s.core d
    allCtxs.any (fun x => (k.ctx x).block == .phase) || (k.move.isSome && !k.pwb.isEmpty))

/-- The opening for one member: its phase number rises and its arrived contexts become READY (R122); a move that its stores
have held takes effect from the next cycle on (R126). -/
def State.openMember (held : List Nat) (s : State) (c : Nat) : State :=
  let s := s.modCore c (fun k => { k with
    phase := k.phase + 1, arrived := false
    move := k.move.map (fun m => if held.contains c then { m with notBefore := s.cycle + 1 } else m) })
  let s := s.event c 0x0F 1
  allCtxs.foldl (fun s x => if (s.ctx c x).block == .phase then s.wakeCtx c x else s) s

/-- PHASE_OPEN (R122, R89): every member has arrived, and what it performed before is performed (R127); the buffers drain in
ascending core order, the phase number rises, and the arrived contexts become READY. (DEDUCED, log 47.)
(DESIGN CHOICE, log 88.) -/
def execPhaseOpen (core : Nat) (s : State) : Host.Outcome State Fault Refusal :=
  .next (
    let s := s.noteArrival core
    let ms := s.phaseMembers core
    if ms.all (fun d => (s.core d).phaseArrived && s.coreSettled d) && s.phaseAsked ms then
      let held := ms.filter (fun d => !(s.core d).pwb.isEmpty)
      let s := ms.foldl State.sampleArrival s
      let s := ms.foldl State.drainPwb s
      ms.foldl (State.openMember held) s
    else s)

/-! ## Errors (R92, R100, R218, R260) -/

/-- ECC_CORRECTED (R218): a corrected error raises its counter and nothing else. -/
def execEccCorrected (unit : CorrectedAt) (s : State) : Host.Outcome State Fault Refusal :=
  .next (match unit with
    | .sram c => (s.modCore c (fun k => { k with ceSram := satAdd1 k.ceSram })).event c 0x0D 1
    | .istore c => (s.modCore c (fun k => { k with ceIstore := satAdd1 k.ceIstore })).event c 0x0D 1
    | .hbm stack => { s with ceHbm := tabSet 0 s.ceHbm stack (satAdd1 (tabGet 0 s.ceHbm stack)) })

/-- An uncorrectable error of a core is counted. -/
def State.countUe (s : State) (c : Nat) : State :=
  (s.modCore c (fun k => { k with ueCore := satAdd1 k.ueCore })).event c 0x0E 1

/-- ECC_UNCORRECTABLE (R260, Table 9.6): the fetching context ends, the data are marked poisoned, or the image is lost.
(DEDUCED, log 46.) -/
def execEccUncorrectable (place : ErrorPlace) (s : State) : Host.Outcome State Fault Refusal :=
  .next (match place with
    | .istoreFetch c x =>
      let s := s.countUe c
      let cx := s.ctx c x
      if cx.state == .seated || cx.state == .system then
        s.endCtx c x (eccRecord .istore c x (cx.plane cx.modeSys).pc.toNat)
      else s
    | .sliceWord a => (s.countUe (sliceOf a)).setPoison (a / 4 * 4) 4
    | .masRow c row =>
      (s.countUe c).modCore c (fun k => { k with masPoison := tabSet false k.masPoison (row % 256) true })
    | .phaseLine c tag =>
      (s.countUe c).modCore c (fun k => match k.pwbLine tag with
        | some l => { k with pwb := tabSet none k.pwb tag (some { l with poison := true }) }
        | none => k)
    | .imageSave c =>
      let s := s.countUe c
      match (s.core c).saving with
      | some v => s.failSave c v
      | none => s
    | .hbmByte pa =>
      let stack := bits pa 38 36
      ({ s with ueHbm := tabSet 0 s.ueHbm stack (satAdd1 (tabGet 0 s.ueHbm stack)) } : State).hSetPoison (pa / 32 * 32) 32)

/-! ## Overflow rings (R164) -/

/-- Bytes of a ring entry (R164). -/
def StageQ.entryBytes (q : StageQ) : Nat := 64 * (q.lines + 1)

/-- Pieces of the oldest ring entry that a refill still has to read. -/
def StageQ.refillRest (q : StageQ) : List (Nat × Nat) :=
  let va := q.ringAddr q.ovhead
  (piecesOf va q.entryBytes).filter (fun p => va + q.refillBuf.length ≤ p.1)

/-- Changes a stage queue. -/
def State.modQueue (s : State) (qi : Nat) (f : StageQ → StageQ) : State :=
  { s with queues := tabSet {} s.queues qi (f (tabGet {} s.queues qi)) }

/-- Reads the rest of a ring entry, page by page: a page it cannot map holds the queue (R112), a page it may not read loses the
entry (R104), a host window is asked (R263). -/
def State.refillRead (qi : Nat) : List (Nat × Nat) → State → State
  | [], s => s
  | (va, n) :: t, s =>
    let q := tabGet {} s.queues qi
    let p := q.pushers.headD (0, 0)
    match s.readSide (q.access p.1 p.2) true va n with
    | .data s bs poison => State.refillRead qi t (s.modQueue qi (fun q => { q with
        refillBuf := q.refillBuf ++ bs, refillPoison := q.refillPoison ++ poison.map (· + q.refillBuf.length) }))
    | .fails cause a => s.loseRefill qi cause a
    | .held s => s.modQueue qi (fun q => { q with refillHeld := some (BitVec.ofNat 64 va) })
    | .host w h =>
      (s.sendHost (.refill qi) w.qp (some (BitVec.ofNat 64 va)) (.rdmaRead w.qp w.key h n)).modQueue qi (fun q => { q with
        refillWait := true })
    | .waits s => s
    | .full _ => s

/-- The entry that has been read goes into the slot at TAIL (R164); poison goes with it (R100). -/
def State.refillSlot (s : State) (qi : Nat) : State :=
  let q := tabGet {} s.queues qi
  let s := s.sMove (sliceOf q.base.toNat) (q.slotAddr q.tail) (q.refillBuf.take (64 * q.lines)) (cutPlaces q.refillPoison 0 (64 * q.lines))
  s.modQueue qi (fun q => { q with
    vmask := tabSet 0 q.vmask (q.tail.toNat % 2 ^ q.log2d) (BitVec.ofNat 16 (fieldAt q.refillBuf (64 * q.lines) 2))
    tail := q.tail + 1, ovhead := q.ovhead + 1, pushers := q.pushers.tail, refillBuf := [], refillPoison := [] })

/-- OVERFLOW_REFILL (R164): the oldest ring entry goes into the free slot at TAIL. (DEDUCED, log 28.) -/
def execOverflowRefill (queue : Nat) (s : State) : Host.Outcome State Fault Refusal :=
  .next (
    let q := tabGet {} s.queues queue
    if q.ringCount = 0 || 2 ^ q.log2d ≤ q.count || q.refillWait || q.refillHeld.isSome then s
    else
      let s := State.refillRead queue q.refillRest s
      let r := tabGet {} s.queues queue
      if r.ovhead == q.ovhead && r.entryBytes ≤ r.refillBuf.length then s.refillSlot queue else s)

/-! ## Engine commands (R157) -/

/-- ENGINE_COMMAND_ACCEPT (R157): a unit of a core takes the command it can take, round-robin over the contexts. -/
def execEngineCommandAccept (core unit : Nat) (s : State) : Host.Outcome State Fault Refusal :=
  .next (match unit with
    | 0 => s.ceAccept core
    | 1 => s.meAccept core
    | 10 => s.gaAccept core
    | 11 => s.coAccept core
    | 13 => s.ttAccept core
    | 14 => s.ftAccept core
    | u =>
      if 2 ≤ u && u ≤ 9 then
        match s.nextCmd core u (s.cpReady core (u - 2)) with
        | some cmd => s.cpAccept cmd
        | none => s
      else s)

end Sys2Proof.Machine
end

