-- ==== Sys2Proof/Machine/Kernel.lean ====
section
/-!
DEFINITION. Work rings (R152-R156), kernels (R18-R20, R182-R194) and what a request of the host does: NOP, KLAUNCH, TASK,
CLOSE; completion of tasks, stages and kernels (R18, R21, R266).
-/

namespace Sys2Proof.Machine

/-! ## Requests (Tables 5.3 and 5.4) -/

/-- A work request. -/
structure Req where
  stage : Nat
  tag   : BitVec 16
  cq    : Bool
  type  : Nat
  addr  : Dword

/-- A request from its 64 bytes (Table 5.3). -/
def reqOf (b : List Byte) : Req :=
  let w := fieldAt b 0 8
  { stage := bits w 35 32, tag := BitVec.ofNat 16 (bits w 31 16), cq := bits w 8 8 == 1, type := bits w 7 0
    addr := BitVec.ofNat 64 (fieldAt b 8 8) }

/-- Completion statuses (Table 5.4). -/
def compOk : BitVec 8 := 0x00
def compBadReq : BitVec 8 := 0x01
def compBadKernel : BitVec 8 := 0x02
def compClosed : BitVec 8 := 0x03
def compNoKernel : BitVec 8 := 0x04
def compFailed : BitVec 8 := 0x05

/-- The completion record of a request (R155, R265): of success only where CQ asks for it. -/
def State.completion (s : State) (o : Origin) (code : BitVec 8) : State :=
  if code == compOk && !o.cq then s
  else s.sendRecord { dhseq := 0, kind := 0x01, code := code, tag := o.tag, rcount := o.count, rv := true
                      ring := BitVec.ofNat 6 o.ring }

/-- The completion record of a request that may have no ring. -/
def State.completes (s : State) (o : Option Origin) (code : BitVec 8) : State :=
  match o with
  | some o => s.completion o code
  | none => s

/-! ## The kernel descriptor and what it names (R19, R182) -/

/-- A V-space range that may be empty. -/
def State.vReadOpt (s : State) (va n : Nat) : Option (List Byte) := if n = 0 then some [] else s.vRead va n

/-- Entries of n bytes. -/
def entriesOf (b : List Byte) (n count : Nat) : List (List Byte) :=
  (rangeFrom 0 count).map (fun i => (b.drop (n * i)).take n)

/-- A queue declaration (Table 6.8). -/
def queueOf (b : List Byte) : StageQ :=
  let w := fieldAt b 8 8
  { used := true, base := BitVec.ofNat 30 (fieldAt b 0 8), lines := bits w 6 0, log2d := bits w 11 8
    log2ov := bits w 16 12, ovva := BitVec.ofNat 64 (fieldAt b 16 8), quota := bits (fieldAt b 24 8) 23 0 }

/-- The declaration keeps R163. -/
def queueOk (q : StageQ) : Bool :=
  let size := 64 * q.lines * 2 ^ q.log2d
  1 ≤ q.lines && q.lines ≤ 64 && 1 ≤ q.log2d && q.log2d ≤ 12
    && (q.log2ov = 0 || (6 ≤ q.log2ov && q.log2ov ≤ 24)) && q.quota < 2 ^ q.log2ov
    && q.base.toNat % 64 = 0 && q.base.toNat / 0x800000 = (q.base.toNat + size - 1) / 0x800000
    && (q.log2ov = 0 || (q.ovva.toNat % 4096 = 0 && q.ovva.toNat < 2 ^ 52))

/-- Queue fields of a stage-table entry from byte o (Table 6.7). -/
def queueFields (b : List Byte) (o : Nat) : List (Option Nat) :=
  (rangeFrom 0 4).map (fun k =>
    let v := fieldAt b (o + k) 1
    if bits v 7 7 == 1 then some (bits v 6 0) else none)

/-- A stage-table entry with its loop templates (Tables 6.6, 6.7, R189). -/
def stageEntry (b loops : List Byte) : Stage :=
  let w := fieldAt b 0 8
  { entry := BitVec.ofNat 13 (bits w 12 0), group := BitVec.ofNat 16 (bits w 31 16)
    inq := queueFields b 8, outq := queueFields b 12
    loops := (rangeFrom 0 6).map (fun n => BitVec.ofNat 128 (fieldAt loops (16 * n) 16)) }

/-- Queues that a stage names. -/
def Stage.queues (t : Stage) : List Nat := (t.inq ++ t.outq).filterMap id

/-- A used code-map segment: kind, start, length (Table 6.2). -/
def segOf (b : List Byte) : Nat × Nat × Nat :=
  let w := leNat b
  (bits w 63 62, bits w 12 0, bits w 26 13)

/-- The code map keeps R183. -/
def segsOk (nbund : Nat) (segs : List (Nat × Nat × Nat)) : Bool :=
  let used := segs.filter (fun p => p.1 != 0)
  segs.all (fun p => p.1 != 3)
    && used.all (fun p => 1 ≤ p.2.2 && p.2.2 ≤ 8192 && p.2.1 + p.2.2 ≤ nbund)
    && ((rangeFrom 0 used.length).all (fun i => (rangeFrom 0 i).all (fun j =>
      match used[i]?, used[j]? with
      | some p, some q => p.2.1 + p.2.2 ≤ q.2.1 || q.2.1 + q.2.2 ≤ p.2.1
      | _, _ => true)))

/-- The stage that reads a queue. -/
def consumerOf (stages : List Stage) (q : Nat) : Option Nat :=
  (rangeFrom 0 stages.length).find? (fun i => match stages[i]? with
    | some t => t.inq.contains (some q)
    | none => false)

/-- Distances to the sink (R175) after n rounds: a stage lies one further than the farthest stage it feeds. -/
def sinkDist (stages : List Stage) : Nat → List Nat
  | 0 => stages.map (fun _ => 0)
  | n + 1 =>
    let d := sinkDist stages n
    stages.map (fun t => (t.outq.filterMap (fun q => q.bind (consumerOf stages))).foldl
      (fun m c => max m (d.getD c 0 + 1)) 0)

/-- A stage table keeps R192 and joins its stages without a cycle (R19). -/
def stagesOk (stages : List Stage) (raw : List (List Byte)) (nq nbund : Nat) (segs : List (Nat × Nat × Nat)) : Bool :=
  let pool (i : Nat) : Bool := segs.any (fun p => p.1 == 2 && p.2.1 ≤ i && i < p.2.1 + p.2.2)
  raw.all (fun b => bits (fieldAt b 0 8) 32 32 == 1)
    && stages.all (fun t => t.entry.toNat < nbund && !pool t.entry.toNat && t.queues.all (· < nq)
      && (distinct t.queues).length = t.queues.length)
    && (rangeFrom 0 nq).all (fun q =>
      (stages.filter (fun t => t.inq.contains (some q))).length = 1 && stages.any (fun t => t.outq.contains (some q)))
    && (sinkDist stages stages.length).all (· < stages.length)

/-- A region-table entry that R194 refuses. -/
def regionRefused (e : Dword) : Bool := e.getLsbD 63 && bits e.toNat 47 24 < bits e.toNat 23 0

/-- A stage takes tasks from its input queues. -/
def Stage.hasInput (t : Stage) : Bool := t.inq.any (·.isSome)

/-- Field i of a kernel descriptor (Table 6.1). -/
def descWord (d : List Byte) (i : Nat) : Nat := fieldAt d (8 * i) 8

/-- Counts of a kernel descriptor: code-map segments, regions, channels, queues, stages, bundles. -/
def descNcmap (d : List Byte) : Nat := bits (descWord d 8) 61 56
def descNreg (d : List Byte) : Nat := bits (descWord d 8) 54 48
def descNch (d : List Byte) : Nat := bits (descWord d 8) 42 32
def descNq (d : List Byte) : Nat := bits (descWord d 8) 31 24
def descNstage (d : List Byte) : Nat := bits (descWord d 8) 20 16
def descNbund (d : List Byte) : Nat := bits (descWord d 8) 13 0
def descLog2bal (d : List Byte) : Nat := bits (descWord d 9) 4 0
def descTmpl (d : List Byte) : Nat := descWord d 10

/-- The descriptor's own fields keep R19, R174 and R182. -/
def kernelDescOk (d : List Byte) : Bool :=
  (rangeFrom 0 8).all (fun i => descWord d i % 64 = 0) && descTmpl d % 256 = 0
    && descNcmap d ≤ 32 && descNreg d ≤ 64 && descNq d ≤ 128 && 1 ≤ descNstage d && descNstage d ≤ 16
    && 1 ≤ descNbund d && descNbund d ≤ 8192
    && (descLog2bal d = 0 || (12 ≤ descLog2bal d && descLog2bal d ≤ 24))

/-- The structures that the descriptor names (Table 6.1): address and bytes. -/
def descParts (d : List Byte) : List (Nat × Nat) :=
  [ (descWord d 0, 24 * descNbund d), (descWord d 1, 16 * descNstage d), (descWord d 2, 32 * descNq d),
    (descWord d 3, 64 * descNch d), (descWord d 4, 128), (descWord d 5, 96 * descNstage d),
    (descWord d 6, 8 * descNreg d), (descWord d 7, 8 * descNcmap d) ]

/-- Stages of a descriptor whose stage-table entry has an input queue: their templates (R27). -/
def descTemplates (d rawStages : List Byte) : List (Nat × Nat) :=
  if descTmpl d = 0 then []
  else ((rangeFrom 0 (descNstage d)).filter (fun i =>
      (queueFields (rawStages.drop (16 * i)) 8).any (·.isSome))).map (fun i => (descTmpl d + 256 * i, 256))

/-- What the dispatcher reads for a kernel, as far as it can be told from what it has read (R473). -/
def State.kernelRanges (s : State) (va : Nat) : List (Nat × Nat) :=
  if va % 128 != 0 then []
  else (va, 128) :: (match s.vRead va 128 with
    | some d =>
      if !kernelDescOk d then []
      else descParts d ++ (match s.vRead (descWord d 1) (16 * descNstage d) with
        | some raw => descTemplates d raw
        | none => [])
    | none => [])

/-- Reads and checks a kernel (R19, R27, R163, R174, R182, R183, R192, R194, R204, R473): nothing where the dispatcher
refuses it. -/
def State.readKernel (s : State) (va : Nat) : Option Kernel := do
  let d ← if va % 128 = 0 then s.vRead va 128 else none
  guard (kernelDescOk d)
  let nstage := descNstage d
  let nbund := descNbund d
  let nq := descNq d
  let tmpl := descTmpl d
  let parts ← (descParts d).mapM (fun r => s.vReadOpt r.1 r.2)
  let raw (i : Nat) : List Byte := parts.getD i []
  let segs := (entriesOf (raw 7) 8 (descNcmap d)).map segOf
  let stageBytes := entriesOf (raw 1) 16 nstage
  let stages := (stageBytes.zip (entriesOf (raw 5) 96 nstage)).map (fun b => stageEntry b.1 b.2)
  let queues := (entriesOf (raw 2) 32 nq).map queueOf
  let chans := entriesOf (raw 3) 64 (descNch d)
  let regions := (entriesOf (raw 6) 8 (descNreg d)).map dwordOf
  guard (segsOk nbund segs && queues.all queueOk && stagesOk stages stageBytes nq nbund segs)
  guard ([0, 1].all (fun die => (queues.filter (fun q => queueDie q = die)).length ≤ 64))
  guard (!regions.any regionRefused && !chans.any (fun b => ringBad (chanOf b)))
  let dist := sinkDist stages nstage
  let full ← ((rangeFrom 0 nstage).zip stages).mapM (fun (q : Nat × Stage) =>
    let t := { q.2 with dist := dist.getD q.1 0 }
    if !t.hasInput || tmpl = 0 then some (q.1, t)
    else match s.vRead (tmpl + 256 * q.1) 256 with
      | some b => if topbOk b then some (q.1, { t with template := b }) else none
      | none => none)
  pure {
    state := .loading, codeva := BitVec.ofNat 64 (descWord d 0), nbund := nbund, tmplva := BitVec.ofNat 64 tmpl
    stages := full.foldl (fun t q => tabSet {} t q.1 q.2) [], nstage := nstage
    log2bal := if descLog2bal d = 0 then 16 else descLog2bal d, origin := none, code := raw 0
    segs := (segs.filter (fun p => p.1 == 2)).map (fun p => (p.2.1, p.2.2))
    fmt := (entriesOf (raw 4) 8 16).map (fun b => dwordOf b &&& 0xFFFFFFFF0EFFFF80)
    regions := regions, chans := chans
    queues := ((rangeFrom 0 nq).zip queues).foldl (fun t q => tabSet {} t q.1 q.2) [], answered := false }

/-! ## Completion of tasks, stages and kernels (R18, R21, R266) -/

/-- Commands and log entries of a task's retired tile steps are still to complete (R266). -/
def State.taskBusy (s : State) (t : Task) : Bool :=
  t.ran.any (fun r => s.logsHold r.1 r.2.1
    || ((s.ctx r.1 r.2.1).live.any (fun l => r.2.2.contains l.1)))

/-- Sends the completion of each task that is FAILED, or RETIRED with all its commands complete. -/
def State.answerTasks (s : State) : State :=
  s.tasks.foldl (fun s t =>
    if t.answered then s
    else if t.state == .failed then
      (s.completes t.origin compFailed).modTask t.id (fun t => { t with answered := true })
    else if t.state == .retired && !s.taskBusy t then
      (s.completes t.origin compOk).modTask t.id (fun t => { t with answered := true })
    else s) s

/-- The stage queue is empty, its overflow ring included. -/
def State.queueEmpty (s : State) (qi : Nat) : Bool :=
  let q := tabGet {} s.queues qi
  q.count = 0 && q.ringCount = 0

/-- A task of the stage is BINNED or EXPANDED. -/
def State.stageTasks (s : State) (st : Nat) : Bool :=
  s.tasks.any (fun t => t.stage = st && (t.state == .binned || t.state == .expanded))

/-- The stage's next state (Table 1.7): a stage with inputs closes when all its producers are DONE; a CLOSED stage with
nothing left is DONE. -/
def State.stageNext (s : State) (st : Nat) : StageState :=
  let t := tabGet {} s.kernel.stages st
  let feeds (p : Stage) : Bool := p.outq.any (fun q => q.isSome && t.inq.contains q)
  let producersDone := (rangeFrom 0 s.kernel.nstage).all (fun i =>
    let p := tabGet {} s.kernel.stages i
    !feeds p || p.state == .done)
  let closed := t.state == .closed || (t.state == .opened && t.hasInput && producersDone)
  if t.state == .done then .done
  else if !closed then .opened
  else if t.inq.all (fun q => match q with
      | some qi => s.queueEmpty qi
      | none => true) && !s.stageTasks st then .done
  else .closed

/-- One round over the stages. -/
def State.stageRound (s : State) : State :=
  (rangeFrom 0 s.kernel.nstage).foldl (fun s st =>
    let n := s.stageNext st
    { s with kernel := { s.kernel with
        stages := tabSet {} s.kernel.stages st { tabGet {} s.kernel.stages st with state := n } } }) s

/-- Tile steps that still run. -/
def State.running (s : State) : Bool := s.steps.any (fun t => t.state == .placed || t.state == .running)

/-- The kernel is final (Table 1.6): COMPLETE, or FAILED with no tile step running. -/
def State.kernelFinal (s : State) : Bool :=
  s.kernel.state == .complete || (s.kernel.state == .failed && !s.running)

/-- DEAD contexts return to IDLE (R40). -/
def State.freeDead (s : State) : State :=
  s.cores.foldl (fun s p => allCtxs.foldl (fun s x =>
    if (s.ctx p.1 x).state == .dead then s.modCtx p.1 x (fun cx => { cx with state := .idle, late := [] }) else s) s) s

/-- The loader/storer controllers record no stream position any more: the kernel has ended (R433). -/
def State.clearRings (s : State) : State :=
  { s with cores := s.cores.map (fun p => (p.1, { p.2 with
      rings := p.2.rings.map (fun r => { r with pos := [], drained := [] }) })) }

/-- A kernel whose every stage is DONE is COMPLETE (R18). -/
def State.kernelDone (s : State) : State :=
  if s.kernel.state == .running
      && (rangeFrom 0 s.kernel.nstage).all (fun st => (tabGet {} s.kernel.stages st).state == .done)
  then { s with kernel := { s.kernel with state := .complete } } else s

/-- A final kernel is answered: OK once all its tasks are, FAILED at once; its DEAD contexts return to IDLE, and the stream
positions of its rings are gone (R433).
(DEDUCED, log 53.) -/
def State.answerKernel (s : State) : State :=
  if !s.kernelFinal then s
  else
    let s := s.freeDead.clearRings
    if s.kernel.answered then s
    else if s.kernel.state == .failed
        || s.tasks.all (fun t => t.answered || s.owed.any (fun o => o.2.contains t.id)) then
      let code := if s.kernel.state == .failed then compFailed else compOk
      let s := s.completes s.kernel.origin code
      { s with kernel := { s.kernel with answered := true } }
    else s

/-- Sends the OK of a kernel that another has followed, once its tasks are answered. -/
def State.answerOwed (s : State) : State :=
  let due (o : Origin × List Nat) : Bool := s.tasks.all (fun t => t.answered || !o.2.contains t.id)
  let s' := (s.owed.filter due).foldl (fun s o => s.completion o.1 compOk) s
  { s' with owed := s'.owed.filter (fun o => !due o) }

/-- What follows a change of tasks, stages or the kernel: completions, CLOSED and DONE stages, COMPLETE.
(DEDUCED, log 53.) -/
def State.settle (s : State) : State :=
  let s := s.answerTasks
  let s := if s.kernel.state == .running then (rangeFrom 0 16).foldl (fun s _ => s.stageRound) s else s
  (s.kernelDone).answerKernel.answerOwed

/-! ## The load (R18, R90, R186, R189, R194, R203) -/

/-- Bundle i of the code image. -/
def codeBundle (code : List Byte) (i : Nat) : BitVec 192 := BitVec.ofNat 192 (fieldAt code (24 * i) 24)

/-- Loads the code image and the format table into a core: what lies past the image is zero and data-tagged (R90).
(DEDUCED, log 54.) -/
def Core.loadKernel (k : Core) (n : Kernel) : Core :=
  let ixs := rangeFrom 0 n.nbund
  let pool (i : Nat) : Bool := n.segs.any (fun p => p.1 ≤ i && i < p.1 + p.2)
  let bundles := ((rangeFrom 0 n.nbund).zip (entriesOf n.code 24 n.nbund)).map (fun p =>
    (p.1, (BitVec.ofNat 192 (leNat p.2) : BitVec 192)))
  let fmt : Tab Dword := ((rangeFrom 0 16).zip n.fmt).filter (fun p => p.2 != 0)
  let k := { k with
    istore := bundles.filter (fun p => p.2 != 0)
    untagged := (ixs.filter (fun i => !pool i)).map (fun i => (i, true)) }
  allCtxs.foldl (fun k x => k.setCtx x { k.ctx x with fmt := fmt }) k

/-- Kernel load writes the declared fields of the stage queues (R162). (DEDUCED, log 54.) -/
def loadQueues (old new : Tab StageQ) : Tab StageQ :=
  (rangeFrom 0 128).foldl (fun t i =>
    let q := tabGet {} old i
    let n := tabGet {} new i
    tabSet {} t i { q with
      used := n.used, base := n.base, lines := n.lines, log2d := n.log2d, ovva := n.ovva, log2ov := n.log2ov
      quota := n.quota }) []

/-- A final kernel makes way for the next: its FAILED record is sent, or its OK is owed. (DEDUCED, log 53.) -/
def State.leaveKernel (s : State) : State :=
  let k := s.kernel
  if k.state == .none || k.answered then s
  else if k.state == .failed then s.completes k.origin compFailed
  else match k.origin with
    | some o => { s with owed := s.owed ++ [(o, (s.tasks.filter (fun t => !t.answered)).map (·.id))] }
    | none => s

/-- KERNEL_LOAD_COMPLETE (R18): once the cores run no tile step of an earlier kernel, the code image and the tables are in
every core in service and the kernel is RUNNING. Cores still assigned by an earlier kernel are to leave their stage.
(DEDUCED, log 54.) (DESIGN CHOICE, log 60.) -/
def execKernelLoadComplete (s : State) : Host.Outcome State Fault Refusal :=
  .next (
    if s.running then s
    else match s.launching with
    | some k => { s.leaveKernel.clearRings with kernel := k, launching := none }
    | none =>
    if s.kernel.state != .loading then s
    else
      let n := s.kernel
      let s := { s.freeDead with
        codeva := n.codeva, tasks := s.tasks.filter (fun t => t.state == TaskState.retired && !t.answered), steps := [], bins := [], binAt := 0, reserved := [], inSamples := []
        regions := ((rangeFrom 0 64).zip n.regions).filter (fun p => p.2 != 0)
        queues := loadQueues s.queues n.queues, chans := []
        kernel := { n with state := .running } }
      let s := allCores.foldl (fun s c =>
        if (s.core c).inService then s.modCore c (fun k =>
          { k.loadKernel n with move := if k.stage.isSome then some { target := none } else k.move }) else s) s
      let s := ((rangeFrom 0 n.chans.length).zip n.chans).foldl (fun s p => s.writeChan p.1 (chanOf p.2)) s
      s.settle)

/-! ## Taking requests (R153, R155) -/

/-- The ring is polled: enabled and not broken. -/
def Ring.live (r : Ring) : Bool := r.log2n != 0 && !r.broken

/-- What the poller reads of a ring: its TAIL and its next entry. -/
def Ring.reads (r : Ring) : List (Nat × Nat) :=
  [(r.base.toNat, 4), (r.base.toNat + 64 + 64 * (r.head.toNat % 2 ^ r.log2n.toNat), 64)]

/-- The next request of a ring, where TAIL shows one (R153, R156) and no live service holds what is read of it (R285). -/
def State.nextRequest (s : State) (ring : Nat) : Option (Req × Origin) :=
  let r := tabGet {} s.session.rings ring
  if s.session.state != .opened || !r.live || s.rangesHeld r.reads then none
  else match s.vRead r.base.toNat 4 with
    | none => none
    | some t =>
      let d := (BitVec.ofNat 32 (leNat t) - r.head).toNat
      if d = 0 || 2 ^ r.log2n.toNat < d then none
      else (s.vRead (r.base.toNat + 64 + 64 * (r.head.toNat % 2 ^ r.log2n.toNat)) 64).map (fun b =>
        let q := reqOf b
        (q, { ring := ring, count := r.head, tag := q.tag, cq := q.cq }))

/-- The request is taken: the count of the ring rises. -/
def State.countRequest (s : State) (ring : Nat) : State :=
  let r := tabGet {} s.session.rings ring
  { s with session := { s.session with rings := tabSet {} s.session.rings ring { r with head := r.head + 1 } } }

/-- Writes HEAD into the control line of a ring. -/
def State.writeHead (s : State) (ring : Nat) : State :=
  let r := tabGet {} s.session.rings ring
  s.vWrite (r.base.toNat + 8) (leBytes r.head.toNat 4)

/-- NOP. -/
def State.actNop (s : State) (o : Origin) : Option State := some (s.completion o compOk)

/-- TYPE 0x04-0xFF. -/
def State.actUnknown (s : State) (o : Origin) : Option State := some (s.completion o compBadReq)

/-- A kernel is LOADING. -/
def State.isLoading (s : State) : Bool := s.kernel.state == .loading || s.launching.isSome

/-- A kernel enters LOADING; while tile steps of a FAILED one still run, that one stays the kernel of those (R20).
(DEDUCED, log 54.) -/
def State.launch (s : State) (k : Kernel) : State :=
  if s.kernel.state == .failed && s.running then { s with launching := some k } else { s.leaveKernel with kernel := k }

/-- KLAUNCH (R18, R19). -/
def State.actKlaunch (s : State) (q : Req) (o : Origin) : Option State :=
  if s.isLoading || s.kernel.state == .running then none
  else some (match s.readKernel q.addr.toNat with
    | some k => s.launch { k with origin := some o }
    | none => s.completion o compBadKernel)

/-- A kernel is LOADING: TASK and CLOSE wait; with none LOADING or RUNNING they complete with NOKERNEL (Table 5.4). -/
def State.withKernel (s : State) (o : Origin) (f : Option State) : Option State :=
  if s.isLoading then none
  else if s.kernel.state != .running then some (s.completion o compNoKernel)
  else f

/-- TASK (R155, R21). -/
def State.actTask (s : State) (q : Req) (o : Origin) : Option State :=
  let topb := if q.addr.toNat % 256 = 0 then s.vRead q.addr.toNat 256 else none
  s.withKernel o (match topb with
    | none => some (s.completion o compBadReq)
    | some b =>
      if !s.sourceStage q.stage || topbStage b != q.stage then some (s.completion o compBadReq)
      else if (tabGet {} s.kernel.stages q.stage).state != .opened then some (s.completion o compClosed)
      else if 4096 ≤ s.binnedCount then none
      else some (s.postTask b q.stage q.addr (some o) none))

/-- CLOSE (R21). -/
def State.actClose (s : State) (q : Req) (o : Origin) : Option State :=
  s.withKernel o (
    if !s.sourceStage q.stage then some (s.completion o compBadReq)
    else
      let t := tabGet {} s.kernel.stages q.stage
      let s := { s with kernel := { s.kernel with
        stages := tabSet {} s.kernel.stages q.stage { t with state := if t.state == StageState.opened then StageState.closed else t.state } } }
      some (s.completion o compOk))

/-- Acts on one request; nothing while it must wait. -/
def State.actOn (s : State) (q : Req) (o : Origin) : Option State :=
  match q.type with
  | 0 => s.actNop o
  | 1 => s.actKlaunch q o
  | 2 => s.actTask q o
  | 3 => s.actClose q o
  | _ => s.actUnknown o

/-- What the dispatcher reads for a request before it acts on it (R473, R155). -/
def State.requestRanges (s : State) (q : Req) : List (Nat × Nat) :=
  if s.isLoading then []
  else if q.type = 1 && s.kernel.state != .running then s.kernelRanges q.addr.toNat
  else if q.type = 2 && s.kernel.state == .running && q.addr.toNat % 256 = 0 then [(q.addr.toNat, 256)]
  else []

/-- A request is acted on, once what it names has been read; nothing while it must wait. -/
def State.actRead (s : State) (q : Req) (o : Origin) (act : State → Req → Origin → Option State) : Option State :=
  let r := s.requestRanges q
  if s.canRead none r then (act s q o).map (·.dropHostData none r) else none

/-- Takes up to n requests of a ring; the flag says whether one was taken. A request whose structures lie in a host window
waits until they are read (R473). -/
def State.takeRequests (ring : Nat) : Nat → Bool → State → State × Bool
  | 0, took, s => (s, took)
  | n + 1, took, s =>
    match s.nextRequest ring with
    | none => (s, took)
    | some (q, o) => match s.actRead q o State.actOn with
      | none => (s.fetchHost none .dispatcher (s.requestRanges q), took)
      | some s => State.takeRequests ring n true (s.countRequest ring)

/-- The poll finds more requests than the ring holds (R156). -/
def State.ringOver (s : State) (ring : Nat) : Bool :=
  let r := tabGet {} s.session.rings ring
  match s.vRead r.base.toNat 4 with
  | some t => 2 ^ r.log2n.toNat < (BitVec.ofNat 32 (leNat t) - r.head).toNat
  | none => false

/-- A visit to a ring (R153, R156). (DEDUCED, log 45.) (DESIGN CHOICE, log 76.) -/
def State.visitRing (s : State) (ring : Nat) : State :=
  if s.ringOver ring then
    let r := tabGet {} s.session.rings ring
    let s := { s with session := { s.session with
      rings := tabSet {} s.session.rings ring { r with broken := true } } }
    s.sendRecord { dhseq := 0, kind := 0x03, code := 0, rcount := r.head, rv := true, ring := BitVec.ofNat 6 ring }
  else match State.takeRequests ring 4 false s with
    | (s, true) => s.writeHead ring
    | (s, false) => s

/-- WORK_RING_POLL (R153): every 32 cy the poller visits the next enabled ring; one that a live service holds it visits again
(R285). (DEDUCED, log 45.) (DESIGN CHOICE, log 62.) -/
def execWorkRingPoll (s : State) : Host.Outcome State Fault Refusal :=
  .next (
    if s.session.state != .opened || s.cycle.toNat % 32 != 0 then s
    else
      let order := (rangeFrom 0 64).map (fun i => (s.pollAt + i) % 64)
      let s := match order.find? (fun i => (tabGet {} s.session.rings i).live) with
        | some i =>
          if s.rangesHeld (tabGet ({} : Ring) s.session.rings i).reads then s
          else { s.visitRing i with pollAt := (i + 1) % 64 }
        | none => s
      s.settle)

/-- The next request of a ring is taken where it is of the type asked for and need not wait. -/
def State.takeOne (s : State) (ring : Nat) (type : Nat → Bool) (act : State → Req → Origin → Option State) : State :=
  match s.nextRequest ring with
  | some (q, o) =>
    if type q.type then match s.actRead q o act with
      | some s => ((s.countRequest ring).writeHead ring).settle
      | none => s.fetchHost none .dispatcher (s.requestRanges q)
    else s
  | none => s

/-- NOP_REQUEST (R155). -/
def execNopRequest (ring : Nat) (s : State) : Host.Outcome State Fault Refusal :=
  .next (s.takeOne ring (· == 0) (fun s _ o => s.actNop o))

/-- UNKNOWN_REQUEST (R155). -/
def execUnknownRequest (ring : Nat) (s : State) : Host.Outcome State Fault Refusal :=
  .next (s.takeOne ring (4 ≤ ·) (fun s _ o => s.actUnknown o))

/-- KLAUNCH (R18). -/
def execKlaunch (ring : Nat) (s : State) : Host.Outcome State Fault Refusal :=
  .next (s.takeOne ring (· == 1) State.actKlaunch)

/-- TASK_REQUEST (R155). -/
def execTaskRequest (ring : Nat) (s : State) : Host.Outcome State Fault Refusal :=
  .next (s.takeOne ring (· == 2) State.actTask)

/-- CLOSE_REQUEST (R21). -/
def execCloseRequest (ring : Nat) (s : State) : Host.Outcome State Fault Refusal :=
  .next (s.takeOne ring (· == 3) State.actClose)

/-! ## Tasks of stages with input queues (R27) -/

/-- A stage may form a task (R27). (DEDUCED, log 80.) -/
def State.mayForm (s : State) (st : Nat) : Bool :=
  let mine (t : Task) : Bool := t.stage = st
  s.session.state == .opened && s.kernel.state == .running && s.binnedCount < 4096
    && !s.tasks.any (fun t => mine t && t.state == .binned)
    && !s.tasks.any (fun t => mine t && t.state == .expanded
      && s.steps.any (fun p => p.task = t.id && p.state == .pending))

/-- TASK_FORM (R27): the head entry of INQ0 is popped and bound to a task formed from the stage's template.
(DEDUCED, log 80.) -/
def execTaskForm (stage : Nat) (s : State) : Host.Outcome State Fault Refusal :=
  let t := tabGet {} s.kernel.stages stage
  .next (match t.inq.head? with
    | some (some qi) =>
      let q := tabGet {} s.queues qi
      if q.count = 0 || !s.mayForm stage then s
      else
        let bytes := s.sRead (q.slotAddr q.head) (64 * q.lines)
        let m := tabGet 0 q.vmask (q.head.toNat % 2 ^ q.log2d)
        let bad := s.slotPoison q q.head
        let s := { s with queues := tabSet {} s.queues qi { q with head := q.head + 1 } }
        let root : Dword := s.kernel.tmplva
        let va : Dword := if root == 0 then 0 else root + BitVec.ofNat 64 (256 * stage)
        s.postTask (if t.template.isEmpty then defaultTopb else t.template) stage va none (some (bytes, m, bad))
    | _ => s)

end Sys2Proof.Machine
end

