-- ==== Sys2Proof/Machine/Dispatcher.lean ====
section
/-!
DEFINITION. The dispatcher and the Truss: draining of bins (R171), the walker (R28-R31), placement of tile steps and gangs
(R35, R49, R172, R173), retirement (R32, R341), balancing (R174-R177), reservation (R38), core moves (R22, R126).
-/

namespace Sys2Proof.Machine

/-! ## The walker (R28-R31) -/

/-- Mixed-radix digits of n, last radix least significant. -/
def digits (radices : List Nat) (n : Nat) : List Nat :=
  (radices.foldr (fun r p => (p.1 / max 1 r, p.1 % max 1 r :: p.2)) (n, [])).2

/-- Bound of a level where p holds of its loop word, else 1. -/
def boundWhere (b : List Byte) (p : Nat → Bool) (n : Nat) : Nat :=
  let w := topbLevel b n
  if p w then levelBound w else 1

/-- Instances of a task: the product of the bounds of its stepped levels (R30). -/
def instances (b : List Byte) : Nat := (levelIx.map (boundWhere b isStepped)).foldl (· * ·) 1

/-- LOOPCTRn of the tile step of rank `rank` on die counter `die` in instance `inst` (R31): the CORES counters lead the
rank, then the row and column of the MAS split (R173). -/
def stepCounters (b : List Byte) (inst die rank : Nat) : List Nat :=
  let stepped := digits (levelIx.map (boundWhere b isStepped)) inst
  let cores := digits (levelIx.map (boundWhere b isCores)) (rank / (splitRows b * splitCols b))
  levelIx.map (fun n =>
    let w := topbLevel b n
    if isDies w then die else if isCores w then cores.getD n 0 else if isStepped w then stepped.getD n 0 else 0)

/-- The tile steps of an instance, PENDING. -/
def instanceSteps (t : Task) (first : Nat) (now : Dword) : List TileStep :=
  let b := t.topb
  let size := groupSize b
  (rangeFrom 0 (gangSize b)).map (fun i =>
    let d := i / size
    let r := i % size
    { id := first + i, task := t.id, inst := t.released, die := if hasDies b then some d else none, rank := r
      counters := stepCounters b t.released d r, state := .pending, emark := false, core := none, ctx := none
      since := now, groupCmds := 0, staging := [], reads := [], lastMask := 0, image := none, saved := none })

/-- The walker releases the next instance of a task (R30). -/
def State.releaseInstance (s : State) (i : Nat) : State :=
  match s.tasks.find? (fun t => t.id = i) with
  | none => s
  | some t =>
    let new := instanceSteps t s.nextId s.cycle
    ({ s with nextId := s.nextId + new.length, steps := s.steps ++ new } : State).modTask i
      (fun t => { t with released := t.released + 1 })

/-! ## Bins (R171) -/

/-- EXPANDED tasks of a stage. -/
def State.expandedOf (s : State) (st : Nat) : List Task :=
  s.tasks.filter (fun t => t.stage = st && t.state == .expanded)

/-- A BINNED task becomes EXPANDED, and its first instance is released. -/
def State.expand (s : State) (i : Nat) : State :=
  let n := s.nextId
  (({ s with nextId := n + 1 } : State).modTask i (fun t => { t with state := .expanded, order := n })).releaseInstance i

/-- Takes the tasks of a bin in FIFO order; a stage whose set is full keeps this and its later tasks in the bin. -/
def State.drainBin : List Nat → List Nat → List Nat → State → State × List Nat
  | [], _, kept, s => (s, kept)
  | i :: t, full, kept, s =>
    match s.tasks.find? (fun k => k.id = i) with
    | none => State.drainBin t full kept s
    | some k =>
      if k.state != .binned then State.drainBin t full kept s
      else if full.contains k.stage || 8 ≤ (s.expandedOf k.stage).length then
        State.drainBin t (k.stage :: full) (kept ++ [i]) s
      else State.drainBin t full kept (s.expand i)

/-- DISPATCHER_BIN_DRAIN (R171): the next non-empty bin in ascending order. -/
def execDispatcherBinDrain (s : State) : Host.Outcome State Fault Refusal :=
  .next (
    if s.session.state != .opened || s.kernel.state != .running then s
    else
      let order := (rangeFrom 0 64).map (fun i => (s.binAt + i) % 64)
      match order.find? (fun b => tabGet [] s.bins b != []) with
      | none => s
      | some b =>
        let p := State.drainBin (tabGet [] s.bins b) [] [] s
        { p.1 with bins := tabSet [] p.1.bins b p.2, binAt := (b + 1) % 64 })

/-! ## Placement (R35, R172, R173) -/

/-- A context that can take a tile step: IDLE, with STRFENCE zero (R341). -/
def Ctx.free (cx : Ctx) : Bool := cx.state == .idle && cx.step.isNone && cx.strFence == 0

/-- IDLE contexts of a core, those with STRFENCE nonzero among them (R341). -/
def Core.idleCtxs (k : Core) : List Nat := allCtxs.filter (fun x => (k.ctx x).state == .idle)

/-- Contexts of a core that can take a tile step. -/
def Core.freeCtxs (k : Core) : List Nat := allCtxs.filter (fun x => (k.ctx x).free)

/-- A core of a stage that takes tile steps of a task: in service, no move or save pending, not reserved for another
task (R22, R38). (DEDUCED, log 48.) (DEDUCED, log 49.) -/
def State.takesSteps (s : State) (st task c : Nat) : Bool :=
  let k := s.core c
  k.inService && k.stage == some st && k.move.isNone && k.saving.isNone && !k.freeCtxs.isEmpty
    && (match tabGet none s.reserved (dieOf c) with
      | none => true
      | some r => r = task || (s.tasks.find? (fun t => t.id = r)).all (fun t => t.stage != st))

/-- Cores of a die that take a tile step of a task. (DEDUCED, log 48.) -/
def State.candidates (s : State) (die : Nat) (t : Task) : List Nat :=
  (rangeFrom (64 * die) 64).filter (s.takesSteps t.stage t.id)

/-- Dies on which a tile step may run, in order of preference. (DEDUCED, log 48.) -/
def State.stepDies (s : State) (t : Task) (p : TileStep) : List Nat :=
  match p.die with
  | some d => [d]
  | none => s.stageDies t.stage

/-- The context that a single tile step goes to (R172, R173); a die takes one placement a cycle. (DEDUCED, log 48.) -/
def State.placeSingle (s : State) (t : Task) (p : TileStep) : Option (Nat × Nat) :=
  match (s.stepDies t p).find? (fun d => !(s.candidates d t).isEmpty) with
  | none => none
  | some d =>
    if s.placedDies.contains d then none
    else
    let cs := s.candidates d t
    let best := minBy (fun c => 4 - (s.core c).idleCtxs.length) cs
    let c := match t.lastCore with
      | some c => if cs.contains c then some c else best
      | none => best
    match c with
    | some c => (s.core c).freeCtxs.head?.map (fun x => (c, x))
    | none => none

/-- The contexts that the members of a gang instance go to, when every group fits (R35): rank k of a group to the k-th core
of its die. (DESIGN CHOICE, log 77.) -/
def State.placeGroups (s : State) (t : Task) (ps : List TileStep) : Option (List (TileStep × Nat × Nat)) :=
  let onDie (d : Nat) (g : List TileStep) : Option (List (TileStep × Nat × Nat)) :=
    let cs := s.candidates d t
    if cs.length < g.length then none
    else some (g.filterMap (fun p => match cs[p.rank]? with
      | some c => (s.core c).freeCtxs.head?.map (fun x => (p, c, x))
      | none => none))
  if ps.any (fun p => p.die.isSome) then
    let dies := distinct (ps.filterMap (·.die))
    let gs := dies.map (fun d => onDie d (ps.filter (fun p => p.die == some d)))
    if gs.all (·.isSome) && dies.all (fun d => !s.placedDies.contains d) then
      some (gs.flatMap (fun g => g.getD []))
    else none
  else (firstOf ((s.stageDies t.stage).map (fun d => onDie d ps))).filter
    (fun g => g.all (fun p => !s.placedDies.contains (dieOf p.2.1)))

/-- The next placement: the first in the order of expansion that fits; of a gang instance, all members at once. -/
def State.placementOf (s : State) (t : Task) : Option (List (TileStep × Nat × Nat)) :=
  let ps := s.steps.filter (fun p => p.task = t.id && p.state == .pending)
  match ps with
  | [] => none
  | p :: _ =>
    if gangSize t.topb ≤ 1 then (s.placeSingle t p).map (fun q => [(p, q.1, q.2)])
    else if ps.length < gangSize t.topb then none
    else s.placeGroups t ps

/-- EXPANDED tasks in the order of their expansion, by selection of the smallest. -/
def sortTasks : Nat → List Task → List Task
  | 0, _ => []
  | n + 1, ts => match minBy (·.order) ts with
    | none => []
    | some t => t :: sortTasks n (ts.filter (fun u => u.id != t.id))

/-- The task whose instance is placed next, and where. -/
def State.nextPlacement (s : State) : Option (Task × List (TileStep × Nat × Nat)) :=
  if s.session.state != .opened || s.kernel.state != .running then none
  else
    let ts := s.tasks.filter (fun t => t.state == .expanded)
    firstOf ((sortTasks ts.length ts).map (fun t => (s.placementOf t).map (fun p => (t, p))))

/-- Pending causes that survive placement (R246). (DEDUCED, log 58.) -/
def survives (code : Nat) : Bool := code == causeLinkDown.toNat || code == causeKeyDue.toNat

/-- Placement clears pending flags; each deferred cause and QUOTA.OVF among them goes to the host as a record (R246). -/
def State.clearPending (s : State) (c x : Nat) : State :=
  let pend := (s.ctx c x).pend
  let s := pend.foldl (fun s p => match p.2 with
    | some info =>
      if survives p.1 || p.1 == causeTimer.toNat then s
      else s.sendRecord { causeRecord (BitVec.ofNat 8 p.1) c x 0 with
        aux := if p.1 == causeQuotaOvf.toNat then BitVec.ofNat 8 (bits info.toNat 59 52) else 0 }
    | none => s) s
  s.modCtx c x (fun cx => { cx with pend := pend.filter (fun p => survives p.1) })

/-- Bits of a loop-table entry at placement: [127:37] of the stage's template, BOUND, MARK and STEP of the TOPB (R189). -/
def placedLoop (tmpl : BitVec 128) (w : Nat) : BitVec 128 :=
  BitVec.ofNat 128 (tmpl.toNat / 2 ^ 37 * 2 ^ 37 + (if levelStep w then 2 ^ 36 else 0) + levelMark w * 2 ^ 34
    + levelBound w)

/-- The context of a tile step that enters PLACED (R49, R189). -/
def placedCtx (cx : Ctx) (t : Task) (g : Stage) (p : TileStep) (now : Dword) : Ctx :=
  let lv := topbFmtLv t.topb
  let cx := { cx with
    sreg := tabSet 0 (tabSet 0 cx.sreg 1 t.topbVa) 2 (BitVec.ofNat 64 p.rank)
    empty := [], user := { pc := g.entry }, sys := { cx.sys with latches := [], results := [], due := [] }
    modeSys := false, acflags := 0
    loopctr := ((rangeFrom 0 6).zip p.counters).foldl (fun m (q : Nat × Nat) => tabSet 0 m q.1 (BitVec.ofNat 32 q.2)) []
    loops := ((rangeFrom 0 6).zip g.loops).foldl (fun m (q : Nat × BitVec 128) => tabSet 0 m q.1 (placedLoop q.2 (topbLevel t.topb q.1))) []
    fmtFix := BitVec.ofNat 4 (topbFmtIx t.topb), fmtLevel := if lv ≤ 5 then BitVec.ofNat 4 lv else 0xF
    dirtymap := BitVec.allOnes 37, qmode := 0 }
  { cx with
    state := .ready, block := .no, seatedNow := false, readySince := now, completing := [], sysHalted := false
    userHalted := false, preempt := false, stopped := false, timer := none, step := some p.id, saveReq := none
    doneIssued := false }

/-- A tile step enters PLACED on a context (R32, R49); its bound entry is its read entry for INQ0 (R437). -/
def State.placeStep (s : State) (t : Task) (q : TileStep × Nat × Nat) : State :=
  let c := q.2.1
  let x := q.2.2
  let g := tabGet {} s.kernel.stages t.stage
  let s := s.clearPending c x
  let s := (s.modCore c (fun k => k.freeLoop x)).modCtx c x (fun cx => placedCtx cx t g q.1 s.cycle)
  let entry : Tab (Option QEntry) := match t.bound with
    | some (bs, m, bad) =>
      let n := bs.length / 64
      [(0, some { lines := (entriesOf bs 64 n).map lineOf, vmask := m, cursor := 0, poison := bad })]
    | none => []
  let s := s.modStep q.1.id (fun p => { p with
    state := .placed, core := some c, ctx := some x, reads := entry, staging := [], lastMask := 0, groupCmds := 0
    placedAt := s.nextId })
  s.modTask t.id (fun t => { t with lastCore := some c })

/-- An instance is placed: its dies have placed in this cycle, and its reservation ends (R38, R172). -/
def State.placeAll (s : State) (t : Task) (ps : List (TileStep × Nat × Nat)) : State :=
  let s := ps.foldl (fun s p => s.placeStep t p) s
  { s with
    placedDies := distinct (s.placedDies ++ ps.map (fun p => dieOf p.2.1))
    reserved := s.reserved.filter (fun p => p.2 != some t.id) }

/-- TILE_STEP_PLACE (R49, R172): the next placement, where it is a single tile step. -/
def execTileStepPlace (s : State) : Host.Outcome State Fault Refusal :=
  let s := s.loseDiscarded
  .next (match s.nextPlacement with
    | some (t, ps) => if gangSize t.topb ≤ 1 then s.placeAll t ps else s
    | none => s)

/-- GANG_PLACE (R35): the next placement, where it is a gang instance: every member at once. -/
def execGangPlace (s : State) : Host.Outcome State Fault Refusal :=
  let s := s.loseDiscarded
  .next (match s.nextPlacement with
    | some (t, ps) => if 1 < gangSize t.topb then s.placeAll t ps else s
    | none => s)

/-! ## Retirement (R32, R34, R341) -/

/-- Every engine command of a context has been accepted. -/
def State.allAccepted (s : State) (c x : Nat) : Bool :=
  (rangeFrom 0 15).all (fun u => (tabGet [] (s.core c).queues (4 * u + x)).isEmpty)

/-- The context of a retired tile step: IDLE, its registers as they stand; what its commands still do goes on. -/
def Ctx.retire (cx : Ctx) : Ctx :=
  { cx with
    state := .idle, block := .no, seatedNow := false, completing := [], preempt := false, stopped := false
    userHalted := false, timer := none, step := none, doneIssued := false, saveReq := none }

/-- After the last tile step of an instance: the next instance, or the task is RETIRED (R24, R30). -/
def State.instanceDone (s : State) (i : Nat) : State :=
  match s.tasks.find? (fun t => t.id = i) with
  | none => s
  | some t =>
    let mine := s.steps.filter (fun p => p.task = i)
    if t.state != .expanded || mine.any (fun p => p.state != .retired) then s
    else
      let s := { s with steps := s.steps.filter (fun p => p.task != i) }
      if t.released < instances t.topb then s.releaseInstance i
      else s.modTask i (fun t => { t with state := .retired })

/-- A push of the context has not entered its queue yet. -/
def State.pushWaits (s : State) (c x : Nat) : Bool := (s.pushes ++ s.spills).any (fun p => p.core == c && p.ctx == x)

/-- TILE_STEP_RETIRE (R32, R34, R341): `task.done` has issued, what its bundle began has landed and is complete, and the
commands have been accepted. (DESIGN CHOICE, log 83.) -/
def execTileStepRetire (core ctx : Nat) (s : State) : Host.Outcome State Fault Refusal :=
  .next (match s.stepOf core ctx with
    | none => s
    | some p =>
      let cx := s.ctx core ctx
      if !cx.over || !s.allAccepted core ctx || s.pushWaits core ctx then s
      else
        let mine := (cx.live.filter (fun l => p.placedAt ≤ l.1)).map (·.1)
        let s := (s.modCore core (fun k => k.freeLoop ctx)).modCtx core ctx Ctx.retire
        let s := s.modStep p.id (fun p => { p with state := .retired })
        let s := s.modTask p.task (fun t => { t with ran := t.ran ++ [(core, ctx, mine)] })
        (s.instanceDone p.task).settle)

/-! ## Occupancy (R175, R221) -/

/-- Queues of a die, in ascending index. (DEDUCED, log 51.) -/
def State.dieQueues (s : State) (die : Nat) : List (Nat × StageQ) :=
  s.queues.filter (fun p => p.2.used && queueDie p.2 = die)

/-- A tile step or task of a stage that may run on a die waits there (R175). -/
def State.waitsOn (s : State) (die st : Nat) : Bool :=
  let may (t : Task) : Bool := if hasDies t.topb then die < diesBound t.topb else (s.stageDies st).contains die
  s.tasks.any (fun t => t.stage = st && ((t.state == .binned && may t)
    || (t.state == .expanded && s.steps.any (fun p => p.task = t.id && p.state == .pending
      && (match p.die with
        | some d => d = die
        | none => may t)))))

/-- OCCUPANCY_SAMPLE (R175): every 256 cy. (DEDUCED, log 51.) -/
def execOccupancySample (s : State) : Host.Outcome State Fault Refusal :=
  .next (
    if s.cycle.toNat % 256 != 0 then s
    else
      let now := s.queues
      let s := now.foldl (fun s p =>
        if p.2.used then
          let n := min (p.2.count + p.2.ringCount) (2 ^ p.2.log2d)
          { s with queues := tabSet {} s.queues p.1 { p.2 with occacc := p.2.occacc + BitVec.ofNat 32 n } }
        else s) s
      let s := [0, 1].foldl (fun s d => (rangeFrom 0 s.kernel.nstage).foldl (fun s st =>
        if s.sourceStage st && s.waitsOn d st then
          { s with inSamples := tabSet 0 s.inSamples (16 * d + st) (tabGet 0 s.inSamples (16 * d + st) + 1) }
        else s) s) s
      s.cores.foldl (fun s p =>
        if p.2.perfHen && bits p.2.hcapsel.toNat 5 0 == 4 then
          match (s.dieQueues (dieOf p.1))[bits p.2.hcapsel.toNat 11 6]? with
          | some q => s.sample p.1 0x04 (q.2.count + q.2.ringCount)
          | none => s
        else s) s)

/-! ## Moves (R22, R36, R121, R126) -/

/-- Tasks that are no longer able to place a group fail with GANG.NOFIT (R36). -/
def State.recheckFit (s : State) : State :=
  s.tasks.foldl (fun s t =>
    let waiting := t.state == .binned || (t.state == .expanded
      && (t.released < instances t.topb || s.steps.any (fun p => p.task = t.id && p.state == .pending)))
    if waiting && s.nofit t.topb t.stage then s.failTask t.id causeGangNofit else s) s

/-- The core joins the phase group of its new stage, or group 0 alone (R121). -/
def State.joinGroup (s : State) (c : Nat) (st : Option Nat) : State :=
  let g : BitVec 16 := match st with
    | some st => (tabGet {} s.kernel.stages st).group
    | none => 0
  let others := allCores.filter (fun d => d != c && g != 0 && (s.core d).phaseGroup == g)
  let p : Word := match others with
    | d :: _ => (s.core d).phase
    | [] => 0
  s.modCore c (fun k => { k with phaseGroup := g, phase := p })

/-- Every context of the core is at a tile-step boundary (R22, R34); a DEAD one counts as being at one
(DESIGN CHOICE, log 85). -/
def Core.atBoundary (k : Core) : Bool :=
  allCtxs.all (fun x => (k.ctx x).state == .idle || (k.ctx x).state == .dead)

/-- A pending move takes effect (R22, R126): the core has no tile step, no save and an empty phase write buffer. A drained
core leaves service (R177). (DEDUCED, log 52.) -/
def State.takeMove (s : State) (c : Nat) : State :=
  let k := s.core c
  match k.move with
  | none => s
  | some m =>
    if !k.atBoundary || !k.pwb.isEmpty || k.saving.isSome || s.cycle.toNat < m.notBefore.toNat then s
    else
      let st := if k.drained then none else m.target
      let s := s.modCore c (fun k => { k with stage := st, move := none, arrived := false })
      let s := s.joinGroup c st
      if k.drained then
        let s := s.modCore c (fun k => { k with inService := false })
        ({ s with sill := { s.sill with draining := s.sill.draining.filter (· != c) } } : State).recheckFit
      else s

/-- CORE_MOVE_TAKE_EFFECT (R22, R126). -/
def execCoreMoveTakeEffect (core : Nat) (s : State) : Host.Outcome State Fault Refusal :=
  .next (s.takeMove core)

/-! ## The Truss (R174-R177) -/

/-- Class of a stage on a die (R176). -/
inductive TrussClass where
  | giver | neutral | gainer
  deriving DecidableEq, Repr

/-- A die's view at a boundary. -/
structure TrussView where
  die    : Nat
  /-- Samples of an interval. -/
  n      : Nat
  nstage : Nat

/-- Average occupancy of a queue at least num/4 of its depth. -/
def StageQ.atLeast (q : StageQ) (n num : Nat) : Bool := num * n * 2 ^ q.log2d ≤ 4 * q.occacc.toNat

/-- `in` of a stage is at least num/4 (R175). (DEDUCED, log 50.) -/
def State.inAtLeast (s : State) (v : TrussView) (st num : Nat) : Bool :=
  let t := tabGet {} s.kernel.stages st
  if t.hasInput then
    (t.inq.filterMap id).any (fun qi => (tabGet {} s.queues qi).atLeast v.n num)
  else num * v.n ≤ 4 * tabGet 0 s.inSamples (16 * v.die + st)

/-- `out` of a stage is at least 3/4. (DEDUCED, log 50.) -/
def State.outHigh (s : State) (v : TrussView) (st : Nat) : Bool :=
  ((tabGet {} s.kernel.stages st).outq.filterMap id).any (fun qi => (tabGet {} s.queues qi).atLeast v.n 3)

/-- Class of a stage (R176). (DEDUCED, log 50.) -/
def State.trussClass (s : State) (v : TrussView) (st : Nat) : TrussClass :=
  if !s.inAtLeast v st 1 || s.outHigh v st then .giver
  else if s.inAtLeast v st 3 then .gainer
  else .neutral

/-- The stage has work on the die (R175). -/
def State.hasWork (s : State) (die st : Nat) : Bool :=
  let t := tabGet {} s.kernel.stages st
  (t.inq.filterMap id).any (fun qi => queueDie (tabGet {} s.queues qi) = die && !s.queueEmpty qi) || s.waitsOn die st

/-- The stage a core counts with: that of its pending move, or its own (R176). -/
def Core.counted (k : Core) : Option Nat :=
  match k.move with
  | some m => m.target
  | none => k.stage

/-- Cores of a die counted with a stage: a core that is drained for service counts with the stage of its pending move only,
and is otherwise held by a giver of minimum 0 (R177). -/
def State.coresWith (s : State) (die st : Nat) : List Nat :=
  (s.coresOf die).filter (fun c =>
    (s.core c).counted == some st && (!(s.core c).drained || (s.core c).move.isSome))

/-- A member of the instance of a tile step still runs (R37). -/
def State.instanceRuns (s : State) (p : TileStep) : Bool :=
  s.steps.any (fun q => q.task == p.task && q.inst == p.inst
    && (q.state == .placed || q.state == .running || q.state == .preempted))

/-- The core holds a member of a placed gang of which some member still runs (R37). -/
def State.pinned (s : State) (c : Nat) : Bool :=
  s.steps.any (fun p => p.core == some c && p.state != .pending && s.instanceRuns p
    && (match s.tasks.find? (fun t => t.id = p.task) with
      | some t => 1 < gangSize t.topb
      | none => false))

/-- The core a stage yields: not pinned, no pending move; the most IDLE contexts, ties to the higher core ID. -/
def State.yielded (s : State) (die st : Nat) : Option Nat :=
  let cs := (s.coresWith die st).filter (fun c => (s.core c).move.isNone && !s.pinned c)
  minBy (fun c => 4 - (s.core c).idleCtxs.length) cs.reverse

/-- Stages by a key, smallest first; equal keys in the order given. -/
def sortStages (key : Nat → Nat) : Nat → List Nat → List Nat
  | 0, _ => []
  | n + 1, l => match minBy key l with
    | none => []
    | some a => a :: sortStages key n (l.filter (· != a))

/-- Stages nearer the sink first, ties to the lower number. -/
def State.nearFirst (s : State) (l : List Nat) : List Nat :=
  sortStages (fun st => 16 * (tabGet {} s.kernel.stages st).dist + st) l.length l

/-- Stages farthest from the sink first, ties to the higher number. -/
def State.farFirst (s : State) (l : List Nat) : List Nat := (s.nearFirst l).reverse

/-- Gives a core its move. -/
def State.moveCore (s : State) (c : Nat) (target : Option Nat) : State :=
  s.modCore c (fun k => { k with move := some { target := target } })

/-- Minimum of a giver (R176). -/
def State.giverMin (s : State) (die st : Nat) : Nat := if s.hasWork die st then 1 else 0

/-- The core that is drained for service and is given next: of those of a stage the one with the most IDLE contexts, ties
to the higher core ID; those of the free pool come last. (DEDUCED, log 52.) -/
def State.drainedCore (s : State) (die : Nat) (stages : List Nat) : Option Nat :=
  let of (st : Option Nat) : List Nat := (s.coresOf die).filter (fun c =>
    let k := s.core c
    k.drained && k.move.isNone && k.stage == st && !s.pinned c)
  firstOf ((stages.map some ++ [none]).map (fun st =>
    minBy (fun c => 4 - (s.core c).idleCtxs.length) (of st).reverse))

/-- take(s) of R177: the core it finds for a stage. A stage that holds a drained core stands among the givers for it. -/
def State.takeCore (s : State) (v : TrussView) (classes : List (Nat × TrussClass)) (st : Nat) (last : Bool) : Option Nat :=
  let free := (s.coresOf v.die).find? (fun c =>
    let k := s.core c
    k.stage.isNone && k.move.isNone && !k.drained)
  let of (cl : TrussClass) : List Nat := s.farFirst ((classes.filter (fun p => p.2 == cl && p.1 != st)).map (·.1))
  let from_ (min : Nat → Nat) (g : Nat) : Option Nat :=
    if min g < (s.coresWith v.die g).length then s.yielded v.die g else none
  let give (g : Nat) : Option Nat :=
    if (of .giver).contains g then firstOf [from_ (s.giverMin v.die) g, s.drainedCore v.die [g]]
    else (s.drainedCore v.die [g]).filter (fun c => (s.core c).stage == some g)
  let giver := firstOf ((s.farFirst (classes.map (·.1)) ).map give ++ [s.drainedCore v.die []])
  match free with
  | some c => some c
  | none => match giver with
    | some c => some c
    | none =>
      if !last then none
      else firstOf ((of .giver ++ of .neutral ++ of .gainer).map (from_ (fun _ => 1)))

/-- Takes a core for a stage while moves remain. -/
def State.takeFor (s : State) (v : TrussView) (classes : List (Nat × TrussClass)) (last : Bool) (moves st : Nat) :
    State × Nat :=
  if 8 ≤ moves then (s, moves)
  else match s.takeCore v classes st last with
    | some c => (s.moveCore c (some st), moves + 1)
    | none => (s, moves)

/-- Step 1 of R177: stages with work and no core. -/
def trussMinimum (v : TrussView) (classes : List (Nat × TrussClass)) : List Nat → State × Nat → State × Nat
  | [], p => p
  | st :: t, p =>
    trussMinimum v classes t
      (if p.1.hasWork v.die st && (p.1.coresWith v.die st).isEmpty then p.1.takeFor v classes true p.2 st else p)

/-- The reserved instance's stage on a die needs cores (R38): fewer can take a member than its group has.
(DEDUCED, log 49.) -/
def State.reservedNeeds (s : State) (die : Nat) : Option Nat :=
  match tabGet none s.reserved die with
  | none => none
  | some i => match s.tasks.find? (fun t => t.id = i) with
    | none => none
    | some t =>
      let ready := (s.coresWith die t.stage).filter (fun c =>
        (s.core c).move.isSome || !(s.core c).freeCtxs.isEmpty)
      if ready.length < groupSize t.topb then some t.stage else none

/-- Step 2 of R177. -/
def trussReserved (v : TrussView) (classes : List (Nat × TrussClass)) : Nat → State × Nat → State × Nat
  | 0, p => p
  | n + 1, p => match p.1.reservedNeeds v.die with
    | none => p
    | some st => trussReserved v classes n (p.1.takeFor v classes true p.2 st)

/-- Step 3 of R177: passes over the gainers. -/
def trussPasses (v : TrussView) (classes : List (Nat × TrussClass)) (gainers : List Nat) : Nat → State × Nat → State × Nat
  | 0, p => p
  | n + 1, p =>
    let q := gainers.foldl (fun (p : State × Nat) st => p.1.takeFor v classes false p.2 st) p
    if q.2 = p.2 then q else trussPasses v classes gainers n q

/-- Cores of DONE stages return to the free pool, uncounted and first (R23, R177); one at a tile-step boundary moves at
once. -/
def State.returnCores (s : State) (die : Nat) : State :=
  (s.coresOf die).foldl (fun s c =>
    let k := s.core c
    let done := match k.stage with
      | some st => s.kernel.nstage ≤ st || (tabGet {} s.kernel.stages st).state == .done
      | none => false
    if k.move.isNone && !s.pinned c && done then (s.moveCore c none).takeMove c else s) s

/-- After its passes the Truss moves the drained cores that no stage has taken, while moves remain (R177, R285).
(DEDUCED, log 52.) -/
def State.leaveDrained (die : Nat) : Nat → State × Nat → State × Nat
  | 0, p => p
  | n + 1, p =>
    if 8 ≤ p.2 then p
    else match p.1.drainedCore die (rangeFrom 0 p.1.kernel.nstage) with
      | some c => State.leaveDrained die n ((p.1.moveCore c none).takeMove c, p.2 + 1)
      | none => p

/-- The Truss acts at this CYCLE: a multiple of BAL, with a kernel loaded, and the session neither CLOSING nor SCRUBBING
(R174). -/
def State.trussDue (s : State) : Bool :=
  s.session.state == .opened && s.kernel.state != .none && s.cycle.toNat % 2 ^ s.kernel.log2bal = 0

/-- An instance that has been PENDING for two whole intervals is reserved on a die, the longest waiting first (R38).
(DEDUCED, log 49.) -/
def State.reserveInstance (s : State) (die : Nat) : State :=
  if (tabGet none s.reserved die).isSome || s.kernel.state == .loading then s
  else
    let bal := 2 ^ s.kernel.log2bal
    let waits := s.steps.filter (fun p => p.state == .pending && p.since.toNat + 2 * bal ≤ s.cycle.toNat
      && (match p.die with
        | some d => d = die
        | none => match s.tasks.find? (fun t => t.id = p.task) with
          | some t => (s.stageDies t.stage).contains die
          | none => false))
    match minBy (fun p => p.since.toNat / bal) waits with
    | some p => { s with reserved := tabSet none s.reserved die (some p.task) }
    | none => s

/-- TRUSS_BALANCE (R174-R177): at each boundary on a die. The die that acts last zeroes OCCACC, which both have read. While a
kernel is LOADING no pass of R177 is made (DESIGN CHOICE, log 87). (DEDUCED, log 50.) -/
def execTrussBalance (die : Nat) (s : State) : Host.Outcome State Fault Refusal :=
  .next (
    if !s.trussDue then s
    else
      let v : TrussView := { die := die, n := 2 ^ s.kernel.log2bal / 256, nstage := s.kernel.nstage }
      let s := (s.returnCores die).reserveInstance die
      let sts := (rangeFrom 0 v.nstage).filter (fun st => (tabGet {} s.kernel.stages st).state != .done)
      let classes := sts.map (fun st => (st, s.trussClass v st))
      let p := if s.kernel.state == .loading then (s, 0)
        else trussPasses v classes (s.nearFirst ((classes.filter (fun p => p.2 == .gainer)).map (·.1))) 8
          (trussReserved v classes 8 (trussMinimum v classes (s.nearFirst sts) (s, 0)))
      let p := State.leaveDrained die 8 p
      let s := { p.1 with inSamples := p.1.inSamples.filter (fun q => q.1 / 16 != die) }
      if die = 1 then
        { s with queues := s.queues.foldl (fun t q => tabSet {} t q.1 { q.2 with occacc := 0 }) s.queues }
      else s)

end Sys2Proof.Machine
end

