-- ==== Sys2Proof/Machine/HostPort.lean ====
section
/-!
DEFINITION. The host ports as responder (R261, R262): RDMA WRITE and RDMA READ of the host into the session's V-space.
-/

namespace Sys2Proof.Machine

/-- The host ports are up, and the queue pair is not in the error state, nor one more than the 64 of its port (R261, R281).
(DEDUCED, log 55.) -/
def State.qpUp (s : State) (q : QpId) : Bool :=
  s.sill.state == .ready && !s.qpError.contains q
    && (s.qps.contains q || (s.qps.filter (fun p => p.port == q.port)).length < 64)

/-- A page that a host access may use (R262): valid, not migrating, in HBM, with the permission asked for.
(DEDUCED, log 28.) -/
def State.hostPage (s : State) (write : Bool) (va : Nat) : Option Nat :=
  match s.walk va with
  | some (level, e) =>
    let pa := leafPa e level va
    if pteMig e || hbmTop ≤ pa || !(if write then pteW e else pteR e) then none else some pa
  | none => none

/-- The access is refused with a NAK for a remote access error (R262): wrong key, no OPEN session, or a page that does not
allow it. -/
def State.hostRefused (s : State) (write : Bool) (key : BitVec 32) (va n : Nat) : Bool :=
  s.session.state != .opened || key != s.session.key || 2 ^ 52 < va + n
    || !(piecesOf va n).all (fun p => (s.hostPage write p.1).isSome)

/-- An answer of the device to the host on a queue pair. (DESIGN CHOICE, log 7.) -/
def State.toHost (s : State) (q : QpId) (o : HostOut) : State := { s.connect q with hostOut := s.hostOut ++ [o] }

/-- Writes the pieces of a host write. -/
def State.hostStore (s : State) (va : Nat) (data : List Byte) : State :=
  (piecesOf va data.length).foldl (fun s p => match s.hostPage true p.1 with
    | some pa => s.hWrite pa ((data.drop (p.1 - va)).take p.2)
    | none => s) s

/-- Reads the pieces of a host read, and whether poison is among them. -/
def State.hostFetch (s : State) (va n : Nat) : List Byte × Bool :=
  (piecesOf va n).foldl (fun acc p => match s.hostPage false p.1 with
    | some pa => (acc.1 ++ s.hRead pa p.2, acc.2 || s.hPoisoned pa p.2)
    | none => acc) ([], false)

/-- Queue pair of a request of the host. -/
def HostCall.qp : HostCall → QpId
  | .write q .. => q
  | .read q .. => q
  | .invalid q => q

/-- A request of the host is answered: a write is performed in HBM and acknowledged, a read served; one that is refused has no
effect; data that cannot be corrected are refused as well (R262, R100). An invalid request puts the queue pair into the error
state (R261). (DEDUCED, log 55.) -/
def State.hostServe (s : State) (r : HostCall) : State :=
  if !s.qpUp r.qp then s
  else match r with
    | .write q key va data =>
      if s.hostRefused true key va data.length then s.toHost q (.nakAccess q)
      else (s.hostStore va data).toHost q (.ack q)
    | .read q key va len =>
      if s.hostRefused false key va len then s.toHost q (.nakAccess q)
      else match s.hostFetch va len with
        | (bs, false) => s.toHost q (.readResponse q bs)
        | (_, true) => s.toHost q (.nakAccess q)
    | .invalid q => ({ s with qpError := s.qpError ++ [q] } : State).toHost q (.nakInvalid q)

/-- A live service holds a request of the host (R285): the walk of its range or its data, or a request of its queue pair before
it. (DESIGN CHOICE, log 62.) -/
def State.hostHeld (s : State) (r : HostCall) : Bool :=
  s.hostIn.any (fun p => p.qp == r.qp) || match r with
    | .write _ key va data => s.session.state == .opened && key == s.session.key && s.rangeHeld va data.length
    | .read _ key va len => s.session.state == .opened && key == s.session.key && s.rangeHeld va len
    | .invalid _ => false

/-- A request of the host is answered, or waits its turn. -/
def State.hostTake (s : State) (r : HostCall) : State :=
  if s.qpUp r.qp && s.hostHeld r then { s with hostIn := s.hostIn ++ [r] } else s.hostServe r

/-- The requests that waited are answered in their order, but for those that are held still. -/
def State.hostCycle (s : State) : State :=
  if s.hostIn.isEmpty then s else s.hostIn.foldl State.hostTake { s with hostIn := [] }

/-- RDMA_WRITE (R262). -/
def execRdmaWrite (q : QpId) (key : BitVec 32) (va : BitVec 64) (data : List Byte) (s : State) :
    Host.Outcome State Fault Refusal :=
  .next (s.hostTake (.write q key va.toNat data))

/-- RDMA_READ (R262). (DEDUCED, log 55.) -/
def execRdmaRead (q : QpId) (key : BitVec 32) (va : BitVec 64) (len : Nat) (s : State) :
    Host.Outcome State Fault Refusal :=
  .next (s.hostTake (.read q key va.toNat len))

/-- RDMA_INVALID_REQUEST (R261): a NAK for an invalid request, and the queue pair enters the error state. -/
def execRdmaInvalidRequest (q : QpId) (s : State) : Host.Outcome State Fault Refusal := .next (s.hostTake (.invalid q))

end Sys2Proof.Machine
end

