-- ==== Sys2Proof/Machine/Sill.lean ====
section
/-!
DEFINITION. The Sill (R281-R286): module reset and bring-up, firmware images, the session and its scrub (R15-R17, R264),
the management commands (R284), live service (R285), thermal limits (R286).
-/

namespace Sys2Proof.Machine

/-- An answer on the management port. (DESIGN CHOICE, log 7.) -/
def State.answer (s : State) (o : MgmtOut) : State := { s with mgmtOut := s.mgmtOut ++ [o] }

/-- Changes the Sill. -/
def State.modSill (s : State) (f : Sill → Sill) : State := { s with sill := f s.sill }

/-! ## Reset and the scrub (R15, R16) -/

/-- MODULE_RESET (R281): every item takes its reset value; fused minima, the counter of free values and what has left the
device stay. (DESIGN CHOICE, log 15.) -/
def execModuleReset (s : State) : Host.Outcome State Fault Refusal :=
  .next { State.reset with
    sill := { minSvn := s.sill.minSvn }, fresh := s.fresh, hostOut := s.hostOut, mgmtOut := s.mgmtOut
    wireOut := s.wireOut }

/-- A core as a scrub leaves it (R16, R67): its service state and error counters stay. -/
def Core.scrub (k : Core) : Core :=
  { inService := k.inService, drained := k.drained, ceSram := k.ceSram, ceIstore := k.ceIstore, ueCore := k.ueCore }

/-- The scrub (R16): S-space with its tags, the cores' memories and registers, the tables, both TLBs and HBM are cleared;
link keys, routes, fabric ID, CYCLE and error counters stay. -/
def State.scrub (s : State) : State :=
  { s with
    codeva := 0, cores := s.cores.map (fun p => (p.1, p.2.scrub)), sspace := [], tags := [], dirty := [], poison := []
    hbm := [], hbmPoison := [], regions := [], queues := [], pushes := [], spills := [], chans := [], tlb := [], tlbBig := []
    sideLogs := [], faults := [], walks := [], walkMiss := [], svc := []
    out := s.out.filter (fun o => o.kind == OutKind.response), inbox := [], gather := [], heldReads := [], readGot := [], portParts := []
    portTold := [], window := [], expected := [], kernel := {}, launching := none, owed := [], tasks := [], steps := []
    bins := [], binAt := 0, reserved := [], placedDies := [], pollAt := 0, inSamples := [], hostPending := []
    hostData := [], heldWrites := [] }

/-- SCRUB_COMPLETE (R16): the scrub ends and the session is SCRUBBED. (DESIGN CHOICE, log 60.) -/
def execScrubComplete (s : State) : Host.Outcome State Fault Refusal :=
  .next (if s.session.state == .scrubbing then { s.scrub with session := { state := .scrubbed } } else s)

/-! ## Firmware images (R282) -/

/-- Fused minimum SVN of an image kind, as SVNCOMMIT may have raised it. (DESIGN CHOICE, log 15.) -/
def State.fusedSvn (s : State) (kind : Nat) : Nat :=
  max (Config.fusedMinSvn kind).toNat (tabGet 0 s.sill.minSvn kind).toNat

def imageKind (b : List Byte) : Nat := fieldAt b 0 4
def imageSvn (b : List Byte) : Nat := fieldAt b 4 4
/-- The body of an image, after its header of 640 bytes. -/
def imageBody (b : List Byte) : List Byte := b.drop 640

/-- Body bytes that the header names (LEN). -/
def imageLen (b : List Byte) : Nat := fieldAt b 8 8

/-- An image that the Sill accepts (R282): its signature verifies over its first 256 bytes, its hash is that of LEN body bytes,
its reserved bytes are zero, its kind is known, its SVN is not below the minimum. (DESIGN CHOICE, log 11.) -/
def State.imageOk (s : State) (b : List Byte) : Bool :=
  pssVerify Config.firmwareKey (b.take 0x100) ((b.drop 0x100).take 384)
    && imageLen b ≤ (imageBody b).length && (b.drop 0x10).take 32 == sha256 ((imageBody b).take (imageLen b))
    && ((b.drop 0x30).take 208).all (· == 0) && 1 ≤ imageKind b && imageKind b ≤ 3
    && s.fusedSvn (imageKind b) ≤ imageSvn b

/-- A verified image as it will run. -/
def imageOf (b : List Byte) : Image :=
  { svn := BitVec.ofNat 32 (imageSvn b), hash := BitVec.ofNat 256 (fieldAt b 0x10 32) }

/-- A verified image runs. -/
def State.install (s : State) (kind : Nat) (i : Image) : State :=
  s.modSill (fun l => { l with images := tabPut l.images kind i })

/-- Every link that is DOWN enters TRAINING (Table 10.5, R281). -/
def State.trainLinks (s : State) : State := (rangeFrom 0 47).foldl State.linkRelock s

/-- The Sill enters BRINGUP: it trains the links (R281). -/
def State.beginBringup (s : State) : State := (s.modSill (fun l => { l with state := .bringup })).trainLinks

/-- SILL_FIRMWARE_VERIFY (R281): the boot ROM verifies the image it loaded: BRINGUP, or RECOVERY with an FW.ERR record. -/
def execSillFirmwareVerify (image : List Byte) (s : State) : Host.Outcome State Fault Refusal :=
  .next (
    if s.sill.state != .rom then s
    else if s.imageOk image && imageKind image = 1 then (s.install 1 (imageOf image)).beginBringup
    else (s.modSill (fun l => { l with state := .recovery })).answer .fwErr)

/-- A link in TRAINING reports the fabric ID (R279). (DESIGN CHOICE, log 34.) -/
def State.helloAll (s : State) : State :=
  (rangeFrom 0 47).foldl (fun s n => if (s.link n).state == .training then s.emitHello n else s) s

/-- BRINGUP_COMPLETE (R15, R281): the fabric ID is written, memory is scrubbed, the Sill is READY and the session
SCRUBBED. -/
def execBringupComplete (fabid : BitVec 11) (s : State) : Host.Outcome State Fault Refusal :=
  .next (
    if s.sill.state != .bringup then s
    else ({ (s.scrub.modSill (fun l => { l with state := .ready })) with
      fabid := fabid, session := { state := .scrubbed } } : State).helloAll)

/-! ## Commands (R284) -/

/-- An operation-starting command acts (R284): CLOSING or SCRUBBING, a core or link under service, an item that still takes
its time. -/
def State.sillActs (s : State) : Bool :=
  s.session.state == .closing || s.session.state == .scrubbing || s.cycle.toNat < s.sill.busyUntil.toNat
    || s.sill.nextImage.isSome || !s.sill.draining.isEmpty || !s.sill.recal.isEmpty

/-- A command that starts an operation: one that the Sill's state does not accept is answered BUSY (R281), and one that comes
while another acts (R284). A module that has shut down answers nothing. -/
def State.command (s : State) (act : State) : State :=
  if s.sill.state == .off then s
  else if s.sill.state != .ready || s.sillActs then s.answer .busy
  else act

/-- A live update of the Sill firmware acts: the other management commands wait for its end (R285). -/
def State.sillUpdates (s : State) : Bool := s.sill.nextImage.any (fun i => i.1 == 1)

/-- Cycles of a microsecond at 3.0 GHz. -/
def microCycles : Nat := 3000

/-- Bounds of Table 10.7, in microseconds, by item: Sill firmware, walk-unit microcode, link tables, HBM retraining. -/
def serviceBound (item : Nat) : Nat :=
  match item with
  | 0 => 2000000 | 1 => 2000 | 2 => 5000 | _ => 50

/-- CYCLE at which a live service that begins now ends: after a free time within its bound (R285). (DESIGN CHOICE, log 62.) -/
def State.serviceEnd (s : State) (item : Nat) : Dword :=
  s.cycle + BitVec.ofNat 64 (Config.serviceCycles item s.fresh % (serviceBound item * microCycles + 1))

/-- DHLAST while a session is OPEN (R266, R283). -/
def State.dhlast (s : State) : Option Word := if s.session.state == .opened then some s.dhseq else none

/-- HEAD of every ring while a session is OPEN (R267). -/
def State.heads (s : State) : List Word :=
  if s.session.state == .opened then (rangeFrom 0 64).map (fun r => (tabGet ({} : Ring) s.session.rings r).head) else []

/-! ### OPEN (R264) -/

/-- Window w of a session descriptor (Table 10.1). -/
def windowOf (d : List Byte) (w : Nat) : Window :=
  let b := fieldAt d (0x88 + 32 * w) 8
  { base := BitVec.ofNat 64 (fieldAt d (0x80 + 32 * w) 8), valid := bits b 63 63 == 1, port := BitVec.ofNat 2 (bits b 57 56)
    qpn := BitVec.ofNat 24 (bits b 55 32), key := BitVec.ofNat 32 b
    size := BitVec.ofNat 64 (fieldAt d (0x90 + 32 * w) 8) }

/-- Ring r of a session descriptor. -/
def ringOf (d : List Byte) (r : Nat) : Ring :=
  let c := fieldAt d (0x280 + 4 * r) 4
  { base := BitVec.ofNat 64 (fieldAt d (0x380 + 2 * r) 2 * 2 ^ 32 + c / 32 * 32), log2n := BitVec.ofNat 5 c
    head := BitVec.ofNat 32 (fieldAt d (0x180 + 4 * r) 4), broken := false }

/-- Fields of a session descriptor. -/
def descPtroot (d : List Byte) : Nat := fieldAt d 0 8
def descLog2l (d : List Byte) : Nat := bits (fieldAt d 0x10 8) 4 0
def descLog2h (d : List Byte) : Nat := bits (fieldAt d 0x10 8) 12 8

/-- The descriptor is malformed (R264). -/
def descMalformed (d : List Byte) : Bool :=
  d.length != 1024 || descPtroot d % 0x200000 != 0 || hbmTop ≤ descPtroot d
    || (rangeFrom 0 64).any (fun r =>
      let g := ringOf d r
      g.log2n == 1 || 16 < g.log2n.toNat || g.base.toNat % 64 != 0)
    || descLog2l d < 10 || 20 < descLog2l d || descLog2h d < 6 || 20 < descLog2h d
    || (rangeFrom 0 8).any (fun w => (windowOf d w).valid && (windowOf d w).size == 0)

/-- Opens a session: its fields, a new remote key, counts from 0, HEAD of every enabled ring written (R152, R213, R214).
(DESIGN CHOICE, log 8.) (DESIGN CHOICE, log 10.) -/
def State.openSession (s : State) (d : List Byte) : State :=
  let key := Config.sessionKey s.fresh
  let s := { s with
    fresh := s.fresh + 1, dhseq := 0, expected := [], window := [], pollAt := 0
    cores := s.cores.map (fun (p : Nat × Core) => (p.1, { p.2 with
      ctxs := p.2.ctxs.map (fun (q : Nat × Ctx) => (q.1, { q.2 with strNext := [] })) }))
    session := {
      state := .opened, ptroot := BitVec.ofNat 64 (descPtroot d), logva := BitVec.ofNat 64 (fieldAt d 8 8)
      log2l := descLog2l d, log2h := descLog2h d, hrecpa := BitVec.ofNat 64 (fieldAt d 0x18 8)
      windows := (rangeFrom 0 8).foldl (fun (t : Tab Window) w => tabSet {} t w (windowOf d w)) []
      rings := (rangeFrom 0 64).foldl (fun (t : Tab Ring) r => tabSet {} t r (ringOf d r)) [], key := key } }
  let s := (rangeFrom 0 64).foldl (fun s r =>
    if (tabGet ({} : Ring) s.session.rings r).live then s.writeHead r else s) s
  s.answer (.opened key)

/-- OPEN (R264). -/
def execOpenCmd (desc : List Byte) (s : State) : Host.Outcome State Fault Refusal :=
  .next (s.command (
    if s.session.state != .scrubbed then s.answer .busy
    else if descMalformed desc then s.answer .badOpen
    else s.openSession desc))

/-! ### CLOSE and SCRUB (R15, R16, R276) -/

/-- The session enters CLOSING: contexts halt at their bundle boundaries, and commands that no unit has accepted are
discarded. (DEDUCED, log 56.) -/
def State.beginClosing (s : State) : State :=
  let halt (cx : Ctx) : Ctx := if cx.step.isSome then { cx with stopped := true } else cx
  { s with
    session := { s.session with state := .closing }
    cores := s.cores.map (fun p => (p.1, { p.2 with
      queues := [], ceResume := [], meResume := [], ctxs := p.2.ctxs.map (fun q => (q.1, halt q.2)) })) }

/-- CLOSE (R15). (DEDUCED, log 56.) -/
def execCloseCmd (s : State) : Host.Outcome State Fault Refusal :=
  .next (s.command (
    if s.session.state == .opened then s.beginClosing.answer .ok else s.answer .busy))

/-- SCRUB (R15, R16): of an OPEN session, a close that ends in its scrub. (DEDUCED, log 56.) -/
def execScrubCmd (s : State) : Host.Outcome State Fault Refusal :=
  .next (s.command (
    if s.session.state == .opened then s.beginClosing.answer .ok
    else if s.session.state == .scrubbed then
      ({ s with session := { s.session with state := .scrubbing } } : State).answer .ok
    else s.answer .busy))

/-- A remote operation has been sent and is not over (R276). (DEDUCED, log 56.) -/
def Out.pending (o : Out) : Bool := o.kind != OutKind.response && o.firstSent.isSome

/-- SESSION_CLOSING_END (R15, R276): every remote operation already sent is over, and SCRUBBING begins.
(DEDUCED, log 56.) -/
def execSessionClosingEnd (s : State) : Host.Outcome State Fault Refusal :=
  .next (
    if s.session.state == .closing && !s.out.any Out.pending then
      { s with session := { s.session with state := .scrubbing } }
    else s)

/-! ### Other commands -/

/-- Code of a session state in a report (DESIGN CHOICE, log 11: R283 names the fields of a report, not their layout). -/
def SessState.code : SessState → Nat
  | .none => 0 | .scrubbed => 1 | .opened => 2 | .closing => 3 | .scrubbing => 4

/-- The bytes of a report, over which the identity key signs. (DESIGN CHOICE, log 11.) -/
def State.reportBytes (s : State) (nonce : List Byte) : List Byte :=
  nonce ++ leBytes Config.certificateSerial.toNat 8
    ++ s.sill.images.flatMap (fun p => leBytes p.1 4 ++ leBytes p.2.svn.toNat 4 ++ leBytes p.2.hash.toNat 32)
    ++ leBytes s.session.state.code 4 ++ leBytes ((s.dhlast.map (·.toNat)).getD 0) 4 ++ leBytes s.cycle.toNat 8

/-- SVNCOMMIT (R282): the fused minimum rises to the running image's SVN, and never falls. (DESIGN CHOICE, log 15.) -/
def State.svncommit (s : State) (ikind : Nat) : State :=
  let svn := (tabGet {} s.sill.images ikind).svn
  if s.fusedSvn ikind < svn.toNat then s.modSill (fun l => { l with minSvn := tabSet 0 l.minSvn ikind svn }) else s

/-- Error counters of every core and stack (R218). -/
def State.errorCounts (s : State) : MgmtOut :=
  .counters (allCores.map (fun c => ((s.core c).ceSram, (s.core c).ceIstore, (s.core c).ueCore)))
    ((rangeFrom 0 8).map (fun n => (tabGet 0 s.ceHbm n, tabGet 0 s.ueHbm n)))

/-- What a command that starts no operation does (R266, R267, R282, R283): IDENT and STATUS are answered in every state of the
Sill, the others in READY alone, else BUSY (R281). (DESIGN CHOICE, log 61.) (DESIGN CHOICE, log 11.) -/
def State.serve (s : State) (m : MgmtCmd) : State :=
  let ready (act : State) : State := if s.sill.state == .ready then act else s.answer .busy
  if s.sill.state == .off then s
  else match m with
    | .ident => s.answer .ident
    | .status => s.answer (.status s.sill.state s.session.state s.dhlast s.heads)
    | .records => ready (s.answer (.records s.sill.records))
    | .readcnt => ready (s.answer s.errorCounts)
    | .attest nonce => ready (s.answer (.attest nonce Config.certificateSerial (s.sill.images.map (·.2)) s.session.state
        s.dhlast s.cycle (Config.attestSignature (s.reportBytes nonce))))
    | .svncommit ikind => ready ((s.svncommit ikind).answer .ok)

/-- A command that starts no operation is answered, or waits for the end of a Sill firmware update (R285).
(DESIGN CHOICE, log 62.) -/
def State.query (s : State) (m : MgmtCmd) : State :=
  if s.sillUpdates then s.modSill (fun l => { l with held := l.held ++ [m] }) else s.serve m

/-- IDENT. (DESIGN CHOICE, log 61.) -/
def execIdentCmd (s : State) : Host.Outcome State Fault Refusal := .next (s.query .ident)

/-- STATUS (R267): it gives DHLAST and each ring's HEAD as well. (DESIGN CHOICE, log 61.) -/
def execStatusCmd (s : State) : Host.Outcome State Fault Refusal := .next (s.query .status)

/-- RECORDS (R266). (DESIGN CHOICE, log 61.) -/
def execRecordsCmd (s : State) : Host.Outcome State Fault Refusal := .next (s.query .records)

/-- ATTEST (R283). (DESIGN CHOICE, log 11.) -/
def execAttestCmd (nonce : List Byte) (s : State) : Host.Outcome State Fault Refusal := .next (s.query (.attest nonce))

/-- SVNCOMMIT (R282). (DESIGN CHOICE, log 15.) -/
def execSvncommit (ikind : Nat) (s : State) : Host.Outcome State Fault Refusal := .next (s.query (.svncommit ikind))

/-- READCNT (R218). (DESIGN CHOICE, log 61.) -/
def execReadcnt (s : State) : Host.Outcome State Fault Refusal := .next (s.query .readcnt)

/-- A live update acts (R285): the image runs once it ends, and walks wait while the walk unit takes its microcode. -/
def State.beginUpdate (s : State) (kind : Nat) (i : Image) : State :=
  let t := s.serviceEnd (kind - 1)
  { s.modSill (fun l => { l with
      busyUntil := t, walksHeld := if kind = 2 then t else l.walksHeld, nextImage := some (kind, i) }) with
    fresh := s.fresh + 1 }

/-- The end of a live update: its image runs, and the commands that waited are answered in their order (R285). -/
def State.endUpdate (s : State) : State :=
  match s.sill.nextImage with
  | some (kind, i) =>
    if s.cycle.toNat < s.sill.busyUntil.toNat then s
    else s.sill.held.foldl State.serve ((s.install kind i).modSill (fun l => { l with nextImage := none, held := [] }))
  | none => s

/-- FWUPD (R281, R282, R285): the image is accepted and its live update begins, or it is refused with FW.ERR and no change; in
RECOVERY a Sill image that verifies starts bring-up. -/
def execFwupd (image : List Byte) (s : State) : Host.Outcome State Fault Refusal :=
  .next (
    if s.sill.state == .recovery then
      if s.imageOk image && imageKind image = 1 then (s.install 1 (imageOf image)).beginBringup.answer .ok else s.answer .fwErr
    else s.command (
      if s.imageOk image then (s.beginUpdate (imageKind image) (imageOf image)).answer .ok else s.answer .fwErr))

/-- The Sill drains a core for service (R177, R285): one in the free pool gets its move at once. (DEDUCED, log 52.) -/
def State.drainCore (s : State) (c : Nat) : State :=
  let s := s.modCore c (fun k => { k with
    drained := true, move := if k.stage.isNone then some { target := none } else k.move })
  s.modSill (fun l => { l with draining := l.draining ++ [c] })

/-- DRAIN (R177). (DESIGN CHOICE, log 89.) -/
def execDrainCmd (core : Nat) (s : State) : Host.Outcome State Fault Refusal :=
  .next (s.command (
    if core < 128 && (s.core core).inService && !(s.core core).drained then (s.drainCore core).answer .ok
    else s.answer .busy))

/-- The Sill writes the PWRLIM of a core, or leaves it (R285, R286). (DESIGN CHOICE, log 62.) -/
def State.powerWrite (s : State) (c : Nat) : State :=
  s.modCore c (fun k => { k with pwrlim := (Config.powerLimit s.fresh c).getD k.pwrlim })

/-- UNDRAIN (R285): the core returns to service in the free pool, with the image and tables of the kernel that is loaded;
PWRLIM may be rewritten. (DEDUCED, log 52.) (DESIGN CHOICE, log 89.) -/
def execUndrainCmd (core : Nat) (s : State) : Host.Outcome State Fault Refusal :=
  .next (s.command (
    let k := s.core core
    if !k.inService then
      let k := { k with inService := true, drained := false, stage := none, move := none }
      let s := s.setCore core (if s.kernel.nbund = 0 || s.kernel.state == .loading then k else k.loadKernel s.kernel)
      ({ s.powerWrite core with fresh := s.fresh + 1 } : State).answer .ok
    else s.answer .busy))

/-- A step of the power control (R286): the Sill holds the sum of its estimates under the limit and the cap by writing
PWRLIM. (DESIGN CHOICE, log 62.) -/
def State.powerStep (s : State) : State :=
  { allCores.foldl State.powerWrite s with fresh := s.fresh + 1 }

/-- RECAL (R285): a link passes through DRAINING, DARK and TRAINING; a core is drained; the accesses to a
pseudo-channel wait while it is retrained. (DEDUCED, log 52.) (DESIGN CHOICE, log 89.) -/
def execRecalCmd (item : RecalItem) (s : State) : Host.Outcome State Fault Refusal :=
  .next (s.command (match item with
    | .link n =>
      if n < 47 && s.linkUp n then
        ((s.linkDrain n).modSill (fun l => { l with recal := l.recal ++ [n] })).answer .ok
      else s.answer .busy
    | .core c =>
      if c < 128 && (s.core c).inService && !(s.core c).drained then (s.drainCore c).answer .ok else s.answer .busy
    | .hbm stack ch =>
      let t := s.serviceEnd 3
      ({ s.modSill (fun l => { l with
          busyUntil := t
          retrain := l.retrain.filter (fun r => s.cycle.toNat < r.2.2.toNat) ++ [(stack, ch, t)] }) with
        fresh := s.fresh + 1 } : State).answer .ok))

/-- The Sill relocks each link it recalibrates once it is DARK; one that has gone DOWN is left. (DEDUCED, log 52.) -/
def State.recalLinks (s : State) : State :=
  s.sill.recal.foldl (fun s n =>
    let forget (s : State) : State := s.modSill (fun l => { l with recal := l.recal.filter (· != n) })
    match (s.link n).state with
    | .dark => forget (s.linkRelock n)
    | .draining => s
    | _ => forget s) s

/-! ## Thermal limits (R286) -/

/-- THERMAL_LIMIT_STEP (R286): every PWRLIM falls by 1/8 of its value. (DESIGN CHOICE, log 62.) -/
def execThermalLimitStep (s : State) : Host.Outcome State Fault Refusal :=
  .next (
    if s.sill.state == .off then s
    else allCores.foldl (fun s c => s.modCore c (fun k => { k with pwrlim := k.pwrlim - k.pwrlim / 8 })) s)

/-- THERMAL_SHUTDOWN (R286): every context and session is lost, and an FW.ERR record goes to the management port.
(DESIGN CHOICE, log 62.) -/
def execThermalShutdown (s : State) : Host.Outcome State Fault Refusal :=
  .next { State.reset with
    sill := { minSvn := s.sill.minSvn, state := .off }, fresh := s.fresh, hostOut := s.hostOut
    mgmtOut := s.mgmtOut ++ [.fwErr], wireOut := s.wireOut }

end Sys2Proof.Machine
end

