-- ==== Sys2Proof/Machine/Bundle.lean ====
section
/-!
DEFINITION. Bundles as they stand in the instruction store: what each slot of a bundle is (Table 11.2), and the cycle of
the Dovetail, in which both seated contexts may issue (R178-R181).
-/

namespace Sys2Proof.Machine

/-! ## Triggers by their port -/

/-- Operations of the trigger ports of `triggers0`. -/
def ops0 : List (Nat × Op) :=
  [(0x010, opVmul), (0x011, opVmulh), (0x012, opVmulhu), (0x013, opVmad), (0x014, opVfmul),
   (0x015, opVffma), (0x016, opVffms), (0x017, opVfnma), (0x018, opVsin), (0x019, opVcos),
   (0x01A, opVexp2), (0x01B, opVlog2), (0x01C, opVrcp), (0x01D, opVrsqrt), (0x01E, opVsqrt),
   (0x020, opVcvtF32I32)]

/-- Operations of the trigger ports of `triggers1`. -/
def ops1 : List (Nat × Op) :=
  [(0x021, opVcvtI32F32), (0x022, opVcvtF32Bf16), (0x023, opVcvtBf16F32), (0x024, opVcvtF32F16), (0x025, opVcvtF16F32),
   (0x026, opVcvtF32E4m3), (0x027, opVcvtE4m3F32), (0x028, opVcvtF32E5m2), (0x029, opVcvtE5m2F32), (0x02A, opVcvtF32Fp4),
   (0x02B, opVcvtFp4F32), (0x02C, opVdecOx4), (0x02D, opVfscale), (0x030, opVld), (0x031, opVst),
   (0x032, opVgld)]

/-- Operations of the trigger ports of `triggers2`. -/
def ops2 : List (Nat × Op) :=
  [(0x033, opVsct), (0x038, opShuf), (0x039, opShufLd), (0x03A, opVredadd), (0x03B, opVredmin),
   (0x03C, opVredmax), (0x03D, opVbcast), (0x080, opVadd), (0x081, opVsub), (0x082, opVadds),
   (0x083, opVsubs), (0x084, opVmin), (0x085, opVmax), (0x086, opVminu), (0x087, opVmaxu),
   (0x088, opVand)]

/-- Operations of the trigger ports of `triggers3`. -/
def ops3 : List (Nat × Op) :=
  [(0x089, opVor), (0x08A, opVxor), (0x08B, opVandn), (0x08C, opVshl), (0x08D, opVshr),
   (0x08E, opVsra), (0x08F, opVsel), (0x090, opVclz), (0x091, opVpopc), (0x092, opVfadd),
   (0x093, opVfsub), (0x094, opVfmin), (0x095, opVfmax), (0x096, opVfabs), (0x097, opVfneg),
   (0x098, opVaddB)]

/-- Operations of the trigger ports of `triggers4`. -/
def ops4 : List (Nat × Op) :=
  [(0x099, opVsubB), (0x09A, opVaddsB), (0x09B, opVsubsB), (0x09C, opVminB), (0x09D, opVmaxB),
   (0x09E, opVminuB), (0x09F, opVmaxuB), (0x0A0, opVandB), (0x0A1, opVorB), (0x0A2, opVxorB),
   (0x0A3, opVandnB), (0x0A4, opVshlB), (0x0A5, opVshrB), (0x0A6, opVsraB), (0x0A7, opVselB),
   (0x0A8, opVclzB)]

/-- Operations of the trigger ports of `triggers5`. -/
def ops5 : List (Nat × Op) :=
  [(0x0A9, opVpopcB), (0x0AA, opVfaddB), (0x0AB, opVfsubB), (0x0AC, opVfminB), (0x0AD, opVfmaxB),
   (0x0AE, opVfabsB), (0x0AF, opVfnegB), (0x160, opAdd), (0x161, opSub), (0x162, opAnd),
   (0x163, opOr), (0x164, opXor), (0x165, opAndn), (0x166, opShl), (0x167, opShr),
   (0x168, opSra)]

/-- Operations of the trigger ports of `triggers6`. -/
def ops6 : List (Nat × Op) :=
  [(0x169, opMin), (0x16A, opMax), (0x16B, opMinu), (0x16C, opMaxu), (0x16D, opClz),
   (0x16E, opCtz), (0x16F, opPopc), (0x170, opBfx), (0x171, opBfxu), (0x172, opBfi),
   (0x173, opSel), (0x174, opLea), (0x175, opSext), (0x176, opZext), (0x177, opSbase),
   (0x180, opAddB)]

/-- Operations of the trigger ports of `triggers7`. -/
def ops7 : List (Nat × Op) :=
  [(0x181, opSubB), (0x182, opAndB), (0x183, opOrB), (0x184, opXorB), (0x185, opAndnB),
   (0x186, opShlB), (0x187, opShrB), (0x188, opSraB), (0x189, opMinB), (0x18A, opMaxB),
   (0x18B, opMinuB), (0x18C, opMaxuB), (0x18D, opClzB), (0x18E, opCtzB), (0x18F, opPopcB),
   (0x190, opBfxB)]

/-- Operations of the trigger ports of `triggers8`. -/
def ops8 : List (Nat × Op) :=
  [(0x191, opBfxuB), (0x192, opBfiB), (0x193, opSelB), (0x194, opLeaB), (0x195, opSextB),
   (0x196, opZextB), (0x197, opSbaseB), (0x1A0, opMul), (0x1A1, opMulh), (0x1A2, opMulhu),
   (0x1A3, opMad), (0x1A4, opDiv), (0x1A5, opDivu), (0x1A6, opRem), (0x1A7, opRemu),
   (0x1B0, opLdW)]

/-- Operations of the trigger ports of `triggers9`. -/
def ops9 : List (Nat × Op) :=
  [(0x1B1, opLdD), (0x1B2, opStW), (0x1B3, opStD), (0x1B4, opLdAcq), (0x1B5, opStRel),
   (0x1B6, opAmoAdd), (0x1B7, opAmoAnd), (0x1B8, opAmoOr), (0x1B9, opAmoMin), (0x1BA, opAmoMax),
   (0x1BB, opAmoSwap), (0x1BC, opAmoCas), (0x1BD, opBarInit), (0x1BE, opBarArr), (0x1BF, opBarExp),
   (0x24B, opGather)]

/-- Operations of the trigger ports of `triggers10`. -/
def ops10 : List (Nat × Op) :=
  [(0x24C, opScatter), (0x259, opFmtWr), (0x2C4, opCprog), (0x2C5, opCflow), (0x2C6, opCskew),
   (0x2C7, opCld), (0x2C8, opCst), (0x2C9, opMstart), (0x2CA, opMstartG), (0x2CB, opMzero),
   (0x2D4, opMdrain), (0x2D5, opMepi), (0x2D6, opMepiAcc), (0x2D7, opMepiRm), (0x2E2, opTileDecl),
   (0x2E3, opTileSub)]

/-- Operations of the trigger ports of `triggers11`. -/
def ops11 : List (Nat × Op) :=
  [(0x2E4, opTileRel), (0x2E5, opTileStat), (0x2EA, opChPost), (0x2EB, opChWait), (0x301, opJmp),
   (0x302, opJmpR), (0x303, opCall), (0x30B, opLoopSet), (0x30C, opLoopBody), (0x30D, opRepeatOp),
   (0x312, opWaitCycle), (0x313, opYield), (0x314, opHalt), (0x315, opTrapOp), (0x316, opBreakOp),
   (0x317, opEret)]

/-- Operations of the trigger ports of `triggers12`. -/
def ops12 : List (Nat × Op) :=
  [(0x318, opPhase), (0x319, opFence), (0x31A, opFenceQ), (0x31B, opFenceSt), (0x31C, opTaskPost),
   (0x31D, opTaskDone), (0x31E, opCsrRd), (0x31F, opCsrWr), (0x320, opCodeMark), (0x321, opTimer),
   (0x322, opTlbInv), (0x323, opTlbFixMapped), (0x324, opCoreSave), (0x325, opCoreLoad), (0x326, opLnkKey),
   (0x327, opLnkGet)]

/-- Operations of the trigger ports of `triggers13`. -/
def ops13 : List (Nat × Op) :=
  [(0x328, opLinkDrain), (0x329, opRtWr), (0x32A, opChWr), (0x32B, opLnkSvc), (0x32C, opPerfClr)]

/-- Operations of the trigger ports that name one operation each (Tables 12.3, 12.4, 12.7, 12.10, 12.11). -/
def ops : List (Nat × Op) :=
  ops0 ++ ops1 ++ ops2 ++ ops3 ++ ops4 ++ ops5 ++ ops6 ++ ops7 ++ ops8 ++ ops9 ++ ops10 ++ ops11 ++ ops12 ++ ops13

/-- The operation of a trigger port of `ops`. -/
def lookupOp (n : Nat) : List (Nat × Op) → Option Op
  | [] => none
  | (d, f) :: t => if d = n then some f else lookupOp n t

/-- Vector compares by condition and pair field (Table 12.5). -/
def vecCompareKind (m : Mv) (p : BitVec 2) : Nat → Option SlotKind
  | 0 => some (.trigger m ((3 : BitVec 4) ++ (p ++ (0 : BitVec 4))) (opVcmpEq p))
  | 1 => some (.trigger m ((3 : BitVec 4) ++ (p ++ (1 : BitVec 4))) (opVcmpNe p))
  | 2 => some (.trigger m ((3 : BitVec 4) ++ (p ++ (2 : BitVec 4))) (opVcmpLt p))
  | 3 => some (.trigger m ((3 : BitVec 4) ++ (p ++ (3 : BitVec 4))) (opVcmpLe p))
  | 4 => some (.trigger m ((3 : BitVec 4) ++ (p ++ (4 : BitVec 4))) (opVcmpLtu p))
  | 5 => some (.trigger m ((3 : BitVec 4) ++ (p ++ (5 : BitVec 4))) (opVcmpLeu p))
  | 6 => some (.trigger m ((3 : BitVec 4) ++ (p ++ (6 : BitVec 4))) (opVcmpFeq p))
  | 7 => some (.trigger m ((3 : BitVec 4) ++ (p ++ (7 : BitVec 4))) (opVcmpFlt p))
  | 8 => some (.trigger m ((3 : BitVec 4) ++ (p ++ (8 : BitVec 4))) (opVcmpFle p))
  | 9 => some (.trigger m ((3 : BitVec 4) ++ (p ++ (9 : BitVec 4))) (opVcmpFun p))
  | _ => none

/-- Scalar compares by condition and pair field (Table 12.5). -/
def scalCompareKind (m : Mv) (p : BitVec 2) : Nat → Option SlotKind
  | 0 => some (.trigger m ((7 : BitVec 4) ++ (p ++ (0 : BitVec 4))) (opCmpEq p))
  | 1 => some (.trigger m ((7 : BitVec 4) ++ (p ++ (1 : BitVec 4))) (opCmpNe p))
  | 2 => some (.trigger m ((7 : BitVec 4) ++ (p ++ (2 : BitVec 4))) (opCmpLt p))
  | 3 => some (.trigger m ((7 : BitVec 4) ++ (p ++ (3 : BitVec 4))) (opCmpLe p))
  | 4 => some (.trigger m ((7 : BitVec 4) ++ (p ++ (4 : BitVec 4))) (opCmpLtu p))
  | 5 => some (.trigger m ((7 : BitVec 4) ++ (p ++ (5 : BitVec 4))) (opCmpLeu p))
  | _ => none

/-- Triggers of copy channel n (Table 12.10). -/
def copyKind (m : Mv) (n : BitVec 3) : Nat → Option SlotKind
  | 0 => some (.trigger m ((0x8 : BitVec 4) ++ (n ++ (0 : BitVec 3))) opCopy)
  | 1 => some (.trigger m ((0x8 : BitVec 4) ++ (n ++ (1 : BitVec 3))) opCopyTr8)
  | 2 => some (.trigger m ((0x8 : BitVec 4) ++ (n ++ (2 : BitVec 3))) opCopyTr16)
  | 3 => some (.trigger m ((0x8 : BitVec 4) ++ (n ++ (3 : BitVec 3))) opCopyNd)
  | 4 => some (.trigger m ((0x8 : BitVec 4) ++ (n ++ (4 : BitVec 3))) opRget)
  | 5 => some (.trigger m ((0x8 : BitVec 4) ++ (n ++ (5 : BitVec 3))) opVatom)
  | _ => none

/-- What a trigger or queue-push port makes of a slot, or nothing. -/
def triggerKind (m : Mv) (d : BitVec 10) : Option SlotKind :=
  let n := d.toNat
  if 0x0B0 ≤ n ∧ n ≤ 0x0B7 then
    some (.trigger m ((0x16 : BitVec 7) ++ d.extractLsb' 0 3) (opXcl (d.extractLsb' 0 3)))
  else if 0x0C0 ≤ n ∧ n ≤ 0x0EF then vecCompareKind m (d.extractLsb' 4 2) (n % 16)
  else if 0x0F8 ≤ n ∧ n ≤ 0x0FB then
    some (.push m ((0x3E : BitVec 8) ++ d.extractLsb' 0 2) (d.extractLsb' 0 2).toNat)
  else if 0x1C0 ≤ n ∧ n ≤ 0x1EF then scalCompareKind m (d.extractLsb' 4 2) (n % 16)
  else if 0x200 ≤ n ∧ n ≤ 0x23F then copyKind m (d.extractLsb' 3 3) (n % 8)
  else if 0x250 ≤ n ∧ n ≤ 0x253 then
    some (.push m ((0x94 : BitVec 8) ++ d.extractLsb' 0 2) (d.extractLsb' 0 2).toNat)
  else if 0x260 ≤ n ∧ n ≤ 0x27F then some (.trigger m ((0x13 : BitVec 5) ++ d.extractLsb' 0 5) opRputSt)
  else if 0x280 ≤ n ∧ n ≤ 0x29F then some (.trigger m ((0x14 : BitVec 5) ++ d.extractLsb' 0 5) opRredSt)
  else if 0x2A0 ≤ n ∧ n ≤ 0x2BF then some (.trigger m ((0x15 : BitVec 5) ++ d.extractLsb' 0 5) opRatomSt)
  else (lookupOp n ops).map (fun op => .trigger m (BitVec.ofNat 10 n) op)

/-- What a slot holds (Table 11.2); a destination that names nothing is reserved (R310). -/
def kindOf (w : BitVec 24) : SlotKind :=
  if slotG w = 7 then .carrier (w.extractLsb' 0 21)
  else if slotS w = 0 ∧ slotD w = 0 then .nop
  else match triggerKind (slotMv w) (slotD w) with
    | some k => k
    | none => if isPlainDest (slotD w) then .move (slotMv w) (slotD w) else .reserved (slotMv w) (slotD w)

/-! ## The bundle at the program counter -/

/-- Bundle at the PC of the issuing plane. -/
def State.pcBundle (s : State) (c x : Nat) : BitVec 192 :=
  let cx := s.ctx c x
  tabGet 0 (s.core c).istore (cx.plane cx.modeSys).pc.toNat

/-- Word of slot k of a bundle (R287). -/
def bundleWord (b : BitVec 192) (k : Nat) : BitVec 24 := b.extractLsb' (24 * k) 24

/-- Occupied slots of a bundle: those that do not hold 0x00_0000 (R180). -/
def occupied (b : BitVec 192) : List Nat := (rangeFrom 0 8).filter (fun k => bundleWord b k != 0)

/-- Its occupied slots. -/
def bundleSlots (b : BitVec 192) : List Slot := (occupied b).map (fun k => { k := k, kind := kindOf (bundleWord b k) })

/-! ## The cycle of the Dovetail (R178-R181) -/

/-- What a context would issue now. -/
inductive Chance where
  /-- It would not issue. -/
  | none
  /-- Its bundle would lose a bank (R83). -/
  | busy
  /-- These occupied slots, from the state with its pops made; a context that completes an operation issues empty bundles
  (R64, R131). -/
  | issues (slots : List Slot) (popped : State)

/-- What a context would issue now, with its sources read in `pre`, the state before the bundles of the cycle.
(DEDUCED, log 57.) -/
def State.chance (pre s : State) (taken : List Nat) (c x : Nat) (slots : List Slot) : Chance :=
  let cx := s.ctx c x
  if !s.canIssue c x then .none
  else if cx.waits then .issues [] pre
  else if !cx.modeSys && cx.completing.isEmpty && (cx.preempt || cx.firstPending.isSome) then .none
  else match pre.judgeOn s taken (s.site c x slots) slots [] with
    | .go _ popped => .issues slots popped
    | .drain => .issues [] pre
    | .busy _ => .busy
    | _ => .none

/-- The context would issue. -/
def Chance.some : Chance → Bool
  | .issues _ _ => true
  | _ => false

/-- Two bundles cannot issue in one cycle (R180). (DEDUCED, log 57.) -/
def clash (p q : List Slot) : Bool :=
  let lp := limitsOf p
  let lq := limitsOf q
  p.any (fun a => q.any (fun b => a.k == b.k)) || 4 < lp.shared + lq.shared || 6 < lp.sreads + lq.sreads
    || (rangeFrom 0 8).any (fun c => 2 < tabGet 0 lp.vreads c + tabGet 0 lq.vreads c)
    || lp.units.any (fun u => lq.units.contains u)

/-- The run of refusals of the secondary ends (R181, Table 7.5). -/
def State.endRefusals (s : State) (c : Nat) : State :=
  let k := s.core c
  let s := if k.refusals = 0 then s else s.sample c 0x07 (s.cycle - k.refusedSince).toNat
  s.modCore c (fun k => { k with refusals := 0, swapRoles := false })

/-- The run of refusals ends where it is context x that issues (R181). -/
def State.endRefusalsOf (s : State) (c x : Nat) : State :=
  if (s.core c).secondary == some x && (s.core c).refusals != 0 then s.endRefusals c else s

/-- The secondary is refused (R180, R181): a run of another context ends. -/
def State.countRefusal (s : State) (c q : Nat) : State :=
  let s := if (s.core c).secondary == some q then s else s.endRefusals c
  (s.modCore c (fun k => { k with
    refusals := k.refusals + 1, secondary := some q
    refusedSince := if k.refusals = 0 then s.cycle else k.refusedSince })).event c 0x04 1

/-- Banks that a context has lost to the other for eight cycles in a row: it wins the next one (R83). -/
def State.bankClaims (s : State) (c x : Nat) : List Nat :=
  ((s.ctx c x).bankLost.filter (fun p => 8 ≤ p.2)).map (·.1)

/-- Banks that the bundle of a context takes in this cycle: of those it still wants, the ones that give. -/
def State.bankTakes (pre s : State) (taken : List Nat) (c x : Nat) (slots : List Slot) : List Nat :=
  let cx := s.ctx c x
  if !s.canIssue c x || cx.waits then []
  else
    let e := s.site c x slots
    let its := (readSlots pre e pre slots).1
    let banks := banksOf pre ((writeItems e pre its).ctx c x) e its
    (distinct banks).filter (fun b => cx.bankWants banks b && (s.core c).bankGives taken b)

/-- Both seated contexts in one cycle: p acts as primary, q as secondary; `swap` says that they have swapped roles. Each
reads its sources before either writes, pops come before pushes, and the secondary is judged and acts on the state that the
primary leaves (R165, R298). (DEDUCED, log 57.) -/
def State.issueBoth (s : State) (c p q : Nat) (swap : Bool) : State :=
  let sp := bundleSlots (s.pcBundle c p)
  let sq := bundleSlots (s.pcBundle c q)
  let claims := s.bankClaims c q
  let ip := s.chance s claims c p sp
  let pre := match ip with
    | .issues _ popped => popped
    | _ => s
  let taken := match ip with
    | .none => []
    | _ => s.bankTakes s claims c p sp
  let s := s.attemptOn s claims c p sp
  match ip, pre.chance s taken c q sq with
  | .issues lp _, .issues lq _ =>
    if clash lp lq then
      if swap then (s.endRefusals c).event c 0x04 1 else (s.endRefusalsOf c p).countRefusal c q
    else ((pre.attemptOn s taken c q sq).endRefusals c).event c 0x03 1
  | _, .issues _ _ => (pre.attemptOn s taken c q sq).endRefusals c
  | ip, _ =>
    let s := pre.attemptOn s taken c q sq
    if swap then s.endRefusals c else if ip.some then s.endRefusalsOf c p else s

/-- One cycle of a core. (DEDUCED, log 57.) -/
def State.issueCycle (s : State) (c : Nat) : State :=
  let k := s.core c
  if k.frozen then s
  else match allCtxs.filter (fun x => (k.ctx x).seatedNow) with
    | [] => s
    | [x] =>
      let slots := bundleSlots (s.pcBundle c x)
      let issues := (s.chance s [] c x slots).some
      let s := s.attempt c x slots
      if issues then s.endRefusalsOf c x else s
    | x :: y :: _ =>
      let ready (x : Nat) : Bool := (s.chance s [] c x (bundleSlots (s.pcBundle c x))).some
      if k.swapRoles && ready x && ready y then s.issueBoth c y x true else s.issueBoth c x y false

/-- BUNDLE_ISSUE (R56, R180): the cycle of a core, in which its seated contexts issue; with `only`, the attempt of one
context. (DEDUCED, log 19.) -/
def execBundleIssue (core : Nat) (only : Option Nat) (s : State) : Host.Outcome State Fault Refusal :=
  .next (match only with
    | some x => s.attempt core x (bundleSlots (s.pcBundle core x))
    | none => s.issueCycle core)

end Sys2Proof.Machine
end

