-- ==== Sys2Proof/Machine/Clock.lean ====
section
/-!
DEFINITION. REFERENCE_CLOCK_CYCLE: what the end of a cycle does on every core and link, and CYCLE + 1 (R4, R78, R158,
R210, R219, R403).
-/

namespace Sys2Proof.Machine

/-! ## The units of a core (R78, R403, R411, R413) -/

/-- Steps per cell that the array takes in this cycle: an array operation in the last cycle of a tick (R78, Table 7.3).
(DESIGN CHOICE, log 70.) -/
def Core.arraySteps (k : Core) : Nat :=
  match k.ce with
  | none => 0
  | some r =>
    let moves := match r.cmd.op with
      | .cld .. => true
      | .cst .. => true
      | _ => false
    if r.stage == .tick && !moves && r.wait ≤ 1 then r.geo.per else 0

/-- Weight of the array at 1, 2 or 4 steps per cycle (Table 2.16). -/
def arrayWeight (steps : Nat) : Nat := if steps = 0 then 0 else if steps = 1 then 80 else if steps = 2 then 120 else 160

/-- The array steps, unless the core freezes (R78). -/
def State.arrayCycle (s : State) (c : Nat) : State :=
  let k := s.core c
  if k.frozen then s
  else
    let n := k.arraySteps
    let s := if n = 0 then s
      else (s.modCore c (fun k => { k with weightNow := k.weightNow + arrayWeight n })).event c 0x07 n
    s.ceCycle c

/-! ## Counters (R158, R210, R219, R222) -/

/-- QSTALL of each full unit of a lenient push rises by one in every cycle that holds the bundle (R158, R207), that in which
the context wakes again included; a unit whose queue has drained in the cycle counts no more after it. -/
def State.countStalls (s : State) (c x : Nat) : State :=
  let us := (s.ctx c x).stalls
  if us.isEmpty then s
  else (s.modCtx c x (fun cx => { cx with
    qstall := us.foldl (fun t u => tabSet 0 t u (satAdd1 (tabGet 0 t u))) cx.qstall
    stalls := match cx.state, cx.block with
      | .blocked, .queueFull vs => vs.filter (fun u => us.contains u && s.queueFull c x u)
      | _, _ => [] })).event c 0x0A 1

/-- BLOCKED contexts of a core. -/
def Core.blockedCount (k : Core) : Nat := (allCtxs.filter (fun x => (k.ctx x).state == .blocked)).length

/-- Event code that counter i selects. -/
def Core.perfEvent (k : Core) (i : Nat) : Nat := bits k.perfSel.toNat (8 * i + 7) (8 * i)

/-- PMCi after the cycle (R210, R219): a write of this cycle wins, and with FRZ a freeze cycle adds nothing. -/
def Core.pmcNext (k : Core) (i : Nat) : Dword :=
  let old := tabGet 0 k.pmc i
  if k.pmcSet.getLsbD i || !k.perfEn.getLsbD i || (k.perfFrz && k.frozen) then old
  else old + BitVec.ofNat 64 (tabGet 0 k.events (k.perfEvent i))

/-- A W1C write to a capture register acts after the samples of its cycle (R210, Table 7.6); `perf.clr` zeroes HCAPMIN and
HCAPMAX whole, as writes of number 0x179 and 0x17A (R354). -/
def Core.capClear (k : Core) (p : Nat × Word) : Core :=
  let v := p.2 &&& 0x80000000
  if p.1 = 0x179 then { k with hcapmin := 0 }
  else if p.1 = 0x17A then { k with hcapmax := 0 }
  else if p.1 = 0x079 then { k with hcapmin := k.hcapmin &&& ~~~ v }
  else if p.1 = 0x07A then { k with hcapmax := k.hcapmax &&& ~~~ v }
  else { k with hbin := tabSet 0 k.hbin (p.1 - 0x080) (tabGet 0 k.hbin (p.1 - 0x080) &&& ~~~ p.2) }

/-- The counters of a core at the end of a cycle. -/
def Core.countCycle (k : Core) : Core :=
  let k := k.capW1c.foldl Core.capClear { k with
    pmc := (rangeFrom 0 4).foldl (fun t i => tabSet 0 t i (k.pmcNext i)) k.pmc }
  { k with capW1c := [], pmcSet := 0, events := [] }

/-- The weights of the last 32 cycles after one more; a window without weight is kept as the empty list. -/
def nextWeights (w : Nat) (ws : List Nat) : List Nat :=
  let l := (w :: ws).take 32
  if l.all (· == 0) then [] else l

/-- The window of the weight sum moves on (R78). -/
def Core.weigh (k : Core) : Core :=
  { k with weights := nextWeights k.weightNow k.weights, weightNow := 0, frozen := false, accepted := [] }

/-- A shuffle swap asked in this cycle takes effect (R97), once however many `shuf.ld` asked for it (R206).
(DESIGN CHOICE, log 84.) -/
def Core.swapShuffle (k : Core) : Core :=
  if k.shufSwap then { k with shufBank := !k.shufBank, shufSwap := false } else k

/-- The run of refusals ends where the secondary has lost its seat (R181, Table 7.5). -/
def State.seatRefusals (s : State) (c : Nat) : State :=
  let k := s.core c
  match k.secondary with
  | some x =>
    if (k.ctx x).seatedNow then s
    else
      let s := if k.refusals = 0 then s else s.sample c 0x07 (s.cycle - k.refusedSince).toNat
      s.modCore c (fun k => { k with refusals := 0, swapRoles := false, secondary := none })
  | none => s

/-- Nothing of the core changes at the end of this cycle. -/
def Core.still (k : Core) : Bool :=
  k.ce.isNone && k.me.isNone && (tabGet [] k.buffers 8).isEmpty && k.weights.isEmpty && k.weightNow == 0 && !k.frozen
    && k.events.isEmpty && k.perfEn == 0 && k.capW1c.isEmpty && k.pmcSet == 0 && k.accepted.isEmpty && !k.shufSwap
    && k.secondary.isNone && k.blockedCount == 0 && k.ctxs.all (fun p => p.2.stalls.isEmpty)

/-- The end of the cycle on one core. -/
def State.coreCycle (s : State) (c : Nat) : State :=
  if (s.core c).still then s
  else
  let s := s.arrayCycle c
  let s := (s.meCycle c).gaCycle c
  let s := allCtxs.foldl (fun s x => s.countStalls c x) s
  let s := (s.event c 0x01 1).event c 0x09 (s.core c).blockedCount
  let s := s.seatRefusals c
  s.modCore c (fun k => k.countCycle.weigh.swapShuffle)

/-! ## The cycle -/

/-- The units, counters and weights of every core. -/
def State.coresCycle (s : State) : State :=
  (s.cores.filter (fun (p : Nat × Core) => !p.2.still)).foldl (fun (s : State) p => s.coreCycle p.1) s

/-- Notes the gangs at the queue heads (R411). -/
def State.gangsCycle (s : State) : State :=
  (s.cores.filter (fun (p : Nat × Core) => !(p.2.queues.isEmpty && p.2.gReady.isEmpty))).foldl
    (fun (s : State) p => s.noteGangs p.1) s

/-- Wakes the BLOCKED contexts whose conditions hold. (DEDUCED, log 20.) -/
def State.wakeAll (s : State) : State :=
  (s.cores.filter (fun (p : Nat × Core) => p.2.blockedCount != 0)).foldl
    (fun (s : State) p => allCtxs.foldl (fun s x => s.unblock p.1 x) s) s

/-- The Sill reports an arrival port that its full side log stalls, once for each stall (R110). -/
def State.tellPort (s : State) (die : Nat) : State :=
  let full := s.logFull (.arrival die)
  if full == s.portTold.contains die then s
  else if full then ({ s with portTold := s.portTold ++ [die] } : State).answer (.sidelogFull (.arrival die))
  else { s with portTold := s.portTold.filter (· != die) }

/-- Cycles of a step of the Sill's power control: 1 ms (R286). (DESIGN CHOICE, log 62.) -/
def powerCycles : Nat := 1000 * microCycles

/-- The Sill's part of the end of a cycle: links under recalibration, stalled arrival ports, the power control. -/
def State.sillCycle (s : State) : State :=
  let s := [0, 1].foldl State.tellPort s.recalLinks
  if s.sill.state == .ready && (s.cycle.toNat + 1) % powerCycles = 0 then s.powerStep else s

/-- What the end of a live service lets go on (R285): the new image, the held writes, the held requests of the host. -/
def State.serviceCycle (s : State) : State := s.endUpdate.releaseWrites.hostCycle

/-- REFERENCE_CLOCK_CYCLE (R4): the end of a cycle. The queue unit applies the pushes of the cycle, after its pops (R165). -/
def execReferenceClockCycle (s : State) : Host.Outcome State Fault Refusal :=
  .next (
    let s := s.applyPushes.coresCycle.gangsCycle
    let s := (rangeFrom 0 47).foldl State.linkPump s.ringsFinish
    let s := s.sillCycle.failQpErrors
    ({ s with cycle := s.cycle + 1, placedDies := [] } : State).serviceCycle.wakeAll)

end Sys2Proof.Machine
end

