-- ==== Sys2Proof/Machine/Dispatch.lean ====
section
/-!
DEFINITION. Dispatch: the meaning of every row of the opcode table.
-/

namespace Sys2Proof.Machine

/-- What an instruction does. -/
def exec (i : Instr) (s : State) : Host.Outcome State Fault Refusal :=
  match i with
  | .moduleReset => Sys2Proof.Machine.execModuleReset s
  | .sillFirmwareVerify image => Sys2Proof.Machine.execSillFirmwareVerify image s
  | .bringupComplete fabid => Sys2Proof.Machine.execBringupComplete fabid s
  | .identCmd => Sys2Proof.Machine.execIdentCmd s
  | .statusCmd => Sys2Proof.Machine.execStatusCmd s
  | .openCmd desc => Sys2Proof.Machine.execOpenCmd desc s
  | .closeCmd => Sys2Proof.Machine.execCloseCmd s
  | .scrubCmd => Sys2Proof.Machine.execScrubCmd s
  | .recordsCmd => Sys2Proof.Machine.execRecordsCmd s
  | .attestCmd nonce => Sys2Proof.Machine.execAttestCmd nonce s
  | .fwupd image => Sys2Proof.Machine.execFwupd image s
  | .svncommit ikind => Sys2Proof.Machine.execSvncommit ikind s
  | .recalCmd item => Sys2Proof.Machine.execRecalCmd item s
  | .drainCmd core => Sys2Proof.Machine.execDrainCmd core s
  | .undrainCmd core => Sys2Proof.Machine.execUndrainCmd core s
  | .readcnt => Sys2Proof.Machine.execReadcnt s
  | .sessionClosingEnd => Sys2Proof.Machine.execSessionClosingEnd s
  | .scrubComplete => Sys2Proof.Machine.execScrubComplete s
  | .workRingPoll => Sys2Proof.Machine.execWorkRingPoll s
  | .nopRequest ring => Sys2Proof.Machine.execNopRequest ring s
  | .unknownRequest ring => Sys2Proof.Machine.execUnknownRequest ring s
  | .klaunch ring => Sys2Proof.Machine.execKlaunch ring s
  | .kernelLoadComplete => Sys2Proof.Machine.execKernelLoadComplete s
  | .taskRequest ring => Sys2Proof.Machine.execTaskRequest ring s
  | .closeRequest ring => Sys2Proof.Machine.execCloseRequest ring s
  | .taskForm stage => Sys2Proof.Machine.execTaskForm stage s
  | .dispatcherBinDrain => Sys2Proof.Machine.execDispatcherBinDrain s
  | .tileStepPlace => Sys2Proof.Machine.execTileStepPlace s
  | .gangPlace => Sys2Proof.Machine.execGangPlace s
  | .tileStepRetire core ctx => Sys2Proof.Machine.execTileStepRetire core ctx s
  | .trussBalance die => Sys2Proof.Machine.execTrussBalance die s
  | .occupancySample => Sys2Proof.Machine.execOccupancySample s
  | .coreMoveTakeEffect core => Sys2Proof.Machine.execCoreMoveTakeEffect core s
  | .bundleIssue core only => Sys2Proof.Machine.execBundleIssue core only s
  | .dovetailSeat core => Sys2Proof.Machine.execDovetailSeat core s
  | .dovetailRotation core => Sys2Proof.Machine.execDovetailRotation core s
  | .dovetailRoleSwap core => Sys2Proof.Machine.execDovetailRoleSwap core s
  | .freezeCycle core => Sys2Proof.Machine.execFreezeCycle core s
  | .longLatencyArrival core ctx idx => Sys2Proof.Machine.execLongLatencyArrival core ctx idx s
  | .trapDelivery core ctx => Sys2Proof.Machine.execTrapDelivery core ctx s
  | .timerExpiry core ctx => Sys2Proof.Machine.execTimerExpiry core ctx s
  | .kChunkDrain core => Sys2Proof.Machine.execKChunkDrain core s
  | .imageSaveComplete core => Sys2Proof.Machine.execImageSaveComplete core s
  | .eccCorrected unit => Sys2Proof.Machine.execEccCorrected unit s
  | .eccUncorrectable place => Sys2Proof.Machine.execEccUncorrectable place s
  | .phaseOpen core => Sys2Proof.Machine.execPhaseOpen core s
  | .engineCommandAccept core unit => Sys2Proof.Machine.execEngineCommandAccept core unit s
  | .copyEligible core ch id => Sys2Proof.Machine.execCopyEligible core ch id s
  | .copyPiece die engine => Sys2Proof.Machine.execCopyPiece die engine s
  | .copyComplete core ch id => Sys2Proof.Machine.execCopyComplete core ch id s
  | .tlbWalk die va => Sys2Proof.Machine.execTlbWalk die va s
  | .streamArrival idx => Sys2Proof.Machine.execStreamArrival idx s
  | .refusedResend idx => Sys2Proof.Machine.execRefusedResend idx s
  | .commitAcknowledgement idx => Sys2Proof.Machine.execCommitAcknowledgement idx s
  | .readRequest idx => Sys2Proof.Machine.execReadRequest idx s
  | .readData idx => Sys2Proof.Machine.execReadData idx s
  | .collectiveContribution idx => Sys2Proof.Machine.execCollectiveContribution idx s
  | .setupContribution idx => Sys2Proof.Machine.execSetupContribution idx s
  | .channelElement idx => Sys2Proof.Machine.execChannelElement idx s
  | .channelCredit idx => Sys2Proof.Machine.execChannelCredit idx s
  | .operationUnreachable idx => Sys2Proof.Machine.execOperationUnreachable idx s
  | .dataFlitSend link => Sys2Proof.Machine.execDataFlitSend link s
  | .idleFlitSend link => Sys2Proof.Machine.execIdleFlitSend link s
  | .dataFlit link flit => Sys2Proof.Machine.execDataFlit link flit s
  | .ack link flit => Sys2Proof.Machine.execAck link flit s
  | .retryreq link flit => Sys2Proof.Machine.execRetryreq link flit s
  | .creditFlit link flit => Sys2Proof.Machine.execCreditFlit link flit s
  | .keymark link flit => Sys2Proof.Machine.execKeymark link flit s
  | .drainFlit link flit => Sys2Proof.Machine.execDrainFlit link flit s
  | .hello link flit => Sys2Proof.Machine.execHello link flit s
  | .unknownFlit link flit => Sys2Proof.Machine.execUnknownFlit link flit s
  | .linkLockLoss link => Sys2Proof.Machine.execLinkLockLoss link s
  | .linkSilenceTimeout link => Sys2Proof.Machine.execLinkSilenceTimeout link s
  | .rdmaWrite q key va data => Sys2Proof.Machine.execRdmaWrite q key va data s
  | .rdmaRead q key va len => Sys2Proof.Machine.execRdmaRead q key va len s
  | .rdmaInvalidRequest q => Sys2Proof.Machine.execRdmaInvalidRequest q s
  | .thermalLimitStep => Sys2Proof.Machine.execThermalLimitStep s
  | .thermalShutdown => Sys2Proof.Machine.execThermalShutdown s
  | .loaderFillBegin core ring => Sys2Proof.Machine.execLoaderFillBegin core ring s
  | .tileFillComplete core tile => Sys2Proof.Machine.execTileFillComplete core tile s
  | .storerDrainComplete core tile => Sys2Proof.Machine.execStorerDrainComplete core tile s
  | .tileReleaseEffect core tile => Sys2Proof.Machine.execTileReleaseEffect core tile s
  | .overflowRefill queue => Sys2Proof.Machine.execOverflowRefill queue s
  | .arrayPassDue core => Sys2Proof.Machine.execArrayPassDue core s
  | .mstartGBegin core => Sys2Proof.Machine.execMstartGBegin core s
  | .epilogueComplete core => Sys2Proof.Machine.execEpilogueComplete core s
  | .releaseComplete core ctx => Sys2Proof.Machine.execReleaseComplete core ctx s
  | .referenceClockCycle => Sys2Proof.Machine.execReferenceClockCycle s
  | .meshStorePerformed core ctx idx => Sys2Proof.Machine.execMeshStorePerformed core ctx idx s
  | .ceCommandDuePoint core => Sys2Proof.Machine.execCeCommandDuePoint core s
  | .idleFlit link flit => Sys2Proof.Machine.execIdleFlit link flit s
  | .hostRdmaResponse q resp => Sys2Proof.Machine.execHostRdmaResponse q resp s
  | .sillPreemptionRequest core areas => Sys2Proof.Machine.execSillPreemptionRequest core areas s
  | .nop g e h => Sys2Proof.Machine.execNop g e h s
  | .immediateCarrier imm => Sys2Proof.Machine.execImmediateCarrier imm s
  | .discardMove m => Sys2Proof.Machine.execDiscardMove m s
  | .move m d => Sys2Proof.Machine.execMove m d s
  | .queuePush m k => Sys2Proof.Machine.execQueuePush m k s
  | .queuePushShared m k => Sys2Proof.Machine.execQueuePushShared m k s
  | .queuePop g e h k d => Sys2Proof.Machine.execQueuePop g e h k d s
  | .queuePopShared g e h k d => Sys2Proof.Machine.execQueuePopShared g e h k d s
  | .queuePeek g e h k d => Sys2Proof.Machine.execQueuePeek g e h k d s
  | .queuePeekShared g e h k d => Sys2Proof.Machine.execQueuePeekShared g e h k d s
  | .vadd m => Sys2Proof.Machine.execVadd m s
  | .vsub m => Sys2Proof.Machine.execVsub m s
  | .vadds m => Sys2Proof.Machine.execVadds m s
  | .vsubs m => Sys2Proof.Machine.execVsubs m s
  | .vmin m => Sys2Proof.Machine.execVmin m s
  | .vmax m => Sys2Proof.Machine.execVmax m s
  | .vminu m => Sys2Proof.Machine.execVminu m s
  | .vmaxu m => Sys2Proof.Machine.execVmaxu m s
  | .vand m => Sys2Proof.Machine.execVand m s
  | .vor m => Sys2Proof.Machine.execVor m s
  | .vxor m => Sys2Proof.Machine.execVxor m s
  | .vandn m => Sys2Proof.Machine.execVandn m s
  | .vshl m => Sys2Proof.Machine.execVshl m s
  | .vshr m => Sys2Proof.Machine.execVshr m s
  | .vsra m => Sys2Proof.Machine.execVsra m s
  | .vsel m => Sys2Proof.Machine.execVsel m s
  | .vclz m => Sys2Proof.Machine.execVclz m s
  | .vpopc m => Sys2Proof.Machine.execVpopc m s
  | .vfadd m => Sys2Proof.Machine.execVfadd m s
  | .vfsub m => Sys2Proof.Machine.execVfsub m s
  | .vfmin m => Sys2Proof.Machine.execVfmin m s
  | .vfmax m => Sys2Proof.Machine.execVfmax m s
  | .vfabs m => Sys2Proof.Machine.execVfabs m s
  | .vfneg m => Sys2Proof.Machine.execVfneg m s
  | .vaddB m => Sys2Proof.Machine.execVaddB m s
  | .vsubB m => Sys2Proof.Machine.execVsubB m s
  | .vaddsB m => Sys2Proof.Machine.execVaddsB m s
  | .vsubsB m => Sys2Proof.Machine.execVsubsB m s
  | .vminB m => Sys2Proof.Machine.execVminB m s
  | .vmaxB m => Sys2Proof.Machine.execVmaxB m s
  | .vminuB m => Sys2Proof.Machine.execVminuB m s
  | .vmaxuB m => Sys2Proof.Machine.execVmaxuB m s
  | .vandB m => Sys2Proof.Machine.execVandB m s
  | .vorB m => Sys2Proof.Machine.execVorB m s
  | .vxorB m => Sys2Proof.Machine.execVxorB m s
  | .vandnB m => Sys2Proof.Machine.execVandnB m s
  | .vshlB m => Sys2Proof.Machine.execVshlB m s
  | .vshrB m => Sys2Proof.Machine.execVshrB m s
  | .vsraB m => Sys2Proof.Machine.execVsraB m s
  | .vselB m => Sys2Proof.Machine.execVselB m s
  | .vclzB m => Sys2Proof.Machine.execVclzB m s
  | .vpopcB m => Sys2Proof.Machine.execVpopcB m s
  | .vfaddB m => Sys2Proof.Machine.execVfaddB m s
  | .vfsubB m => Sys2Proof.Machine.execVfsubB m s
  | .vfminB m => Sys2Proof.Machine.execVfminB m s
  | .vfmaxB m => Sys2Proof.Machine.execVfmaxB m s
  | .vfabsB m => Sys2Proof.Machine.execVfabsB m s
  | .vfnegB m => Sys2Proof.Machine.execVfnegB m s
  | .vcmpEq m p => Sys2Proof.Machine.execVcmpEq m p s
  | .vcmpNe m p => Sys2Proof.Machine.execVcmpNe m p s
  | .vcmpLt m p => Sys2Proof.Machine.execVcmpLt m p s
  | .vcmpLe m p => Sys2Proof.Machine.execVcmpLe m p s
  | .vcmpLtu m p => Sys2Proof.Machine.execVcmpLtu m p s
  | .vcmpLeu m p => Sys2Proof.Machine.execVcmpLeu m p s
  | .vcmpFeq m p => Sys2Proof.Machine.execVcmpFeq m p s
  | .vcmpFlt m p => Sys2Proof.Machine.execVcmpFlt m p s
  | .vcmpFle m p => Sys2Proof.Machine.execVcmpFle m p s
  | .vcmpFun m p => Sys2Proof.Machine.execVcmpFun m p s
  | .vmul m => Sys2Proof.Machine.execVmul m s
  | .vmulh m => Sys2Proof.Machine.execVmulh m s
  | .vmulhu m => Sys2Proof.Machine.execVmulhu m s
  | .vmad m => Sys2Proof.Machine.execVmad m s
  | .vfmul m => Sys2Proof.Machine.execVfmul m s
  | .vffma m => Sys2Proof.Machine.execVffma m s
  | .vffms m => Sys2Proof.Machine.execVffms m s
  | .vfnma m => Sys2Proof.Machine.execVfnma m s
  | .vsin m => Sys2Proof.Machine.execVsin m s
  | .vcos m => Sys2Proof.Machine.execVcos m s
  | .vexp2 m => Sys2Proof.Machine.execVexp2 m s
  | .vlog2 m => Sys2Proof.Machine.execVlog2 m s
  | .vrcp m => Sys2Proof.Machine.execVrcp m s
  | .vrsqrt m => Sys2Proof.Machine.execVrsqrt m s
  | .vsqrt m => Sys2Proof.Machine.execVsqrt m s
  | .vcvtF32I32 m => Sys2Proof.Machine.execVcvtF32I32 m s
  | .vcvtI32F32 m => Sys2Proof.Machine.execVcvtI32F32 m s
  | .vcvtF32Bf16 m => Sys2Proof.Machine.execVcvtF32Bf16 m s
  | .vcvtBf16F32 m => Sys2Proof.Machine.execVcvtBf16F32 m s
  | .vcvtF32F16 m => Sys2Proof.Machine.execVcvtF32F16 m s
  | .vcvtF16F32 m => Sys2Proof.Machine.execVcvtF16F32 m s
  | .vcvtF32E4m3 m => Sys2Proof.Machine.execVcvtF32E4m3 m s
  | .vcvtE4m3F32 m => Sys2Proof.Machine.execVcvtE4m3F32 m s
  | .vcvtF32E5m2 m => Sys2Proof.Machine.execVcvtF32E5m2 m s
  | .vcvtE5m2F32 m => Sys2Proof.Machine.execVcvtE5m2F32 m s
  | .vcvtF32Fp4 m => Sys2Proof.Machine.execVcvtF32Fp4 m s
  | .vcvtFp4F32 m => Sys2Proof.Machine.execVcvtFp4F32 m s
  | .vdecOx4 m => Sys2Proof.Machine.execVdecOx4 m s
  | .vfscale m => Sys2Proof.Machine.execVfscale m s
  | .vld m => Sys2Proof.Machine.execVld m s
  | .vst m => Sys2Proof.Machine.execVst m s
  | .vgld m => Sys2Proof.Machine.execVgld m s
  | .vsct m => Sys2Proof.Machine.execVsct m s
  | .shuf m => Sys2Proof.Machine.execShuf m s
  | .shufLd m => Sys2Proof.Machine.execShufLd m s
  | .vredadd m => Sys2Proof.Machine.execVredadd m s
  | .vredmin m => Sys2Proof.Machine.execVredmin m s
  | .vredmax m => Sys2Proof.Machine.execVredmax m s
  | .vbcast m => Sys2Proof.Machine.execVbcast m s
  | .xcl m j => Sys2Proof.Machine.execXcl m j s
  | .add m => Sys2Proof.Machine.execAdd m s
  | .sub m => Sys2Proof.Machine.execSub m s
  | .and m => Sys2Proof.Machine.execAnd m s
  | .or m => Sys2Proof.Machine.execOr m s
  | .xor m => Sys2Proof.Machine.execXor m s
  | .andn m => Sys2Proof.Machine.execAndn m s
  | .shl m => Sys2Proof.Machine.execShl m s
  | .shr m => Sys2Proof.Machine.execShr m s
  | .sra m => Sys2Proof.Machine.execSra m s
  | .min m => Sys2Proof.Machine.execMin m s
  | .max m => Sys2Proof.Machine.execMax m s
  | .minu m => Sys2Proof.Machine.execMinu m s
  | .maxu m => Sys2Proof.Machine.execMaxu m s
  | .clz m => Sys2Proof.Machine.execClz m s
  | .ctz m => Sys2Proof.Machine.execCtz m s
  | .popc m => Sys2Proof.Machine.execPopc m s
  | .bfx m => Sys2Proof.Machine.execBfx m s
  | .bfxu m => Sys2Proof.Machine.execBfxu m s
  | .bfi m => Sys2Proof.Machine.execBfi m s
  | .sel m => Sys2Proof.Machine.execSel m s
  | .lea m => Sys2Proof.Machine.execLea m s
  | .sext m => Sys2Proof.Machine.execSext m s
  | .zext m => Sys2Proof.Machine.execZext m s
  | .sbase m => Sys2Proof.Machine.execSbase m s
  | .addB m => Sys2Proof.Machine.execAddB m s
  | .subB m => Sys2Proof.Machine.execSubB m s
  | .andB m => Sys2Proof.Machine.execAndB m s
  | .orB m => Sys2Proof.Machine.execOrB m s
  | .xorB m => Sys2Proof.Machine.execXorB m s
  | .andnB m => Sys2Proof.Machine.execAndnB m s
  | .shlB m => Sys2Proof.Machine.execShlB m s
  | .shrB m => Sys2Proof.Machine.execShrB m s
  | .sraB m => Sys2Proof.Machine.execSraB m s
  | .minB m => Sys2Proof.Machine.execMinB m s
  | .maxB m => Sys2Proof.Machine.execMaxB m s
  | .minuB m => Sys2Proof.Machine.execMinuB m s
  | .maxuB m => Sys2Proof.Machine.execMaxuB m s
  | .clzB m => Sys2Proof.Machine.execClzB m s
  | .ctzB m => Sys2Proof.Machine.execCtzB m s
  | .popcB m => Sys2Proof.Machine.execPopcB m s
  | .bfxB m => Sys2Proof.Machine.execBfxB m s
  | .bfxuB m => Sys2Proof.Machine.execBfxuB m s
  | .bfiB m => Sys2Proof.Machine.execBfiB m s
  | .selB m => Sys2Proof.Machine.execSelB m s
  | .leaB m => Sys2Proof.Machine.execLeaB m s
  | .sextB m => Sys2Proof.Machine.execSextB m s
  | .zextB m => Sys2Proof.Machine.execZextB m s
  | .sbaseB m => Sys2Proof.Machine.execSbaseB m s
  | .cmpEq m p => Sys2Proof.Machine.execCmpEq m p s
  | .cmpNe m p => Sys2Proof.Machine.execCmpNe m p s
  | .cmpLt m p => Sys2Proof.Machine.execCmpLt m p s
  | .cmpLe m p => Sys2Proof.Machine.execCmpLe m p s
  | .cmpLtu m p => Sys2Proof.Machine.execCmpLtu m p s
  | .cmpLeu m p => Sys2Proof.Machine.execCmpLeu m p s
  | .mul m => Sys2Proof.Machine.execMul m s
  | .mulh m => Sys2Proof.Machine.execMulh m s
  | .mulhu m => Sys2Proof.Machine.execMulhu m s
  | .mad m => Sys2Proof.Machine.execMad m s
  | .div m => Sys2Proof.Machine.execDiv m s
  | .divu m => Sys2Proof.Machine.execDivu m s
  | .rem m => Sys2Proof.Machine.execRem m s
  | .remu m => Sys2Proof.Machine.execRemu m s
  | .ldW m => Sys2Proof.Machine.execLdW m s
  | .ldD m => Sys2Proof.Machine.execLdD m s
  | .stW m => Sys2Proof.Machine.execStW m s
  | .stD m => Sys2Proof.Machine.execStD m s
  | .ldAcq m => Sys2Proof.Machine.execLdAcq m s
  | .stRel m => Sys2Proof.Machine.execStRel m s
  | .amoAdd m => Sys2Proof.Machine.execAmoAdd m s
  | .amoAnd m => Sys2Proof.Machine.execAmoAnd m s
  | .amoOr m => Sys2Proof.Machine.execAmoOr m s
  | .amoMin m => Sys2Proof.Machine.execAmoMin m s
  | .amoMax m => Sys2Proof.Machine.execAmoMax m s
  | .amoSwap m => Sys2Proof.Machine.execAmoSwap m s
  | .amoCas m => Sys2Proof.Machine.execAmoCas m s
  | .barInit m => Sys2Proof.Machine.execBarInit m s
  | .barRelease m => Sys2Proof.Machine.execBarRelease m s
  | .barArr m => Sys2Proof.Machine.execBarArr m s
  | .barExp m => Sys2Proof.Machine.execBarExp m s
  | .copy m n => Sys2Proof.Machine.execCopy m n s
  | .copyTr8 m n => Sys2Proof.Machine.execCopyTr8 m n s
  | .copyTr16 m n => Sys2Proof.Machine.execCopyTr16 m n s
  | .copyNd m n => Sys2Proof.Machine.execCopyNd m n s
  | .rget m n => Sys2Proof.Machine.execRget m n s
  | .vatom m n => Sys2Proof.Machine.execVatom m n s
  | .rputSt m t => Sys2Proof.Machine.execRputSt m t s
  | .rredSt m t => Sys2Proof.Machine.execRredSt m t s
  | .ratomSt m t => Sys2Proof.Machine.execRatomSt m t s
  | .gather m => Sys2Proof.Machine.execGather m s
  | .scatter m => Sys2Proof.Machine.execScatter m s
  | .fmtWr m => Sys2Proof.Machine.execFmtWr m s
  | .cprog m => Sys2Proof.Machine.execCprog m s
  | .cflow m => Sys2Proof.Machine.execCflow m s
  | .cskew m => Sys2Proof.Machine.execCskew m s
  | .cld m => Sys2Proof.Machine.execCld m s
  | .cst m => Sys2Proof.Machine.execCst m s
  | .mstart m => Sys2Proof.Machine.execMstart m s
  | .mstartG m => Sys2Proof.Machine.execMstartG m s
  | .mzero m => Sys2Proof.Machine.execMzero m s
  | .mdrain m => Sys2Proof.Machine.execMdrain m s
  | .mepi m => Sys2Proof.Machine.execMepi m s
  | .mepiAcc m => Sys2Proof.Machine.execMepiAcc m s
  | .mepiRm m => Sys2Proof.Machine.execMepiRm m s
  | .tileDecl m => Sys2Proof.Machine.execTileDecl m s
  | .tileSub m => Sys2Proof.Machine.execTileSub m s
  | .tileRel m => Sys2Proof.Machine.execTileRel m s
  | .tileStat m => Sys2Proof.Machine.execTileStat m s
  | .chPost m => Sys2Proof.Machine.execChPost m s
  | .chWait m => Sys2Proof.Machine.execChWait m s
  | .jmp m => Sys2Proof.Machine.execJmp m s
  | .jmpR m => Sys2Proof.Machine.execJmpR m s
  | .call m => Sys2Proof.Machine.execCall m s
  | .loopSet m => Sys2Proof.Machine.execLoopSet m s
  | .loopBody m => Sys2Proof.Machine.execLoopBody m s
  | .repeatOp m => Sys2Proof.Machine.execRepeatOp m s
  | .waitCycle m => Sys2Proof.Machine.execWaitCycle m s
  | .waitTdone m => Sys2Proof.Machine.execWaitTdone m s
  | .waitBarrier m => Sys2Proof.Machine.execWaitBarrier m s
  | .yield m => Sys2Proof.Machine.execYield m s
  | .halt m => Sys2Proof.Machine.execHalt m s
  | .trapOp m => Sys2Proof.Machine.execTrapOp m s
  | .breakOp m => Sys2Proof.Machine.execBreakOp m s
  | .eret m => Sys2Proof.Machine.execEret m s
  | .phase m => Sys2Proof.Machine.execPhase m s
  | .fence m => Sys2Proof.Machine.execFence m s
  | .fenceQ m => Sys2Proof.Machine.execFenceQ m s
  | .fenceSt m => Sys2Proof.Machine.execFenceSt m s
  | .taskPost m => Sys2Proof.Machine.execTaskPost m s
  | .taskDone m => Sys2Proof.Machine.execTaskDone m s
  | .csrRd m => Sys2Proof.Machine.execCsrRd m s
  | .csrWr m => Sys2Proof.Machine.execCsrWr m s
  | .codeMark m => Sys2Proof.Machine.execCodeMark m s
  | .timer m => Sys2Proof.Machine.execTimer m s
  | .tlbInv m => Sys2Proof.Machine.execTlbInv m s
  | .tlbFixMapped m => Sys2Proof.Machine.execTlbFixMapped m s
  | .tlbFixUnmappable m => Sys2Proof.Machine.execTlbFixUnmappable m s
  | .tlbFixMigrated m => Sys2Proof.Machine.execTlbFixMigrated m s
  | .coreSave m => Sys2Proof.Machine.execCoreSave m s
  | .coreLoad m => Sys2Proof.Machine.execCoreLoad m s
  | .lnkKey m => Sys2Proof.Machine.execLnkKey m s
  | .lnkGet m => Sys2Proof.Machine.execLnkGet m s
  | .linkDrain m => Sys2Proof.Machine.execLinkDrain m s
  | .linkRelock m => Sys2Proof.Machine.execLinkRelock m s
  | .linkSwitch m => Sys2Proof.Machine.execLinkSwitch m s
  | .linkKdue m => Sys2Proof.Machine.execLinkKdue m s
  | .linkDownCommand m => Sys2Proof.Machine.execLinkDownCommand m s
  | .rtWr m => Sys2Proof.Machine.execRtWr m s
  | .chWr m => Sys2Proof.Machine.execChWr m s
  | .lnkSvc m => Sys2Proof.Machine.execLnkSvc m s
  | .perfClr m => Sys2Proof.Machine.execPerfClr m s

end Sys2Proof.Machine
end

