-- ==== Sys2Proof/Machine/Fetch.lean ====
section
/-!
DEFINITION. Fetch: the bundle at the program counter of a core, decoded and run (R56, R287), and the proof that the
decoded form and the compiled form of a slot are one.
-/

namespace Sys2Proof.Machine

/-! ## One slot -/

/-- What the single occupied slot of a fetched bundle does: the decoded instruction runs; a slot whose destination names no
port is judged as part of its bundle (R310). Noncomputable, like the decoder it calls. (DEDUCED, log 19.) -/
noncomputable def State.runSlot (s : State) (w : BitVec 24) : Host.Outcome State Fault Refusal :=
  match decodeWord w with
  | some i => exec i s
  | none => exec (.bundleIssue s.turn.core (some s.turn.ctx)) s

/-- The same by what the slot holds: the form that is compiled. -/
def State.runSlotFast (s : State) (w : BitVec 24) : Host.Outcome State Fault Refusal :=
  match kindOf w with
  | .reserved _ _ => exec (.bundleIssue s.turn.core (some s.turn.ctx)) s
  | k => issueOne k s

/-- A row of `triggers` and a row of `ops` name one port, and the instruction does what the operation does. -/
def Agrees (a : Nat × (Mv → Instr)) (b : Nat × Op) : Prop :=
  a.1 = b.1 ∧ ∀ m v s, exec (refine v (a.2 m)) s = issueTrigger m (BitVec.ofNat 10 a.1) b.2 s

theorem agree0 : List.Forall₂ Agrees triggers0 ops0 := by
  unfold triggers0 ops0
  repeat' first
    | exact .nil
    | refine .cons ⟨rfl, fun _ _ _ => rfl⟩ ?_

theorem agree1 : List.Forall₂ Agrees triggers1 ops1 := by
  unfold triggers1 ops1
  repeat' first
    | exact .nil
    | refine .cons ⟨rfl, fun _ _ _ => rfl⟩ ?_

theorem agree2 : List.Forall₂ Agrees triggers2 ops2 := by
  unfold triggers2 ops2
  repeat' first
    | exact .nil
    | refine .cons ⟨rfl, fun _ _ _ => rfl⟩ ?_

theorem agree3 : List.Forall₂ Agrees triggers3 ops3 := by
  unfold triggers3 ops3
  repeat' first
    | exact .nil
    | refine .cons ⟨rfl, fun _ _ _ => rfl⟩ ?_

theorem agree4 : List.Forall₂ Agrees triggers4 ops4 := by
  unfold triggers4 ops4
  repeat' first
    | exact .nil
    | refine .cons ⟨rfl, fun _ _ _ => rfl⟩ ?_

theorem agree5 : List.Forall₂ Agrees triggers5 ops5 := by
  unfold triggers5 ops5
  repeat' first
    | exact .nil
    | refine .cons ⟨rfl, fun _ _ _ => rfl⟩ ?_

theorem agree6 : List.Forall₂ Agrees triggers6 ops6 := by
  unfold triggers6 ops6
  repeat' first
    | exact .nil
    | refine .cons ⟨rfl, fun _ _ _ => rfl⟩ ?_

theorem agree7 : List.Forall₂ Agrees triggers7 ops7 := by
  unfold triggers7 ops7
  repeat' first
    | exact .nil
    | refine .cons ⟨rfl, fun _ _ _ => rfl⟩ ?_

theorem agree8 : List.Forall₂ Agrees triggers8 ops8 := by
  unfold triggers8 ops8
  repeat' first
    | exact .nil
    | refine .cons ⟨rfl, fun _ _ _ => rfl⟩ ?_

theorem agree9 : List.Forall₂ Agrees triggers9 ops9 := by
  unfold triggers9 ops9
  repeat' first
    | exact .nil
    | refine .cons ⟨rfl, fun _ _ _ => rfl⟩ ?_
    | refine .cons ⟨rfl, fun _ _ _ => by simp only [refine]; split <;> rfl⟩ ?_

theorem agree10 : List.Forall₂ Agrees triggers10 ops10 := by
  unfold triggers10 ops10
  repeat' first
    | exact .nil
    | refine .cons ⟨rfl, fun _ _ _ => rfl⟩ ?_

theorem agree11 : List.Forall₂ Agrees triggers11 ops11 := by
  unfold triggers11 ops11
  repeat' first
    | exact .nil
    | refine .cons ⟨rfl, fun _ _ _ => rfl⟩ ?_
    | refine .cons ⟨rfl, fun _ _ _ => by simp only [refine]; split <;> rfl⟩ ?_

theorem agree12 : List.Forall₂ Agrees triggers12 ops12 := by
  unfold triggers12 ops12
  repeat' first
    | exact .nil
    | refine .cons ⟨rfl, fun _ _ _ => rfl⟩ ?_
    | refine .cons ⟨rfl, fun _ _ _ => by simp only [refine]; split <;> rfl⟩ ?_

theorem agree13 : List.Forall₂ Agrees triggers13 ops13 := by
  unfold triggers13 ops13
  repeat' first
    | exact .nil
    | refine .cons ⟨rfl, fun _ _ _ => rfl⟩ ?_
    | refine .cons ⟨rfl, fun _ _ _ => by simp only [refine]; split <;> rfl⟩ ?_

/-- Every row of the trigger table agrees with its operation. -/
theorem triggers_agree : List.Forall₂ Agrees triggers ops := by
  unfold triggers ops
  repeat' apply List.rel_append
  exacts [agree0, agree1, agree2, agree3, agree4, agree5, agree6, agree7, agree8, agree9, agree10, agree11, agree12, agree13]

/-- Looking a port up in both tables finds rows that agree, or none in either. -/
theorem lookup_agree {l : List (Nat × (Mv → Instr))} {o : List (Nat × Op)} (h : List.Forall₂ Agrees l o) (n : Nat) :
    (lookupTrigger n l = none ∧ lookupOp n o = none) ∨
    ∃ f op, lookupTrigger n l = some f ∧ lookupOp n o = some op ∧ Agrees (n, f) (n, op) := by
  induction h with
  | nil => exact .inl ⟨rfl, rfl⟩
  | @cons a b _ _ h _ ih =>
    obtain ⟨d, f⟩ := a
    obtain ⟨d', op⟩ := b
    obtain ⟨h1, h2⟩ := h
    simp only at h1
    subst h1
    by_cases e : d = n
    · subst e
      exact .inr ⟨f, op, by simp [lookupTrigger], by simp [lookupOp], rfl, h2⟩
    · simpa [lookupTrigger, lookupOp, e] using ih

/-- An instruction and a kind of slot that agree, or neither. -/
def Same : Option Instr → Option SlotKind → Prop
  | none, none => True
  | some i, some k => (∀ m d, k ≠ .reserved m d) ∧ ∀ v s, exec (refine v i) s = issueOne k s
  | _, _ => False

/-- Vector compares agree. -/
theorem vecCompare_same (m : Mv) (p : BitVec 2) (n : Nat) : Same (vecCompare m p n) (vecCompareKind m p n) := by
  match n with
  | 0 => exact ⟨fun _ _ => nofun, fun _ _ => rfl⟩
  | 1 => exact ⟨fun _ _ => nofun, fun _ _ => rfl⟩
  | 2 => exact ⟨fun _ _ => nofun, fun _ _ => rfl⟩
  | 3 => exact ⟨fun _ _ => nofun, fun _ _ => rfl⟩
  | 4 => exact ⟨fun _ _ => nofun, fun _ _ => rfl⟩
  | 5 => exact ⟨fun _ _ => nofun, fun _ _ => rfl⟩
  | 6 => exact ⟨fun _ _ => nofun, fun _ _ => rfl⟩
  | 7 => exact ⟨fun _ _ => nofun, fun _ _ => rfl⟩
  | 8 => exact ⟨fun _ _ => nofun, fun _ _ => rfl⟩
  | 9 => exact ⟨fun _ _ => nofun, fun _ _ => rfl⟩
  | n + 10 => trivial

/-- Scalar compares agree. -/
theorem scalCompare_same (m : Mv) (p : BitVec 2) (n : Nat) : Same (scalCompare m p n) (scalCompareKind m p n) := by
  match n with
  | 0 => exact ⟨fun _ _ => nofun, fun _ _ => rfl⟩
  | 1 => exact ⟨fun _ _ => nofun, fun _ _ => rfl⟩
  | 2 => exact ⟨fun _ _ => nofun, fun _ _ => rfl⟩
  | 3 => exact ⟨fun _ _ => nofun, fun _ _ => rfl⟩
  | 4 => exact ⟨fun _ _ => nofun, fun _ _ => rfl⟩
  | 5 => exact ⟨fun _ _ => nofun, fun _ _ => rfl⟩
  | n + 6 => trivial

/-- Copy triggers agree. -/
theorem copy_same (m : Mv) (p : BitVec 3) (n : Nat) : Same (copyTrigger m p n) (copyKind m p n) := by
  match n with
  | 0 => exact ⟨fun _ _ => nofun, fun _ _ => rfl⟩
  | 1 => exact ⟨fun _ _ => nofun, fun _ _ => rfl⟩
  | 2 => exact ⟨fun _ _ => nofun, fun _ _ => rfl⟩
  | 3 => exact ⟨fun _ _ => nofun, fun _ _ => rfl⟩
  | 4 => exact ⟨fun _ _ => nofun, fun _ _ => rfl⟩
  | 5 => exact ⟨fun _ _ => nofun, fun _ _ => rfl⟩
  | n + 6 => trivial

/-- Trigger and queue-push ports agree. -/
theorem trigger_same (m : Mv) (d : BitVec 10) : Same (decodeTrigger m d) (triggerKind m d) := by
  unfold decodeTrigger triggerKind
  simp only []
  by_cases h : 0x0B0 ≤ d.toNat ∧ d.toNat ≤ 0x0B7
  · rw [if_pos h, if_pos h]; exact ⟨fun _ _ => nofun, fun _ _ => rfl⟩
  rw [if_neg h, if_neg h]; clear h
  by_cases h : 0x0C0 ≤ d.toNat ∧ d.toNat ≤ 0x0EF
  · rw [if_pos h, if_pos h]; exact vecCompare_same ..
  rw [if_neg h, if_neg h]; clear h
  by_cases h : 0x0F8 ≤ d.toNat ∧ d.toNat ≤ 0x0FB
  · rw [if_pos h, if_pos h]; exact ⟨fun _ _ => nofun, fun _ _ => rfl⟩
  rw [if_neg h, if_neg h]; clear h
  by_cases h : 0x1C0 ≤ d.toNat ∧ d.toNat ≤ 0x1EF
  · rw [if_pos h, if_pos h]; exact scalCompare_same ..
  rw [if_neg h, if_neg h]; clear h
  by_cases h : 0x200 ≤ d.toNat ∧ d.toNat ≤ 0x23F
  · rw [if_pos h, if_pos h]; exact copy_same ..
  rw [if_neg h, if_neg h]; clear h
  by_cases h : 0x250 ≤ d.toNat ∧ d.toNat ≤ 0x253
  · rw [if_pos h, if_pos h]; exact ⟨fun _ _ => nofun, fun _ _ => rfl⟩
  rw [if_neg h, if_neg h]; clear h
  by_cases h : 0x260 ≤ d.toNat ∧ d.toNat ≤ 0x27F
  · rw [if_pos h, if_pos h]; exact ⟨fun _ _ => nofun, fun _ _ => rfl⟩
  rw [if_neg h, if_neg h]; clear h
  by_cases h : 0x280 ≤ d.toNat ∧ d.toNat ≤ 0x29F
  · rw [if_pos h, if_pos h]; exact ⟨fun _ _ => nofun, fun _ _ => rfl⟩
  rw [if_neg h, if_neg h]; clear h
  by_cases h : 0x2A0 ≤ d.toNat ∧ d.toNat ≤ 0x2BF
  · rw [if_pos h, if_pos h]; exact ⟨fun _ _ => nofun, fun _ _ => rfl⟩
  rw [if_neg h, if_neg h]; clear h
  rcases lookup_agree triggers_agree d.toNat with ⟨h1, h2⟩ | ⟨f, op, h1, h2, -, h3⟩
  · simp [h1, h2, Same]
  · simp only [h1, h2, Option.map_some, Same]
    exact ⟨fun _ _ => nofun, fun v s => h3 m v s⟩

/-- A field of two bits under a fixed prefix is the whole port. -/
theorem port_append (p : BitVec 7) (q : BitVec 9) (h : 4 * p.toNat ≤ q.toNat ∧ q.toNat ≤ 4 * p.toNat + 3) :
    p ++ q.extractLsb' 0 2 = q := by
  apply BitVec.eq_of_toNat_eq
  rw [BitVec.toNat_append, BitVec.extractLsb'_toNat, Nat.shiftRight_zero, ← Nat.shiftLeft_add_eq_or_of_lt (by omega),
    Nat.shiftLeft_eq]
  omega

/-- A register, operand latch or discard: the move issues whatever its source. -/
theorem source_same (w : BitVec 24) (s : State) :
    exec (decodeSource (slotMv w) (slotD w)) s = issueOne (.move (slotMv w) (slotD w)) s := by
  unfold decodeSource
  simp only []
  by_cases h : 0x080 ≤ (slotMv w).s.toNat ∧ (slotMv w).s.toNat ≤ 0x083
  · rw [if_pos h]
    exact congrArg (fun q => issueOne (.move { slotMv w with s := q } (slotD w)) s) (port_append 0x20 _ h)
  rw [if_neg h]; clear h
  by_cases h : 0x084 ≤ (slotMv w).s.toNat ∧ (slotMv w).s.toNat ≤ 0x087
  · rw [if_pos h]
    exact congrArg (fun q => issueOne (.move { slotMv w with s := q } (slotD w)) s) (port_append 0x21 _ h)
  rw [if_neg h]; clear h
  by_cases h : 0x150 ≤ (slotMv w).s.toNat ∧ (slotMv w).s.toNat ≤ 0x153
  · rw [if_pos h]
    exact congrArg (fun q => issueOne (.move { slotMv w with s := q } (slotD w)) s) (port_append 0x54 _ h)
  rw [if_neg h]; clear h
  by_cases h : 0x154 ≤ (slotMv w).s.toNat ∧ (slotMv w).s.toNat ≤ 0x157
  · rw [if_pos h]
    exact congrArg (fun q => issueOne (.move { slotMv w with s := q } (slotD w)) s) (port_append 0x55 _ h)
  rw [if_neg h]; clear h
  by_cases h : slotD w = 0
  · rw [if_pos h, h]; rfl
  · rw [if_neg h]; rfl

/-- The two forms of a slot are one. -/
@[csimp] theorem runSlot_eq_fast : @State.runSlot = @State.runSlotFast := by
  funext s w
  unfold State.runSlot State.runSlotFast decodeWord decodeSlot kindOf
  by_cases h : slotG w = 7
  · rw [if_pos h, if_pos h]; rfl
  rw [if_neg h, if_neg h]; clear h
  by_cases h : slotS w = 0 ∧ slotD w = 0
  · rw [if_pos h, if_pos h]; rfl
  rw [if_neg h, if_neg h]; clear h
  have h := trigger_same (slotMv w) (slotD w)
  revert h
  rcases decodeTrigger (slotMv w) (slotD w) with _ | i <;> rcases triggerKind (slotMv w) (slotD w) with _ | k
  · intro _
    by_cases h : isPlainDest (slotD w) = true
    · simp only [h, if_true]; exact source_same w s
    · simp only [h]; rfl
  · exact False.elim
  · exact False.elim
  · rintro ⟨h1, h2⟩
    cases k with
    | reserved m d => exact absurd rfl (h1 m d)
    | _ => exact h2 _ s

/-- The fetch of a core in which one context is seated: its bundle is run slot by slot where it has one occupied slot (the
zero word of an empty bundle is a NOP), and issues as a bundle otherwise. (DEDUCED, log 19.) -/
def State.fetchOne (s : State) (c x : Nat) : Host.Outcome State Fault Refusal :=
  let b := s.pcBundle c x
  match occupied b with
  | [] => ({ s with turn := { core := c, ctx := x, slot := 0 } } : State).runSlot (bundleWord b 0)
  | [k] => ({ s with turn := { core := c, ctx := x, slot := k } } : State).runSlot (bundleWord b k)
  | _ => exec (.bundleIssue c (some x)) s

/-- The fetch and issue of a core in one cycle. -/
def State.fetch (s : State) (c : Nat) : Host.Outcome State Fault Refusal :=
  match (s.core c).seats with
  | [x] => s.fetchOne c x
  | _ => exec (.bundleIssue c none) s

end Sys2Proof.Machine
end

