-- ==== Sys2Proof/Machine/Plan.lean ====
section
/-!
DEFINITION. What the device does by itself in one cycle, as a list of steps in one fixed order. Each step checks its own
condition; the plan leaves out steps that cannot be due, such as those of a core on which nothing goes on.
-/

namespace Sys2Proof.Machine

/-- Something of the core asks for steps besides the end of the cycle. -/
def Core.active (k : Core) : Bool :=
  k.ctxs.any (fun p => p.2.state != .idle && p.2.state != .dead || !p.2.late.isEmpty || p.2.timer.isSome
      || !p.2.completing.isEmpty)
    || !k.queues.isEmpty || k.buffers.any (fun p => !p.2.isEmpty) || !k.rings.isEmpty || k.ce.isSome || k.me.isSome
    || !k.ceResume.isEmpty || !k.meResume.isEmpty || !k.tileRels.isEmpty || k.saving.isSome || !k.pwb.isEmpty
    || k.tiles.any (fun p => p.2.state == .draining) || k.weights.any (0 < ·)

/-- Engine units that accept commands (Table 2.11). -/
def units : List Nat := [0, 1, 2, 3, 4, 5, 6, 7, 8, 9, 10, 11, 13, 14]

/-- The units of a core accept what the bundles have pushed (R157). -/
def planAccept (c : Nat) : List Turn := units.map (fun (u : Nat) => Turn.run (Instr.engineCommandAccept c u))

/-- Turns of the execution timers of a core. -/
def Core.planTimers (k : Core) (c : Nat) : List Turn :=
  (k.ctxs.filter (fun (p : Nat × Ctx) => p.2.timer.isSome)).map
    (fun (p : Nat × Ctx) => Turn.run (Instr.timerExpiry c p.1))

/-- The issue turns of a core. -/
def planSeats (c : Nat) : List Turn :=
  [Turn.run (Instr.dovetailSeat c), Turn.run (Instr.dovetailSeat c), Turn.run (Instr.dovetailRotation c),
    Turn.run (Instr.dovetailRoleSwap c), Turn.fetch c]

/-- Turns of the ce and me units whose commands reach a due point or boundary: a unit that ends its command may accept the
next one in the same cycle (R157). -/
def Core.planDue (k : Core) (c : Nat) : List Turn :=
  (match k.ce with
    | some _ => [Turn.run (Instr.kChunkDrain c), Turn.run (Instr.arrayPassDue c), Turn.run (Instr.ceCommandDuePoint c)]
    | none => [])
    ++ (match k.me with
      | some _ => [Turn.run (Instr.epilogueComplete c)]
      | none => [])

/-- Turns of a core before and with its issue. (DESIGN CHOICE, log 4.) -/
def Core.planIssue (k : Core) (c : Nat) : List Turn :=
  let before : List Turn := List.append (k.planDue c) [Turn.run (Instr.freezeCycle c), Turn.run (Instr.mstartGBegin c)]
  List.append before (List.append (k.planTimers c) (planSeats c))

/-- The releases of a core: the store or atomic that follows one is an access of the core itself (R83, R131).
(DESIGN CHOICE, log 4.) -/
def Core.planReleases (k : Core) (c : Nat) : List Turn :=
  (k.ctxs.filter (fun (p : Nat × Ctx) => !p.2.completing.isEmpty)).map
    (fun (p : Nat × Ctx) => Turn.run (Instr.releaseComplete c p.1))

/-- The accesses of a core to other slices (R82). (DESIGN CHOICE, log 4.) -/
def Core.planMesh (k : Core) (c : Nat) : List Turn :=
  k.ctxs.flatMap (fun p => (rangeFrom 0 p.2.late.length).flatMap (fun i =>
    [Turn.run (Instr.longLatencyArrival c p.1 i), Turn.run (Instr.meshStorePerformed c p.1 i)]))

/-- Turns of the engines of a core: acceptance, eligibility, the loader. (DESIGN CHOICE, log 4.) -/
def Core.planUnits (k : Core) (c : Nat) : List Turn :=
  planAccept c
    ++ k.buffers.flatMap (fun p => if p.1 < 8 then p.2.map (fun x => Turn.run (Instr.copyEligible c p.1 x.id)) else [])
    ++ k.rings.map (fun r => Turn.run (Instr.loaderFillBegin c r.ring))

/-- The phase openings: their drains come before the accesses of the mesh and of the engines (R83, R119).
(DESIGN CHOICE, log 4.) -/
def planPhases (cs : List (Nat × Core)) : List Turn := cs.map (fun p => Turn.run (Instr.phaseOpen p.1))

/-- Turns of a core after the copy engines have moved. (DESIGN CHOICE, log 4.) -/
def Core.planAfter (k : Core) (c : Nat) : List Turn :=
  k.buffers.flatMap (fun p => if p.1 < 8 then p.2.map (fun x => Turn.run (Instr.copyComplete c p.1 x.id)) else [])
    ++ k.rings.flatMap (fun r => r.filling.toList.map (fun t => Turn.run (Instr.tileFillComplete c t)))
    ++ (k.tiles.filter (fun p => p.2.state == .draining)).map (fun p => Turn.run (Instr.storerDrainComplete c p.1))
    ++ k.tileRels.map (fun p => Turn.run (Instr.tileReleaseEffect c p.1))
    ++ (match k.saving with
      | some _ => [Turn.run (Instr.imageSaveComplete c)]
      | none => [])

/-- Turns of the copy engines: 16 on each die (Table 3.9). (DESIGN CHOICE, log 4.) -/
def planEngines (cs : List (Nat × Core)) : List Turn :=
  [0, 1].flatMap (fun d =>
    if cs.any (fun p => dieOf p.1 = d && p.2.buffers.any (fun q => !q.2.isEmpty))
    then (rangeFrom 0 16).map (fun n => Turn.run (Instr.copyPiece d n)) else [])

/-- Turns of the arrival port and the links. (DESIGN CHOICE, log 4.) -/
def State.planFabric (s : State) : List Turn :=
  s.walks.map (fun w => Turn.run (Instr.tlbWalk w.die w.va))
    ++ (rangeFrom 0 s.inbox.length).flatMap (fun i =>
      [Turn.run (Instr.channelElement i), Turn.run (Instr.channelCredit i), Turn.run (Instr.setupContribution i),
       Turn.run (Instr.collectiveContribution i), Turn.run (Instr.streamArrival i), Turn.run (Instr.readRequest i),
       Turn.run (Instr.readData i), Turn.run (Instr.commitAcknowledgement i)])
    ++ (rangeFrom 0 s.out.length).flatMap (fun i =>
      [Turn.run (Instr.refusedResend i), Turn.run (Instr.operationUnreachable i)])
    ++ s.links.flatMap (fun p => [Turn.run (Instr.linkSilenceTimeout p.1), Turn.run (Instr.dataFlitSend p.1),
      Turn.run (Instr.idleFlitSend p.1)])

/-- Turns of the work rings, the dispatcher and the Truss. (DESIGN CHOICE, log 4.) -/
def State.planDispatch (s : State) : List Turn :=
  let live : List Turn :=
    if s.kernel.state == .running then
      (rangeFrom 0 s.kernel.nstage).map (fun st => Turn.run (Instr.taskForm st))
        ++ [Turn.run Instr.dispatcherBinDrain, Turn.run Instr.tileStepPlace, Turn.run Instr.gangPlace,
            Turn.run Instr.tileStepPlace, Turn.run Instr.gangPlace]
    else []
  (if s.cycle.toNat % 32 = 0 then [Turn.run Instr.workRingPoll] else []) ++ live
    ++ s.cores.flatMap (fun p => (p.2.ctxs.filter (fun q => q.2.doneIssued)).map (fun q =>
      Turn.run (Instr.tileStepRetire p.1 q.1)))
    ++ (if s.cycle.toNat % 256 = 0 then
        [Turn.run (Instr.trussBalance 0), Turn.run (Instr.trussBalance 1), Turn.run Instr.occupancySample]
      else [])
    ++ (s.cores.filter (fun p => p.2.move.isSome)).map (fun p => Turn.run (Instr.coreMoveTakeEffect p.1))
    ++ (s.queues.filter (fun p => p.2.ringCount != 0)).map (fun p => Turn.run (Instr.overflowRefill p.1))
    ++ (if s.isLoading then [Turn.run Instr.kernelLoadComplete] else [])

/-- Turns of the Sill. (DESIGN CHOICE, log 4.) -/
def State.planSill (s : State) : List Turn :=
  match s.session.state with
  | .closing => [Turn.run Instr.sessionClosingEnd]
  | .scrubbing => [Turn.run Instr.scrubComplete]
  | _ => []

/-- The plan of a cycle: the accesses to S-space stand in the order of their bank classes (R83, R119); the end of the cycle
comes last. (DESIGN CHOICE, log 4.) (DESIGN CHOICE, log 5.) (DEDUCED, log 57.) -/
def State.plan (s : State) : List Turn :=
  let cs := s.cores.filter (fun p => p.2.active)
  cs.flatMap (fun p => p.2.planIssue p.1) ++ cs.flatMap (fun p => p.2.planReleases p.1) ++ planPhases cs
    ++ cs.flatMap (fun p => p.2.planMesh p.1) ++ cs.flatMap (fun p => p.2.planUnits p.1) ++ planEngines cs
    ++ cs.flatMap (fun p => p.2.planAfter p.1) ++ s.planFabric ++ s.planDispatch ++ s.planSill
    ++ [Turn.run Instr.referenceClockCycle]

/-! ## Order of the accesses of one cycle (R83, R119) -/

/-- Class of bank arbitration of the accesses that a turn may make (R83): 2 a core's issue and what follows its releases,
3 a phase opening, 4 the mesh, 5 engines, loader, storer, overflow engine and arrivals; 0 none.
(DESIGN CHOICE, log 4.) -/
def Turn.bankClass : Turn → Nat
  | .fetch _ => 2
  | .run i => match i with
    | .bundleIssue .. | .releaseComplete .. => 2
    | .phaseOpen _ => 3
    | .longLatencyArrival .. | .meshStorePerformed .. => 4
    | .engineCommandAccept .. | .copyEligible .. | .copyPiece .. | .copyComplete .. | .loaderFillBegin ..
    | .tileFillComplete .. | .storerDrainComplete .. | .overflowRefill _ | .channelElement _ | .setupContribution _
    | .collectiveContribution _ | .streamArrival _ | .readRequest _ | .readData _ => 5
    | i => if (encode i).isSome then 2 else 0

/-- A turn of a lower bank class is still to come in the cycle: in a bank that both reach it is the first (R119), so the turn
finds its bank taken. (DESIGN CHOICE, log 4.) -/
def State.bankHeld (s : State) (t : Turn) : Bool :=
  (s.agenda.takeWhile (· != .run .referenceClockCycle)).any (fun u => u.bankClass != 0 && u.bankClass < t.bankClass)

end Sys2Proof.Machine
end

