-- ==== Sys2Proof/Machine/Step.lean ====
section
/-!
DEFINITION. The step of the machine: the head of the agenda, or the first turn of the next cycle's plan; where an
instruction is placed for the next fetch.
-/

namespace Sys2Proof.Machine

/-! ## The step -/

/-- Takes a turn; one whose accesses come behind those of a turn still to come in the cycle passes (R83, R119).
(DESIGN CHOICE, log 3.) (DESIGN CHOICE, log 4.) -/
def State.take (s : State) (t : Turn) : Host.Outcome State Fault Refusal :=
  if s.bankHeld t then .next s
  else match t with
    | .run i => exec i s
    | .fetch c => s.fetch c

/-- One step: the head of the agenda, or, where it is empty, of the plan of the cycle. (DESIGN CHOICE, log 3.)
(DESIGN CHOICE, log 16.) -/
def step (s : State) : Host.Outcome State Fault Refusal :=
  match s.agenda with
  | t :: rest => ({ s with agenda := rest } : State).take t
  | [] => match s.plan with
    | t :: rest => ({ s with agenda := rest } : State).take t
    | [] => exec .referenceClockCycle s

/-! ## Placing an instruction -/

/-- Context 0 of core 0, able to issue: seated, with nothing pending, completing or halted. (DESIGN CHOICE, log 16.) -/
def Ctx.ableToIssue (cx : Ctx) : Ctx :=
  { cx with
    state := if cx.modeSys then .system else .seated, block := .no, seatedNow := true, completing := []
    sysHalted := false, userHalted := false, preempt := false, stopped := false, doneIssued := false, pend := [] }

/-- Another context of core 0 without a seat. (DESIGN CHOICE, log 16.) -/
def Ctx.unseated (cx : Ctx) : Ctx := { cx with seatedNow := false }

/-- An instruction of the table, as the one occupied slot of the bundle at the PC of context 0 of core 0, which is fetched
next; a row without an encoding has no word to place. (DESIGN CHOICE, log 16.) -/
def State.withFetchWord (s : State) (nbits w : Nat) : State :=
  if nbits = 24 then
    let k := s.core 0
    let cx := k.ctx 0
    let pc := (cx.plane cx.modeSys).pc.toNat
    let k := { k with
      frozen := false
      istore := tabSet 0 k.istore pc (BitVec.ofNat 192 (w % 2 ^ 24)), untagged := tabSet false k.untagged pc true }
    let k := [1, 2, 3].foldl (fun k x => k.setCtx x (k.ctx x).unseated) (k.setCtx 0 cx.ableToIssue)
    { s with cores := tabSet {} s.cores 0 k, agenda := .fetch 0 :: s.agenda }
  else s

end Sys2Proof.Machine
end

