-- ==== Sys2Proof/Safety.lean ====
section
/-!
DEFINITION. What counts as a safe run, and the terms in which claims speak of a slot that issues alone: when its context
can issue, when its move can be made, what the move carries, and the state after it.
-/

namespace Sys2Proof

/-- The step from a state answers a next state: it is no fault and no refusal. -/
def Safe (s : Machine.State) : Prop := ∃ t, Machine.step s = .next t

/-- A run of k steps from a state, by one step after the other. -/
def Runs : Nat → Machine.State → Machine.State → Prop
  | 0, s, t => s = t
  | k + 1, s, t => ∃ u, Machine.step s = .next u ∧ Runs k u t

namespace Machine

/-! ## The context that issues -/

/-- The context of the turn. -/
def State.hereCtx (s : State) : Ctx := s.ctx s.turn.core s.turn.ctx

/-- The plane it issues on is the system plane. -/
def State.hereSys (s : State) : Bool := s.hereCtx.modeSys

/-- The plane it issues on. -/
def State.herePlane (s : State) : Plane := s.hereCtx.plane s.hereSys

/-- Where the slot of the turn issues; its bundle holds no carrier. -/
def State.here (s : State) : Site :=
  { core := s.turn.core, ctx := s.turn.ctx, sys := s.hereSys, carriers := [] }

/-- The context can issue a bundle (R39, R78, R247, R248): it holds a seat, no freeze cycle, halt or save stops it, it
completes nothing and has not issued `task.done`, no cause is pending that it would take first, and its bundle has been read
without error. -/
def State.canRun (s : State) : Bool :=
  s.canIssue s.turn.core s.turn.ctx && s.hereCtx.completing.isEmpty && !s.hereCtx.doneIssued
    && (s.hereSys || (!s.hereCtx.preempt && s.hereCtx.firstPending.isNone))
    && tabGet false (s.core s.turn.core).untagged s.herePlane.pc.toNat

/-! ## Its move -/

/-- A source that always has a value: no reserved port, no queue port, no immediate. -/
def SrcKind.plain : SrcKind → Bool
  | .reserved => false
  | .pop _ => false
  | .peek _ => false
  | .imm _ _ => false
  | _ => true

/-- The source is named, has a value and is not an empty register (R51, R310). -/
def State.readable (s : State) (m : Mv) : Bool :=
  m.s != 0 && (srcKind m.s).plain && (match srcEmptyKey s.hereSys s.turn.slot m.s with
    | some k => !s.hereCtx.isEmpty k
    | none => true)

/-- No q guard cancels the move (R294). -/
def State.guardOpen (s : State) (m : Mv) (d : BitVec 10) : Bool :=
  m.g == 0 || !sharedDst d || s.hereCtx.readQ m.g.toNat

/-- What the move carries (R292). -/
def State.moved (s : State) (m : Mv) (d : BitVec 10) : Line :=
  convert (sharedSrc m.s) (sharedDst d) (s.source s.here s.turn.slot m.s)

/-- What the move carries, as a scalar. -/
def State.movedVal (s : State) (m : Mv) (d : BitVec 10) : Dword := low64 (s.moved m d)

/-- Lanes in which the move acts (R294). -/
def State.moveMask (s : State) (m : Mv) (d : BitVec 10) : BitVec 16 :=
  if sharedDst d || m.g == 0 then 0xFFFF else s.hereCtx.readG s.turn.slot m.g.toNat

/-- The operand latch behind a port of the slot, and its value. -/
def State.operandLatch (s : State) (p : Nat) : Latch := s.hereCtx.latch s.hereSys (latchKey s.turn.slot p)
def State.operand (s : State) (p : Nat) : Line := (s.operandLatch p).val
/-- Its value as a scalar. -/
def State.operandVal (s : State) (p : Nat) : Dword := low64 (s.operand p)

/-- The increment registers of the loop levels that end at the bundle are full (R330). -/
def State.loopsFull (s : State) : Bool :=
  s.hereSys || (s.hereCtx.endRegs s.hereCtx.user.pc.toNat).all (fun k => !s.hereCtx.isEmpty k)

/-- The move can be made: H is 0 unless the destination is an operand port (R289). -/
def State.canMove (s : State) (m : Mv) (d : BitVec 10) : Bool :=
  s.canRun && s.readable m && s.guardOpen m d && (!m.h || isOperandPort d)

/-! ## A trigger -/

/-- What the trigger sees. -/
def State.argHere (s : State) (m : Mv) (d : BitVec 10) (op : Op) : Arg :=
  { core := s.turn.core, ctx := s.turn.ctx, slot := s.turn.slot, sys := s.hereSys, port := d.toNat
    v := s.moved m d, mask := s.moveMask m d
    o1 := operandAt s.hereCtx s.here s.turn.slot op.ports 0, o2 := operandAt s.hereCtx s.here s.turn.slot op.ports 1
    o3 := operandAt s.hereCtx s.here s.turn.slot op.ports 2
    pre := s
    vx := (rangeFrom 0 8).map (fun c => s.hereCtx.latch s.hereSys (latchKey c 0x00C))
    tags := [] }

/-- Nothing that the operation waits for holds it. -/
def Gate.opened : Gate → Bool
  | .go => true
  | _ => false

/-- The trigger fires: its move can be made, its operand latches are valid, none of the checks and waits of its operation
stops or holds it, and its banks serve it (R247, R39, R158, R83). -/
def State.fires (s : State) (m : Mv) (d : BitVec 10) (op : Op) : Bool :=
  let a := s.argHere m d op
  let cx := s.hereCtx
  s.canMove m d
    && (!op.sysOnly || s.hereSys) && (op.priv a).isNone && !(op.userOnly && s.hereSys) && (op.illegal a).isNone
    && (op.needs a.val).all (fun p => (s.operandLatch p).valid) && (op.lacks a).isNone
    && (op.reads a).all (fun p => !cx.isEmpty p.1) && (op.dests a).all (fun k => !cx.isEmpty k)
    && (op.traps a).isNone && (match op.unit a with
      | some u => !s.queueFull s.turn.core s.turn.ctx u
      | none => true)
    && (op.raises a).isNone && !op.fmtWait a && !(op.access && cx.acquiring) && (op.gate a).opened
    && ((op.branch a).isSome || s.loopsFull) && s.banksServe s.here [] ((op.lines a).map bankOf)

/-- The program counter after the bundle: the target of a taken branch, else what the loop-end step leaves (R328, R329); the
loop buffer follows (R190). -/
def State.proceed (pre s : State) (branch : Option (BitVec 13)) : State :=
  let c := pre.turn.core
  let x := pre.turn.ctx
  let p := pre.herePlane.pc
  let s := pre.loopBuffer s pre.here branch.isNone
  let r : State × BitVec 13 := match branch with
    | some t => (s, t)
    | none =>
      if pre.hereSys then (s, p + 1)
      else
        let l := Ctx.loopEnd pre.hereCtx.loops (pre.hereCtx.endLevels p.toNat) (s.ctx c x)
        (s.modCtx c x (fun _ => l.1), l.2.getD (p + 1))
  r.1.modCtx c x (fun cx => cx.modPlane pre.hereSys (fun q => { q with pc := r.2 }))

/-- The state in which the trigger acts: its tile step runs, and the unit has consumed its operand latches (R55, R32). -/
def State.primed (s : State) (m : Mv) (d : BitVec 10) (op : Op) : State :=
  if (op.needs (s.argHere m d op).val).isEmpty then s.startStep s.here
  else (s.startStep s.here).modCtx s.turn.core s.turn.ctx
    (fun cx => cx.consume s.hereSys (op.ports.map (latchKey s.turn.slot)))

/-- The state after the trigger has acted. -/
def State.acted (s : State) (m : Mv) (d : BitVec 10) (op : Op) : State :=
  op.act (s.argHere m d op) (s.primed m d op)

/-- The state after the bundle of a trigger that fires (R56). -/
def State.fired (s : State) (m : Mv) (d : BitVec 10) (op : Op) : State :=
  let a := s.argHere m d op
  (op.fin a (s.proceed (s.acted m d op) (op.branch a))).advance s.here op.weight

/-! ## What a bundle leaves unchanged -/

/-- A context without what every bundle may change: its planes (program counter, cycle count, latches, due buffer),
DIRTYMAP, its seat, which a rotation may take (R179), and what its banks have granted the bundle (R83). -/
def Ctx.aside (cx : Ctx) : Ctx :=
  { cx with user := {}, sys := {}, dirtymap := 0, state := .idle, seatedNow := false, readySince := 0, grants := []
            bankLost := [] }

/-- A context without that and the registers that a landing value or a loop level's end may change (R59, R329): s, v, g
and q registers, ACFLAGS and LOOPCTR. -/
def Ctx.fixed (cx : Ctx) : Ctx := { cx.aside with sreg := [], vreg := [], g := [], q := [], acflags := 0, loopctr := [] }

/-- A core without its contexts, the events counted in the cycle, its power weight, the rotation asked of it and its loop
buffer, into which a bundle of a loop body is copied (R190). -/
def Core.aside (k : Core) : Core :=
  { k with ctxs := [], events := [], weightNow := 0, rotate := none, loopBuf := [], loopHolder := none }

/-- The device without its cores and the states of tile steps. -/
def State.aside (s : State) : State := { s with cores := [], steps := [] }

/-- No value lands with the next bundle and no loop level ends at it. -/
def State.settled (s : State) : Bool :=
  (s.herePlane.dueAt (s.herePlane.cyc + 1)).isEmpty
    && (s.hereSys || (s.hereCtx.endLevels s.hereCtx.user.pc.toNat).isEmpty)

/-- The frame of a bundle that works on the planes of its context: every byte of memory, every other core, every other
context and everything else of the core are as before. Of its own context, what no landing value and no loop level's
end may change is as in `cx`; where no earlier value lands and no level ends, every register is as in `cx`. -/
structure State.Frame (s t : State) (cx : Ctx) : Prop where
  device   : t.aside = s.aside
  sspace   : ∀ a, t.sRead a 1 = s.sRead a 1
  hbm      : ∀ a, t.hRead a 1 = s.hRead a 1
  cores    : ∀ c, c ≠ s.turn.core → t.core c = s.core c
  core     : (t.core s.turn.core).aside = (s.core s.turn.core).aside
  contexts : ∀ x, x ≠ s.turn.ctx → t.ctx s.turn.core x = s.ctx s.turn.core x
  fixed    : (t.ctx s.turn.core s.turn.ctx).fixed = cx.fixed
  context  : s.settled = true → (t.ctx s.turn.core s.turn.ctx).aside = cx.aside

/-- The plane of the context of s, in t. -/
def State.planeAfter (s t : State) : Plane := (t.ctx s.turn.core s.turn.ctx).plane s.hereSys

/-- An operand latch after a trigger of its unit: no longer valid unless it is held (R55). -/
def Latch.spent (l : Latch) : Latch := if l.valid && !l.hold then { l with valid := false } else l

/-- The bundle has issued: one cycle of its plane has passed (R59), the other plane is as before, the operand latches of
the ports in `used` are consumed and every other one is as before (R55). Where no earlier value lands and no loop level
ends, the program counter is `next` and every result latch but those of `res` is as before. -/
structure State.Issued (s t : State) (used : List Nat) (res : List Nat) (next : BitVec 13) : Prop where
  cyc     : (s.planeAfter t).cyc = s.herePlane.cyc + 1
  other   : (t.ctx s.turn.core s.turn.ctx).plane (!s.hereSys) = s.hereCtx.plane (!s.hereSys)
  latches : ∀ k, tabGet {} (s.planeAfter t).latches k
              = if k ∈ used.map (latchKey s.turn.slot) then (tabGet {} s.herePlane.latches k).spent
                else tabGet {} s.herePlane.latches k
  pc      : s.settled = true → (s.planeAfter t).pc = next
  results : s.settled = true → ∀ k, k ∉ res → tabGet 0 (s.planeAfter t).results k = tabGet 0 s.herePlane.results k

/-- A value that becomes due L bundles on: it has landed where L is 1, and waits in the due buffer otherwise (R58, R59). -/
def State.Delivers (s t : State) (L : Nat) (dst : DueDst) (val : Line) (mask : BitVec 16) (flags : BitVec 6) : Prop :=
  if L = 1 then
    match dst with
    | .latch k => ∀ l, l < 16 →
        (mask.getLsbD l = true → lane (tabGet 0 (s.planeAfter t).results k) l = lane val l)
          ∧ (s.settled = true → mask.getLsbD l = false →
              lane (tabGet 0 (s.planeAfter t).results k) l = lane (tabGet 0 s.herePlane.results k) l)
    | .qpair p => (t.ctx s.turn.core s.turn.ctx).readQ (2 * p + 1) = val.getLsbD 0
        ∧ (t.ctx s.turn.core s.turn.ctx).readQ (2 * p + 2) = !val.getLsbD 0
    | .gpair cl p => ∀ l, l < 16 → mask.getLsbD l = true →
        ((t.ctx s.turn.core s.turn.ctx).readG cl (2 * p + 1)).getLsbD l = val.getLsbD l
          ∧ ((t.ctx s.turn.core s.turn.ctx).readG cl (2 * p + 2)).getLsbD l = !val.getLsbD l
    | _ => False
  else { due := s.herePlane.cyc + BitVec.ofNat 64 L, dst := dst, val := val, mask := mask, flags := flags : DueRec }
    ∈ (s.planeAfter t).due

/-- The due record of a trigger of the context of the turn. -/
def State.recordOf (s : State) (L : Nat) (dst : DueDst) (val : Line) (mask : BitVec 16) (flags : BitVec 6) : DueRec :=
  { due := s.herePlane.cyc + BitVec.ofNat 64 L, dst := dst, val := val, mask := mask, flags := flags }

/-- The registers of the context once a record of latency L has been added and the bundle has advanced. -/
def State.landedCtx (s : State) (L : Nat) (r : DueRec) : Ctx := if L = 1 then s.hereCtx.land s.hereSys r else s.hereCtx

/-- Result latches that a record changes as the bundle advances. -/
def DueDst.latches (d : DueDst) (L : Nat) : List Nat :=
  match d with
  | .latch k => if L = 1 then [k] else []
  | _ => []

/-- A trigger without checks and waits of its own is ready: its move can be made, its operand latches are valid and the
loop registers are full. -/
def State.ready (s : State) (m : Mv) (d : BitVec 10) (needs : List Nat) : Bool :=
  s.canMove m d && needs.all (fun p => (s.operandLatch p).valid) && s.loopsFull

/-- A context after a move of line v into port d (R48, R53, R291, R294): `raw` is what its source holds, before a width
conversion; an operand latch and discard leave the registers as they are. -/
def Ctx.afterMove (cx : Ctx) (sys : Bool) (slot : Nat) (d : BitVec 10) (mask : BitVec 16) (raw v : Line) : Ctx :=
  let n := d.toNat
  if n = 0 || isOperandPort d then cx
  else if n < 0x080 then cx.writeV slot (n - 0x040) mask v
  else if n < 0x100 then cx.writeG slot (n - 0x0F0) mask (raw.extractLsb' 0 16)
  else if n < 0x140 then cx.writeS sys (n - 0x100) (low64 v)
  else cx.writeQ (n - 0x140) (raw.getLsbD 0)

/-- The operand latch behind port d after the move (R55, R294). -/
def Latch.afterMove (l : Latch) (d : BitVec 10) (hold : Bool) (mask : BitVec 16) (v : Line) : Latch :=
  { val := if sharedDst d then v else mergeLanes mask l.val v, valid := true, hold := hold }

/-- The outcome of a slot that moves line v into port d, from a state `u` that has its queue pops made: the destination
takes the value, the bundle issues, and all else is as in u. -/
def State.Moves (s : State) (out : Host.Outcome State Fault Refusal) (u : State) (d : BitVec 10) (hold : Bool)
    (mask : BitVec 16) (raw v : Line) : Prop :=
  ∃ t, out = .next t ∧ u.Frame t (s.hereCtx.afterMove s.hereSys s.turn.slot d mask raw v)
    ∧ (s.planeAfter t).cyc = s.herePlane.cyc + 1
    ∧ (t.ctx s.turn.core s.turn.ctx).plane (!s.hereSys) = s.hereCtx.plane (!s.hereSys)
    ∧ (∀ k, tabGet {} (s.planeAfter t).latches k
        = if isOperandPort d = true ∧ k = latchKey s.turn.slot d.toNat
          then (tabGet {} s.herePlane.latches k).afterMove d hold mask v else tabGet {} s.herePlane.latches k)
    ∧ (s.settled = true → (s.planeAfter t).pc = s.herePlane.pc + 1 ∧ (s.planeAfter t).results = s.herePlane.results)

/-- The outcome of a slot whose operation changes the state to `u` and its context to `cx`, and nothing else: the bundle
issues and the operand latches of `used` are consumed. -/
def State.Does (s : State) (out : Host.Outcome State Fault Refusal) (used : List Nat) (u : State) (cx : Ctx) : Prop :=
  ∃ t, out = .next t ∧ u.Frame t cx ∧ s.Issued t used [] (s.herePlane.pc + 1)

/-- The outcome of a slot whose operation yields one value L bundles on and does nothing else: the bundle issues, the
operand latches of `used` are consumed, the value is delivered with its flags (R58, R70), and all else is as before. -/
def State.Results (s : State) (out : Host.Outcome State Fault Refusal) (used : List Nat) (L : Nat) (dst : DueDst) (val : Line)
    (mask : BitVec 16) (flags : BitVec 6) : Prop :=
  ∃ t, out = .next t ∧ s.Frame t (s.landedCtx L (s.recordOf L dst val mask flags)) ∧ s.Issued t used (dst.latches L) (s.herePlane.pc + 1)
    ∧ s.Delivers t L dst val mask flags

/-- An operation of a scalar unit with operand ports p and q: with its operands a, b and the moved value v it yields
f a b v in the result latch `res` L bundles on, raises no flag and changes nothing else. -/
def Scalar (i : Mv → Instr) (d : BitVec 10) (p q : Nat) (needs : List Nat) (res L : Nat) (f : Dword → Dword → Dword → Dword) :
    Prop :=
  ∀ (s : State) (m : Mv), s.ready m d needs = true →
    s.Results (exec (i m) s) (if needs.isEmpty then [] else [p, q]) L (.latch res)
      (ofDword (f (s.operandVal p) (s.operandVal q) (s.movedVal m d))) 0xFFFF 0

/-- An operation of a cluster unit: lane by lane, under the lane mask of the move, it yields the value and the flags of f on
the lanes of its operands and of the moved value, in the result latch `res` of the slot's cluster (R358, R359). -/
def Lanewise (i : Mv → Instr) (d : BitVec 10) (p q : Nat) (needs : List Nat) (res L : Nat)
    (f : Word → Word → Word → Word × BitVec 6) : Prop :=
  ∀ (s : State) (m : Mv), s.ready m d needs = true →
    s.Results (exec (i m) s) (if needs.isEmpty then [] else [p, q]) L (.latch (res + 1024 * s.turn.slot))
      (mapLanes (fun l => (f (lane (s.operand p) l) (lane (s.operand q) l) (lane (s.moved m d) l)).1)) (s.moveMask m d)
      (laneFlags (s.moveMask m d) (fun l => (f (lane (s.operand p) l) (lane (s.operand q) l) (lane (s.moved m d) l)).2))

/-- An operation that yields one value for each lane, told by its state and move, where `ok` holds: under the lane mask of
the move the values land in the result latch `res` of the slot's cluster L bundles on, with the flags of the enabled lanes
(R358, R359). -/
def Lanes (i : Mv → Instr) (d : BitVec 10) (used needs : List Nat) (res L : Nat) (ok : State → Mv → Bool)
    (f : State → Mv → Nat → Word × BitVec 6) : Prop :=
  ∀ (s : State) (m : Mv), s.ready m d needs = true → ok s m = true →
    s.Results (exec (i m) s) used L (.latch (res + 1024 * s.turn.slot)) (mapLanes (fun l => (f s m l).1)) (s.moveMask m d)
      (laneFlags (s.moveMask m d) (fun l => (f s m l).2))

/-- The outcome of a slot that a cause stops (R62): nothing but its trap, or on the system plane its halt, happens.
TRAPINFO names the slot, but for XLATE.PERM (Table 9.2). -/
def State.Traps (s : State) (out : Host.Outcome State Fault Refusal) (cause : BitVec 8) (aux addr : Nat) : Prop :=
  out = .next (s.raise s.turn.core s.turn.ctx
    { cause := cause, info := trapInfoWord (if cause = causeXlatePerm then none else some s.turn.slot) aux addr })

/-- A cause with nothing but a port in TRAPINFO. -/
def portCause (c : BitVec 8) (p : Option Nat) : Option Cause := p.map (fun n => (c, 0, n))

/-- The first empty register that a trigger with E = 1 reads, by its source port (R51). -/
def State.emptySource (s : State) (m : Mv) (d : BitVec 10) (op : Op) : Option Nat :=
  if m.e then
    match srcEmptyKey s.hereSys s.turn.slot m.s with
    | some k => if s.hereCtx.isEmpty k then some m.s.toNat
      else ((op.reads (s.argHere m d op)).find? (fun p => s.hereCtx.isEmpty p.1)).map (·.2)
    | none => ((op.reads (s.argHere m d op)).find? (fun p => s.hereCtx.isEmpty p.1)).map (·.2)
  else none

/-- The first cause among the checks of a trigger, in the order of step 7 of R247. -/
def State.causeHere (s : State) (m : Mv) (d : BitVec 10) (op : Op) : Option Cause :=
  let a := s.argHere m d op
  firstOf [
    portCause causePriv (if op.sysOnly && !s.hereSys then some d.toNat else op.priv a),
    portCause causeSlotIllegal (if m.h && !isOperandPort d then some d.toNat else none),
    portCause causeSlotIllegal (if op.userOnly && s.hereSys then some d.toNat else none),
    portCause causeSlotIllegal (op.illegal a),
    portCause causeOperandEmpty ((op.needs a.val).find? (fun p => !(s.operandLatch p).valid)),
    portCause causeOperandEmpty (op.lacks a),
    portCause causeRegEmpty (s.emptySource m d op),
    op.traps a,
    (match op.unit a with
      | some u => if s.queueFull s.turn.core s.turn.ctx u && !(s.hereCtx.qmode.getLsbD u) then some (causeQueueFull, u, 0) else none
      | none => none),
    (op.raises a).map (fun p => (p.1, p.2, 0))]

/-! ## Rows that share one word -/

/-- The moved value that tells an instruction from those whose words it shares (R333, R346, R350, R372); none is asked of the
others. -/
def tells (v : Dword) : Instr → Prop
  | .barInit _ => v.getLsbD 31 = false
  | .barRelease _ => v.getLsbD 31 = true
  | .waitCycle _ => v.toNat % 16 ≠ 1 ∧ v.toNat % 16 ≠ 2
  | .waitTdone _ => v.toNat % 16 = 1
  | .waitBarrier _ => v.toNat % 16 = 2
  | .tlbFixMapped _ => v.toNat % 4 ≠ 1 ∧ v.toNat % 4 ≠ 2
  | .tlbFixUnmappable _ => v.toNat % 4 = 1
  | .tlbFixMigrated _ => v.toNat % 4 = 2
  | .linkDrain _ => v.toNat / 256 % 16 = 0 ∨ 5 ≤ v.toNat / 256 % 16
  | .linkRelock _ => v.toNat / 256 % 16 = 1
  | .linkSwitch _ => v.toNat / 256 % 16 = 2
  | .linkKdue _ => v.toNat / 256 % 16 = 3
  | .linkDownCommand _ => v.toNat / 256 % 16 = 4
  | _ => True

/-! ## Which instructions are triggers -/

/-- The trigger of an instruction that is one: its move's fields, its port and what it does (Tables 12.3-12.7, 12.10, 12.11). -/
def triggerOf : Instr → Option (Mv × BitVec 10 × Op)
  | .moduleReset => none
  | .sillFirmwareVerify _ => none
  | .bringupComplete _ => none
  | .identCmd => none
  | .statusCmd => none
  | .openCmd _ => none
  | .closeCmd => none
  | .scrubCmd => none
  | .recordsCmd => none
  | .attestCmd _ => none
  | .fwupd _ => none
  | .svncommit _ => none
  | .recalCmd _ => none
  | .drainCmd _ => none
  | .undrainCmd _ => none
  | .readcnt => none
  | .sessionClosingEnd => none
  | .scrubComplete => none
  | .workRingPoll => none
  | .nopRequest _ => none
  | .unknownRequest _ => none
  | .klaunch _ => none
  | .kernelLoadComplete => none
  | .taskRequest _ => none
  | .closeRequest _ => none
  | .taskForm _ => none
  | .dispatcherBinDrain => none
  | .tileStepPlace => none
  | .gangPlace => none
  | .tileStepRetire _ _ => none
  | .trussBalance _ => none
  | .occupancySample => none
  | .coreMoveTakeEffect _ => none
  | .bundleIssue _ _ => none
  | .dovetailSeat _ => none
  | .dovetailRotation _ => none
  | .dovetailRoleSwap _ => none
  | .freezeCycle _ => none
  | .longLatencyArrival _ _ _ => none
  | .trapDelivery _ _ => none
  | .timerExpiry _ _ => none
  | .kChunkDrain _ => none
  | .imageSaveComplete _ => none
  | .eccCorrected _ => none
  | .eccUncorrectable _ => none
  | .phaseOpen _ => none
  | .engineCommandAccept _ _ => none
  | .copyEligible _ _ _ => none
  | .copyPiece _ _ => none
  | .copyComplete _ _ _ => none
  | .tlbWalk _ _ => none
  | .streamArrival _ => none
  | .refusedResend _ => none
  | .commitAcknowledgement _ => none
  | .readRequest _ => none
  | .readData _ => none
  | .collectiveContribution _ => none
  | .setupContribution _ => none
  | .channelElement _ => none
  | .channelCredit _ => none
  | .operationUnreachable _ => none
  | .dataFlitSend _ => none
  | .idleFlitSend _ => none
  | .dataFlit _ _ => none
  | .ack _ _ => none
  | .retryreq _ _ => none
  | .creditFlit _ _ => none
  | .keymark _ _ => none
  | .drainFlit _ _ => none
  | .hello _ _ => none
  | .unknownFlit _ _ => none
  | .linkLockLoss _ => none
  | .linkSilenceTimeout _ => none
  | .rdmaWrite _ _ _ _ => none
  | .rdmaRead _ _ _ _ => none
  | .rdmaInvalidRequest _ => none
  | .thermalLimitStep => none
  | .thermalShutdown => none
  | .loaderFillBegin _ _ => none
  | .tileFillComplete _ _ => none
  | .storerDrainComplete _ _ => none
  | .tileReleaseEffect _ _ => none
  | .overflowRefill _ => none
  | .arrayPassDue _ => none
  | .mstartGBegin _ => none
  | .epilogueComplete _ => none
  | .releaseComplete _ _ => none
  | .referenceClockCycle => none
  | .meshStorePerformed _ _ _ => none
  | .ceCommandDuePoint _ => none
  | .idleFlit _ _ => none
  | .hostRdmaResponse _ _ => none
  | .sillPreemptionRequest _ _ => none
  | .nop _ _ _ => none
  | .immediateCarrier _ => none
  | .discardMove _ => none
  | .move _ _ => none
  | .queuePush _ _ => none
  | .queuePushShared _ _ => none
  | .queuePop _ _ _ _ _ => none
  | .queuePopShared _ _ _ _ _ => none
  | .queuePeek _ _ _ _ _ => none
  | .queuePeekShared _ _ _ _ _ => none
  | .vadd m => some (m, 0x080, opVadd)
  | .vsub m => some (m, 0x081, opVsub)
  | .vadds m => some (m, 0x082, opVadds)
  | .vsubs m => some (m, 0x083, opVsubs)
  | .vmin m => some (m, 0x084, opVmin)
  | .vmax m => some (m, 0x085, opVmax)
  | .vminu m => some (m, 0x086, opVminu)
  | .vmaxu m => some (m, 0x087, opVmaxu)
  | .vand m => some (m, 0x088, opVand)
  | .vor m => some (m, 0x089, opVor)
  | .vxor m => some (m, 0x08A, opVxor)
  | .vandn m => some (m, 0x08B, opVandn)
  | .vshl m => some (m, 0x08C, opVshl)
  | .vshr m => some (m, 0x08D, opVshr)
  | .vsra m => some (m, 0x08E, opVsra)
  | .vsel m => some (m, 0x08F, opVsel)
  | .vclz m => some (m, 0x090, opVclz)
  | .vpopc m => some (m, 0x091, opVpopc)
  | .vfadd m => some (m, 0x092, opVfadd)
  | .vfsub m => some (m, 0x093, opVfsub)
  | .vfmin m => some (m, 0x094, opVfmin)
  | .vfmax m => some (m, 0x095, opVfmax)
  | .vfabs m => some (m, 0x096, opVfabs)
  | .vfneg m => some (m, 0x097, opVfneg)
  | .vaddB m => some (m, 0x098, opVaddB)
  | .vsubB m => some (m, 0x099, opVsubB)
  | .vaddsB m => some (m, 0x09A, opVaddsB)
  | .vsubsB m => some (m, 0x09B, opVsubsB)
  | .vminB m => some (m, 0x09C, opVminB)
  | .vmaxB m => some (m, 0x09D, opVmaxB)
  | .vminuB m => some (m, 0x09E, opVminuB)
  | .vmaxuB m => some (m, 0x09F, opVmaxuB)
  | .vandB m => some (m, 0x0A0, opVandB)
  | .vorB m => some (m, 0x0A1, opVorB)
  | .vxorB m => some (m, 0x0A2, opVxorB)
  | .vandnB m => some (m, 0x0A3, opVandnB)
  | .vshlB m => some (m, 0x0A4, opVshlB)
  | .vshrB m => some (m, 0x0A5, opVshrB)
  | .vsraB m => some (m, 0x0A6, opVsraB)
  | .vselB m => some (m, 0x0A7, opVselB)
  | .vclzB m => some (m, 0x0A8, opVclzB)
  | .vpopcB m => some (m, 0x0A9, opVpopcB)
  | .vfaddB m => some (m, 0x0AA, opVfaddB)
  | .vfsubB m => some (m, 0x0AB, opVfsubB)
  | .vfminB m => some (m, 0x0AC, opVfminB)
  | .vfmaxB m => some (m, 0x0AD, opVfmaxB)
  | .vfabsB m => some (m, 0x0AE, opVfabsB)
  | .vfnegB m => some (m, 0x0AF, opVfnegB)
  | .vcmpEq m p => some (m, ((3 : BitVec 4) ++ (p ++ (0 : BitVec 4))), (opVcmpEq p))
  | .vcmpNe m p => some (m, ((3 : BitVec 4) ++ (p ++ (1 : BitVec 4))), (opVcmpNe p))
  | .vcmpLt m p => some (m, ((3 : BitVec 4) ++ (p ++ (2 : BitVec 4))), (opVcmpLt p))
  | .vcmpLe m p => some (m, ((3 : BitVec 4) ++ (p ++ (3 : BitVec 4))), (opVcmpLe p))
  | .vcmpLtu m p => some (m, ((3 : BitVec 4) ++ (p ++ (4 : BitVec 4))), (opVcmpLtu p))
  | .vcmpLeu m p => some (m, ((3 : BitVec 4) ++ (p ++ (5 : BitVec 4))), (opVcmpLeu p))
  | .vcmpFeq m p => some (m, ((3 : BitVec 4) ++ (p ++ (6 : BitVec 4))), (opVcmpFeq p))
  | .vcmpFlt m p => some (m, ((3 : BitVec 4) ++ (p ++ (7 : BitVec 4))), (opVcmpFlt p))
  | .vcmpFle m p => some (m, ((3 : BitVec 4) ++ (p ++ (8 : BitVec 4))), (opVcmpFle p))
  | .vcmpFun m p => some (m, ((3 : BitVec 4) ++ (p ++ (9 : BitVec 4))), (opVcmpFun p))
  | .vmul m => some (m, 0x010, opVmul)
  | .vmulh m => some (m, 0x011, opVmulh)
  | .vmulhu m => some (m, 0x012, opVmulhu)
  | .vmad m => some (m, 0x013, opVmad)
  | .vfmul m => some (m, 0x014, opVfmul)
  | .vffma m => some (m, 0x015, opVffma)
  | .vffms m => some (m, 0x016, opVffms)
  | .vfnma m => some (m, 0x017, opVfnma)
  | .vsin m => some (m, 0x018, opVsin)
  | .vcos m => some (m, 0x019, opVcos)
  | .vexp2 m => some (m, 0x01A, opVexp2)
  | .vlog2 m => some (m, 0x01B, opVlog2)
  | .vrcp m => some (m, 0x01C, opVrcp)
  | .vrsqrt m => some (m, 0x01D, opVrsqrt)
  | .vsqrt m => some (m, 0x01E, opVsqrt)
  | .vcvtF32I32 m => some (m, 0x020, opVcvtF32I32)
  | .vcvtI32F32 m => some (m, 0x021, opVcvtI32F32)
  | .vcvtF32Bf16 m => some (m, 0x022, opVcvtF32Bf16)
  | .vcvtBf16F32 m => some (m, 0x023, opVcvtBf16F32)
  | .vcvtF32F16 m => some (m, 0x024, opVcvtF32F16)
  | .vcvtF16F32 m => some (m, 0x025, opVcvtF16F32)
  | .vcvtF32E4m3 m => some (m, 0x026, opVcvtF32E4m3)
  | .vcvtE4m3F32 m => some (m, 0x027, opVcvtE4m3F32)
  | .vcvtF32E5m2 m => some (m, 0x028, opVcvtF32E5m2)
  | .vcvtE5m2F32 m => some (m, 0x029, opVcvtE5m2F32)
  | .vcvtF32Fp4 m => some (m, 0x02A, opVcvtF32Fp4)
  | .vcvtFp4F32 m => some (m, 0x02B, opVcvtFp4F32)
  | .vdecOx4 m => some (m, 0x02C, opVdecOx4)
  | .vfscale m => some (m, 0x02D, opVfscale)
  | .vld m => some (m, 0x030, opVld)
  | .vst m => some (m, 0x031, opVst)
  | .vgld m => some (m, 0x032, opVgld)
  | .vsct m => some (m, 0x033, opVsct)
  | .shuf m => some (m, 0x038, opShuf)
  | .shufLd m => some (m, 0x039, opShufLd)
  | .vredadd m => some (m, 0x03A, opVredadd)
  | .vredmin m => some (m, 0x03B, opVredmin)
  | .vredmax m => some (m, 0x03C, opVredmax)
  | .vbcast m => some (m, 0x03D, opVbcast)
  | .xcl m j => some (m, ((0x16 : BitVec 7) ++ j), (opXcl j))
  | .add m => some (m, 0x160, opAdd)
  | .sub m => some (m, 0x161, opSub)
  | .and m => some (m, 0x162, opAnd)
  | .or m => some (m, 0x163, opOr)
  | .xor m => some (m, 0x164, opXor)
  | .andn m => some (m, 0x165, opAndn)
  | .shl m => some (m, 0x166, opShl)
  | .shr m => some (m, 0x167, opShr)
  | .sra m => some (m, 0x168, opSra)
  | .min m => some (m, 0x169, opMin)
  | .max m => some (m, 0x16A, opMax)
  | .minu m => some (m, 0x16B, opMinu)
  | .maxu m => some (m, 0x16C, opMaxu)
  | .clz m => some (m, 0x16D, opClz)
  | .ctz m => some (m, 0x16E, opCtz)
  | .popc m => some (m, 0x16F, opPopc)
  | .bfx m => some (m, 0x170, opBfx)
  | .bfxu m => some (m, 0x171, opBfxu)
  | .bfi m => some (m, 0x172, opBfi)
  | .sel m => some (m, 0x173, opSel)
  | .lea m => some (m, 0x174, opLea)
  | .sext m => some (m, 0x175, opSext)
  | .zext m => some (m, 0x176, opZext)
  | .sbase m => some (m, 0x177, opSbase)
  | .addB m => some (m, 0x180, opAddB)
  | .subB m => some (m, 0x181, opSubB)
  | .andB m => some (m, 0x182, opAndB)
  | .orB m => some (m, 0x183, opOrB)
  | .xorB m => some (m, 0x184, opXorB)
  | .andnB m => some (m, 0x185, opAndnB)
  | .shlB m => some (m, 0x186, opShlB)
  | .shrB m => some (m, 0x187, opShrB)
  | .sraB m => some (m, 0x188, opSraB)
  | .minB m => some (m, 0x189, opMinB)
  | .maxB m => some (m, 0x18A, opMaxB)
  | .minuB m => some (m, 0x18B, opMinuB)
  | .maxuB m => some (m, 0x18C, opMaxuB)
  | .clzB m => some (m, 0x18D, opClzB)
  | .ctzB m => some (m, 0x18E, opCtzB)
  | .popcB m => some (m, 0x18F, opPopcB)
  | .bfxB m => some (m, 0x190, opBfxB)
  | .bfxuB m => some (m, 0x191, opBfxuB)
  | .bfiB m => some (m, 0x192, opBfiB)
  | .selB m => some (m, 0x193, opSelB)
  | .leaB m => some (m, 0x194, opLeaB)
  | .sextB m => some (m, 0x195, opSextB)
  | .zextB m => some (m, 0x196, opZextB)
  | .sbaseB m => some (m, 0x197, opSbaseB)
  | .cmpEq m p => some (m, ((7 : BitVec 4) ++ (p ++ (0 : BitVec 4))), (opCmpEq p))
  | .cmpNe m p => some (m, ((7 : BitVec 4) ++ (p ++ (1 : BitVec 4))), (opCmpNe p))
  | .cmpLt m p => some (m, ((7 : BitVec 4) ++ (p ++ (2 : BitVec 4))), (opCmpLt p))
  | .cmpLe m p => some (m, ((7 : BitVec 4) ++ (p ++ (3 : BitVec 4))), (opCmpLe p))
  | .cmpLtu m p => some (m, ((7 : BitVec 4) ++ (p ++ (4 : BitVec 4))), (opCmpLtu p))
  | .cmpLeu m p => some (m, ((7 : BitVec 4) ++ (p ++ (5 : BitVec 4))), (opCmpLeu p))
  | .mul m => some (m, 0x1A0, opMul)
  | .mulh m => some (m, 0x1A1, opMulh)
  | .mulhu m => some (m, 0x1A2, opMulhu)
  | .mad m => some (m, 0x1A3, opMad)
  | .div m => some (m, 0x1A4, opDiv)
  | .divu m => some (m, 0x1A5, opDivu)
  | .rem m => some (m, 0x1A6, opRem)
  | .remu m => some (m, 0x1A7, opRemu)
  | .ldW m => some (m, 0x1B0, opLdW)
  | .ldD m => some (m, 0x1B1, opLdD)
  | .stW m => some (m, 0x1B2, opStW)
  | .stD m => some (m, 0x1B3, opStD)
  | .ldAcq m => some (m, 0x1B4, opLdAcq)
  | .stRel m => some (m, 0x1B5, opStRel)
  | .amoAdd m => some (m, 0x1B6, opAmoAdd)
  | .amoAnd m => some (m, 0x1B7, opAmoAnd)
  | .amoOr m => some (m, 0x1B8, opAmoOr)
  | .amoMin m => some (m, 0x1B9, opAmoMin)
  | .amoMax m => some (m, 0x1BA, opAmoMax)
  | .amoSwap m => some (m, 0x1BB, opAmoSwap)
  | .amoCas m => some (m, 0x1BC, opAmoCas)
  | .barInit m => some (m, 0x1BD, opBarInit)
  | .barRelease m => some (m, 0x1BD, opBarRelease)
  | .barArr m => some (m, 0x1BE, opBarArr)
  | .barExp m => some (m, 0x1BF, opBarExp)
  | .copy m n => some (m, ((0x8 : BitVec 4) ++ (n ++ (0 : BitVec 3))), opCopy)
  | .copyTr8 m n => some (m, ((0x8 : BitVec 4) ++ (n ++ (1 : BitVec 3))), opCopyTr8)
  | .copyTr16 m n => some (m, ((0x8 : BitVec 4) ++ (n ++ (2 : BitVec 3))), opCopyTr16)
  | .copyNd m n => some (m, ((0x8 : BitVec 4) ++ (n ++ (3 : BitVec 3))), opCopyNd)
  | .rget m n => some (m, ((0x8 : BitVec 4) ++ (n ++ (4 : BitVec 3))), opRget)
  | .vatom m n => some (m, ((0x8 : BitVec 4) ++ (n ++ (5 : BitVec 3))), opVatom)
  | .rputSt m t => some (m, ((0x13 : BitVec 5) ++ t), opRputSt)
  | .rredSt m t => some (m, ((0x14 : BitVec 5) ++ t), opRredSt)
  | .ratomSt m t => some (m, ((0x15 : BitVec 5) ++ t), opRatomSt)
  | .gather m => some (m, 0x24B, opGather)
  | .scatter m => some (m, 0x24C, opScatter)
  | .fmtWr m => some (m, 0x259, opFmtWr)
  | .cprog m => some (m, 0x2C4, opCprog)
  | .cflow m => some (m, 0x2C5, opCflow)
  | .cskew m => some (m, 0x2C6, opCskew)
  | .cld m => some (m, 0x2C7, opCld)
  | .cst m => some (m, 0x2C8, opCst)
  | .mstart m => some (m, 0x2C9, opMstart)
  | .mstartG m => some (m, 0x2CA, opMstartG)
  | .mzero m => some (m, 0x2CB, opMzero)
  | .mdrain m => some (m, 0x2D4, opMdrain)
  | .mepi m => some (m, 0x2D5, opMepi)
  | .mepiAcc m => some (m, 0x2D6, opMepiAcc)
  | .mepiRm m => some (m, 0x2D7, opMepiRm)
  | .tileDecl m => some (m, 0x2E2, opTileDecl)
  | .tileSub m => some (m, 0x2E3, opTileSub)
  | .tileRel m => some (m, 0x2E4, opTileRel)
  | .tileStat m => some (m, 0x2E5, opTileStat)
  | .chPost m => some (m, 0x2EA, opChPost)
  | .chWait m => some (m, 0x2EB, opChWait)
  | .jmp m => some (m, 0x301, opJmp)
  | .jmpR m => some (m, 0x302, opJmpR)
  | .call m => some (m, 0x303, opCall)
  | .loopSet m => some (m, 0x30B, opLoopSet)
  | .loopBody m => some (m, 0x30C, opLoopBody)
  | .repeatOp m => some (m, 0x30D, opRepeatOp)
  | .waitCycle m => some (m, 0x312, opWaitCycle)
  | .waitTdone m => some (m, 0x312, opWaitTdone)
  | .waitBarrier m => some (m, 0x312, opWaitBarrier)
  | .yield m => some (m, 0x313, opYield)
  | .halt m => some (m, 0x314, opHalt)
  | .trapOp m => some (m, 0x315, opTrapOp)
  | .breakOp m => some (m, 0x316, opBreakOp)
  | .eret m => some (m, 0x317, opEret)
  | .phase m => some (m, 0x318, opPhase)
  | .fence m => some (m, 0x319, opFence)
  | .fenceQ m => some (m, 0x31A, opFenceQ)
  | .fenceSt m => some (m, 0x31B, opFenceSt)
  | .taskPost m => some (m, 0x31C, opTaskPost)
  | .taskDone m => some (m, 0x31D, opTaskDone)
  | .csrRd m => some (m, 0x31E, opCsrRd)
  | .csrWr m => some (m, 0x31F, opCsrWr)
  | .codeMark m => some (m, 0x320, opCodeMark)
  | .timer m => some (m, 0x321, opTimer)
  | .tlbInv m => some (m, 0x322, opTlbInv)
  | .tlbFixMapped m => some (m, 0x323, opTlbFixMapped)
  | .tlbFixUnmappable m => some (m, 0x323, opTlbFixUnmappable)
  | .tlbFixMigrated m => some (m, 0x323, opTlbFixMigrated)
  | .coreSave m => some (m, 0x324, opCoreSave)
  | .coreLoad m => some (m, 0x325, opCoreLoad)
  | .lnkKey m => some (m, 0x326, opLnkKey)
  | .lnkGet m => some (m, 0x327, opLnkGet)
  | .linkDrain m => some (m, 0x328, opLinkDrain)
  | .linkRelock m => some (m, 0x328, opLinkRelock)
  | .linkSwitch m => some (m, 0x328, opLinkSwitch)
  | .linkKdue m => some (m, 0x328, opLinkKdue)
  | .linkDownCommand m => some (m, 0x328, opLinkDownCommand)
  | .rtWr m => some (m, 0x329, opRtWr)
  | .chWr m => some (m, 0x32A, opChWr)
  | .lnkSvc m => some (m, 0x32B, opLnkSvc)
  | .perfClr m => some (m, 0x32C, opPerfClr)

end Machine

end Sys2Proof
end

