-- ==== Sys2Proof/Certificates/Slice0/Obligations.lean ====
section
/-!
DEFINITION. The statements of this model, one `def Obligations.<Name> : Prop` each, and the terms they share.
-/

namespace Sys2Proof.Claims

open Sys2Proof.Machine

/-! ## Terms: units -/

/-- An operation of sa0, of sa1 and of sm (Tables 14.1 and 14.2). -/
def Sa0 (i : Mv → Instr) (d : BitVec 10) (needs : List Nat) (f : Dword → Dword → Dword → Dword) : Prop :=
  Scalar i d 0x150 0x151 needs 0x148 1 f
def Sa1 (i : Mv → Instr) (d : BitVec 10) (needs : List Nat) (f : Dword → Dword → Dword → Dword) : Prop :=
  Scalar i d 0x152 0x153 needs 0x149 1 f
def Sm (i : Mv → Instr) (d : BitVec 10) (needs : List Nat) (L : Nat) (f : Dword → Dword → Dword → Dword) : Prop :=
  Scalar i d 0x154 0x155 needs 0x14A L f

/-- An operation of va0, of va1 and of vm (Tables 14.5 and 14.7). -/
def Va0 (i : Mv → Instr) (d : BitVec 10) (needs : List Nat) (L : Nat) (f : Word → Word → Word → Word × BitVec 6) : Prop :=
  Lanewise i d 0x001 0x002 needs 0x001 L f
def Va1 (i : Mv → Instr) (d : BitVec 10) (needs : List Nat) (L : Nat) (f : Word → Word → Word → Word × BitVec 6) : Prop :=
  Lanewise i d 0x003 0x004 needs 0x002 L f
def Vm (i : Mv → Instr) (d : BitVec 10) (needs : List Nat) (f : Word → Word → Word → Word × BitVec 6) : Prop :=
  Lanewise i d 0x005 0x006 needs 0x003 4 f

/-- An exact integer clamped to 32 signed bits, with OF when it clamps (R237). -/
def clamped (i : Int) : Word × BitVec 6 :=
  if 2 ^ 31 - 1 < i then (0x7FFFFFFF, flagOF) else if i < -(2 ^ 31) then (0x80000000, flagOF) else (BitVec.ofInt 32 i, 0)

/-- A scalar compare of condition f: with the pair field p it writes q(2p+1) and its complement q(2p+2) (R364). -/
def ScalarCompare (i : Mv → BitVec 2 → Instr) (code : BitVec 4) (f : Dword → Dword → Bool) : Prop :=
  ∀ (s : State) (m : Mv) (p : BitVec 2), p.toNat < 3 → s.ready m (7#4 ++ (p ++ code)) [0x150] = true →
    s.Results (exec (i m p) s) [0x150, 0x151] 1 (.qpair p.toNat)
      (if f (s.operandVal 0x150) (s.movedVal m (7#4 ++ (p ++ code))) then 1 else 0) 0xFFFF 0

/-- A vector compare of condition f: its outcome for every lane, written as a pair of guards at latency L (R376). -/
def VectorCompare (i : Mv → BitVec 2 → Instr) (code : BitVec 4) (L : Nat) (f : Word → Word → Bool × BitVec 6) : Prop :=
  ∀ (s : State) (m : Mv) (p : BitVec 2), p.toNat < 3 → s.ready m (3#4 ++ (p ++ code)) [0x001] = true →
    ∃ val : Line, (∀ l, l < 16 → val.getLsbD l = (f (lane (s.operand 0x001) l) (lane (s.moved m (3#4 ++ (p ++ code))) l)).1)
      ∧ s.Results (exec (i m p) s) [0x001, 0x002] L (.gpair s.turn.slot p.toNat) val (s.moveMask m (3#4 ++ (p ++ code)))
          (laneFlags (s.moveMask m (3#4 ++ (p ++ code)))
            (fun l => (f (lane (s.operand 0x001) l) (lane (s.moved m (3#4 ++ (p ++ code))) l)).2))

/-- What a floating compare answers when either operand is NaN and which NaN raises NV (Table 14.6). -/
def floatCond (onNan anyNan : Bool) (f : FVal → FVal → Bool) (a v : Word) : Bool × BitVec 6 :=
  let x := dec32 a
  let y := dec32 v
  if x.isNan || y.isNan then (onNan, if anyNan || x.isSig || y.isSig then flagNV else 0) else (f x y, 0)

/-! ## Terms: numbers -/

/-- The real value of a number that is no NaN and no infinity (R223). -/
def FVal.real : FVal → Rat
  | .fin neg m e => (if neg then -1 else 1) * m * (2 : Rat) ^ e
  | _ => 0

/-- The value is a number, signed zeros among them. -/
def FVal.isNumber : FVal → Bool
  | .fin _ _ _ => true
  | _ => false

/-- The code c rounds the number x in a mode of Table 8.6, among the numbers of a format (R233): nearest with ties to the even
mantissa, toward zero, down or up. -/
def Rounded (f : FFmt) (mode : RMode) (x : Rat) (c : Nat) : Prop :=
  let y := FVal.real (f.decode c)
  FVal.isNumber (f.decode c) = true ∧ ∀ k, k < 2 ^ f.width → FVal.isNumber (f.decode k) = true →
    let z := FVal.real (f.decode k)
    match mode with
    | .rne => |y - x| ≤ |z - x| ∧ (z ≠ y → |y - x| = |z - x| → c % 2 = 0)
    | .rtz => |y| ≤ |x| ∧ 0 ≤ y * x ∧ (|z| ≤ |x| → 0 ≤ z * x → |z| ≤ |y|)
    | .rdn => y ≤ x ∧ (z ≤ x → z ≤ y)
    | .rup => x ≤ y ∧ (x ≤ z → y ≤ z)

/-- A directed mode rounds a number of this sign away from zero (Table 8.6). -/
def roundsAway (mode : RMode) (neg : Bool) : Prop := (mode = .rdn ∧ neg = true) ∨ (mode = .rup ∧ neg = false)

/-- A number of magnitude x, rounded with an unbounded exponent, exceeds the largest number of the format (R234). -/
def Overflows (f : FFmt) (mode : RMode) (neg : Bool) (x : Rat) : Prop :=
  let top := FVal.real (f.decode f.maxFin)
  let ulp := top - FVal.real (f.decode (f.maxFin - 1))
  (roundsAway mode neg → top < x)
  ∧ (mode = .rne → top + ulp / 2 < x ∨ (x = top + ulp / 2 ∧ f.maxFin % 2 = 1))
  ∧ (¬ roundsAway mode neg → mode ≠ .rne → top + ulp ≤ x)

/-- A number of magnitude x, rounded with an unbounded exponent, lies below the smallest normal one (R235). -/
def Tiny (f : FFmt) (mode : RMode) (neg : Bool) (x : Rat) : Prop :=
  let least := (2 : Rat) ^ (1 - (f.bias : Int))
  let ulp := least / 2 ^ (f.mb + 1)
  (roundsAway mode neg → x ≤ least - ulp) ∧ (mode = .rne → x < least - ulp / 2)
  ∧ (¬ roundsAway mode neg → mode ≠ .rne → x < least)

/-- The code of an overflow (Table 8.7): its magnitude, with the sign of the result. -/
def OverflowCode (f : FFmt) (mode : RMode) (sat neg : Bool) (code : Nat) : Prop :=
  let sign := if neg then 2 ^ (f.eb + f.mb) else 0
  let largest : Prop := sat = true ∨ mode = .rtz ∨ (mode = .rdn ∧ neg = false) ∨ (mode = .rup ∧ neg = true)
  (largest → code = sign + f.maxFin)
  ∧ (¬ largest → f ∈ [fp32, bf16, fp16, e5m2] → f.decode code = .inf neg ∧ code = sign + (2 ^ f.eb - 1) * 2 ^ f.mb)
  ∧ (¬ largest → f = e4m3 → code = sign + 0x7F) ∧ (¬ largest → f = fp4 → code = sign + 0x7)

/-- The FP32 code and flags of an exact number, rounded to nearest once (Table 8.8). -/
def roundedOnce (p : FVal) : Word × BitVec 6 := (BitVec.ofNat 32 (fp32.round .rne false p).1, (fp32.round .rne false p).2)

/-! ## Terms: vf and vx -/

/-- Fields of the mode word of vf: POS, SAT and RM (Table 14.8). -/
def modeWord (s : State) : Nat := (lane (s.operand 0x007) 0).toNat
def fieldPos (s : State) : Nat := modeWord s / 16 % 8
def saturates (s : State) : Bool := (lane (s.operand 0x007) 0).getLsbD 2
def rounding (s : State) : RMode := rmodeOf (modeWord s % 4)

/-- An operation of vf at L = 4 on lanes of a moved value (Table 14.9). -/
def Vf (i : Mv → Instr) (d : BitVec 10) (ok : State → Bool) (f : State → Word → Word × BitVec 6) : Prop :=
  Lanes i d [0x007] [0x007] 0x004 4 (fun s _ => ok s) (fun s m l => f s (lane (s.moved m d) l))

/-- A field that the lane does not have stops a conversion (R378). -/
def BadFieldTraps (i : Mv → Instr) (d : BitVec 10) (width : Nat) : Prop :=
  ∀ (s : State) (m : Mv), s.ready m d [0x007] = true → 32 / width ≤ fieldPos s → s.Traps (exec (i m) s) causeSlotIllegal 0 d.toNat

/-- A conversion to FP32 from field POS, and from FP32 into it (Table 14.9). -/
def Widens (i : Mv → Instr) (d : BitVec 10) (f : FFmt) : Prop :=
  Vf i d (fun s => decide (fieldPos s < 32 / f.width)) (fun s w =>
    asWord (fp32.round .rne false (f.decode (w.toNat / 2 ^ (f.width * fieldPos s) % 2 ^ f.width))))
def Narrows (i : Mv → Instr) (d : BitVec 10) (f : FFmt) : Prop :=
  Vf i d (fun s => decide (fieldPos s < 32 / f.width)) (fun s w =>
    let p := f.round (rounding s) (saturates s) (dec32 w)
    asWord (p.1 * 2 ^ (f.width * fieldPos s), p.2))

/-- The format-table entry that FMTSEL selects, and whether a write of it waits in the context's ft queue (R71, R187). -/
def fmtEntry (s : State) : Dword := tabGet 0 s.hereCtx.fmt s.hereCtx.fmtIndex
def fmtPending (s : State) : Bool :=
  (tabGet [] (s.core s.turn.core).queues (4 * 14 + s.turn.ctx)).any (fun c => match c.op with
    | .fmtWr _ ix => ix.toNat % 16 == s.hereCtx.fmtIndex
    | _ => false)

/-- An operation of vx on lanes. -/
def Vx (i : Mv → Instr) (d : BitVec 10) (L : Nat) (ok : State → Mv → Bool) (f : State → Mv → Nat → Word × BitVec 6) : Prop :=
  Lanes i d [0x00B, 0x00C] [0x00B] 0x005 L ok f

/-- Lane 0 of the moved value and of vx.o1. -/
def word0 (s : State) (m : Mv) (d : BitVec 10) : Nat := (lane (s.moved m d) 0).toNat
def ctl0 (s : State) : Nat := (lane (s.operand 0x00B) 0).toNat

/-- The vx.o2 latch of a cluster. -/
def vxO2 (s : State) (c : Nat) : Latch := s.hereCtx.latch s.hereSys (latchKey c 0x00C)

/-- Byte 16k + l of the entry of the active shuffle bank that a shuf in slot k names: bit 7 is Z, bits 6-0 SRC (Table 6.17). -/
def shufEntry (s : State) (m : Mv) (l : Nat) : Nat :=
  (tabGet 0 (s.core s.turn.core).shuffle ((if (s.core s.turn.core).shufBank then 8192 else 0)
    + 128 * (word0 s m 0x038 % 64) + 16 * s.turn.slot + l)).toNat
def shufClusters (s : State) (m : Mv) : List Nat :=
  distinct ((laneIx.filter (fun l => shufEntry s m l < 128)).map (fun l => shufEntry s m l / 16))

/-- The sources of a reduction, in ascending order (R390). -/
def reduced (s : State) (m : Mv) (d : BitVec 10) : List Word :=
  if (lane (s.operand 0x00B) 0).getLsbD 2 then (rangeFrom 0 8).flatMap (fun c => laneIx.map (lane (vxO2 s c).val))
  else laneIx.map (lane (s.moved m d))

/-- A reduction: from the first source on, `step` joins one source after the other (R390). -/
def Reduces (i : Mv → Instr) (d : BitVec 10) (step : Nat → Word → Word → Word × BitVec 6) : Prop :=
  Vx i d 8 (fun s _ => ctl0 s % 4 != 3 && (!(lane (s.operand 0x00B) 0).getLsbD 2 || (rangeFrom 0 8).all (fun c => (vxO2 s c).valid)))
    (fun s m _ => (reduced s m d).tail.foldl (fun p y => let q := step (ctl0 s % 4) p.1 y; (q.1, p.2 ||| q.2))
      ((reduced s m d).headD 0, 0))
  ∧ ∀ (s : State) (m : Mv), s.ready m d [0x00B] = true → ctl0 s % 4 = 3 → s.Traps (exec (i m) s) causeSlotIllegal 0 d.toNat

/-- Steps of the reductions (R390): TYPE 0 signed, 1 floating, 2 unsigned. -/
def addStep (type : Nat) (a x : Word) : Word × BitVec 6 := if type = 1 then f32Add a x else (a + x, 0)
def minStep (type : Nat) (a x : Word) : Word × BitVec 6 :=
  if type = 1 then f32MinMax false a x else if type = 0 then (BitVec.ofInt 32 (min a.toInt x.toInt), 0) else (BitVec.ofNat 32 (min a.toNat x.toNat), 0)
def maxStep (type : Nat) (a x : Word) : Word × BitVec 6 :=
  if type = 1 then f32MinMax true a x else if type = 0 then (BitVec.ofInt 32 (max a.toInt x.toInt), 0) else (BitVec.ofNat 32 (max a.toNat x.toNat), 0)

/-! ## Terms: S-space -/

/-- Operand ports of sl and of vl. -/
def slUsed : List Nat := [0x156, 0x157, 0x158]
def vlUsed : List Nat := [0x008, 0x009, 0x00A]

/-- Address base + offset, and base alone (R367); control word of sl (Table 14.3). -/
def offAddr (s : State) (m : Mv) (d : BitVec 10) : Nat := (s.operandVal 0x156 + s.movedVal m d).toNat
def baseAddr (s : State) : Nat := (s.operandVal 0x156).toNat
def slCtl (s : State) : Nat := (s.operandVal 0x158).toNat
def slSize (s : State) : Nat := if (s.operandVal 0x158).getLsbD 7 then 4 else 8

/-- The register that takes a long-latency value of sl: none for s0 (R50, R360). -/
def slLate (s : State) : Option LateDst := if slCtl s % 64 = 0 then none else some (.sreg (slCtl s % 64) s.hereSys)

/-- A context with one more long-latency access, due no earlier than some cycles from now (R82, R129). -/
def later (s : State) (cx : Ctx) (kind : LateKind) (dst : Option LateDst) (wait : Nat) (acq : Bool) : Ctx :=
  { cx with late := cx.late ++ [
      { kind := kind, dst := dst, issued := s.cycle, earliest := s.cycle + BitVec.ofNat 64 wait, acq := acq
        order := s.nextId }] }

/-- No acquire of the context is under way (R370, R426). -/
def calm (s : State) : Bool := !s.hereCtx.acquiring

/-- An access of n bytes passes the checks of Table 3.2; an ordered one needs IMMEDIATE memory. -/
def addrOk (s : State) (a n : Nat) (ordered : Bool) : Bool :=
  decide (a < 2 ^ 30) && decide (a % n = 0) && (!ordered || !s.phased a)

/-- The address lies in the slice of the core of the turn (R80). -/
def ownSlice (s : State) (a : Nat) : Bool := decide (a / 0x800000 = s.turn.core)

/-- The banks of the own slice serve these lines in this cycle: the fetch of the array leaves them free, and what an earlier
cycle has not granted is one access of each (R83, R385). -/
def served (s : State) (lines : List Nat) : Bool := s.banksServe s.here [] (lines.map bankOf)

/-- Lines of the own slice that enabled lanes touch, each once. -/
def ownLinesOf (s : State) (ls : List (Nat × Nat)) : List Nat :=
  distinct ((ls.filter (fun p => ownSlice s p.2)).map (fun p => p.2 / 64))

/-- A scalar load of n bytes from the own slice lands 6 bundles on, from another slice it marks its destination empty and
is sent over the mesh with the phase-buffer bytes present at issue (R366, R368, R50). -/
def Loads (i : Mv → Instr) (d : BitVec 10) (size : State → Nat) (ordered : Bool) : Prop :=
  ∀ (s : State) (m : Mv), s.ready m d [0x156, 0x158] = true → calm s = true →
    (ordered = true → slCtl s / 4096 % 8 ≤ 4) → addrOk s (offAddr s m d) (size s) ordered = true →
    (ownSlice s (offAddr s m d) = true → served s [offAddr s m d / 64] = true → s.anyPoison (offAddr s m d) (size s) = false →
      s.Results (exec (i m) s) slUsed 6 (.sreg (sKey s.hereSys (slCtl s % 64)))
        (ofDword (BitVec.ofNat 64 (leNat (s.coreRead s.turn.core (offAddr s m d) (size s))))) 0xFFFF 0)
    ∧ (ownSlice s (offAddr s m d) = false → (slCtl s % 64 ≠ 0 → s.hereCtx.isEmpty (sEmptyKey (sKey s.hereSys (slCtl s % 64))) = false) →
      s.Does (exec (i m) s) slUsed s
        ((later s s.hereCtx (.load (offAddr s m d) (size s) (s.overlay s.turn.core (offAddr s m d) (size s))) (slLate s) 20 ordered).setEmpty
          (sEmptyKey (sKey s.hereSys (slCtl s % 64))) true))

/-- The outcome of a slot that stores bytes to S-space: they stand at the address, every other byte is as before, the lines
are dirty, and nothing else changes (R85, R369). -/
def StoresTo (s : State) (out : Host.Outcome State Fault Refusal) (used : List Nat) (addr : Nat) (bs : List Byte) (cx : Ctx) : Prop :=
  ∃ t, out = .next t ∧ (s.sWrite addr bs).Frame t cx ∧ s.Issued t used [] (s.herePlane.pc + 1)
    ∧ t.sRead addr bs.length = bs ∧ ∀ a, a < addr ∨ addr + bs.length ≤ a → t.sRead a 1 = s.sRead a 1

/-- The outcome of a slot that stores bytes into the phase write buffer: no byte of memory changes, and what the core reads
changes at those bytes only (R88). -/
def Buffers (s : State) (out : Host.Outcome State Fault Refusal) (used : List Nat) (addr : Nat) (bs : List Byte) : Prop :=
  ∃ t, out = .next t ∧ (s.modCore s.turn.core (fun k => k.pwbStores addr bs)).Frame t s.hereCtx
    ∧ s.Issued t used [] (s.herePlane.pc + 1) ∧ (∀ a, t.sRead a 1 = s.sRead a 1)
    ∧ t.coreRead s.turn.core addr bs.length = bs
    ∧ ∀ a, a < addr ∨ addr + bs.length ≤ a → t.coreByte s.turn.core a = s.coreByte s.turn.core a

/-- A scalar store of n bytes (R366, R369). -/
def StoresPlain (i : Mv → Instr) (d : BitVec 10) (n : Nat) : Prop :=
  ∀ (s : State) (m : Mv), s.ready m d [0x156, 0x157] = true → calm s = true → addrOk s (offAddr s m d) n false = true →
    s.anyTagged (offAddr s m d) n = false →
    (s.phased (offAddr s m d) = false → ownSlice s (offAddr s m d) = true → served s [offAddr s m d / 64] = true →
      StoresTo s (exec (i m) s) slUsed (offAddr s m d) (leBytes (s.operandVal 0x157).toNat n) s.hereCtx)
    ∧ (s.phased (offAddr s m d) = false → ownSlice s (offAddr s m d) = false →
      s.Does (exec (i m) s) slUsed s (later s s.hereCtx
        (.store ((rangeFrom (offAddr s m d) n).zip (leBytes (s.operandVal 0x157).toNat n))) none 20 false))
    ∧ (s.phased (offAddr s m d) = true → ((s.core s.turn.core).pwbLine (offAddr s m d / 64)).isSome = true ∨ (s.core s.turn.core).occ < 8192 →
      Buffers s (exec (i m) s) slUsed (offAddr s m d) (leBytes (s.operandVal 0x157).toNat n))
    ∧ (s.phased (offAddr s m d) = true → ((s.core s.turn.core).pwbLine (offAddr s m d / 64)).isSome = false → 8192 ≤ (s.core s.turn.core).occ →
      s.Traps (exec (i m) s) causePhaseOvf (log2Size n) (offAddr s m d))

/-- An atomic (R371): `x` and `e` are its operands. In the own slice it is performed at once and its old value waits 6
cycles; in another slice it is sent over the mesh; with a release it begins to complete it. -/
def Atomics (i : Mv → Instr) (d : BitVec 10) (needs : List Nat) (op : AtomicOp) (x e : State → Mv → Dword) : Prop :=
  ∀ (s : State) (m : Mv), s.ready m d needs = true → calm s = true → (slCtl s / 256 % 4 ≠ 0 → slCtl s / 4096 % 8 ≤ 4) →
    addrOk s (baseAddr s) (slSize s) true = true → s.anyTagged (baseAddr s) (slSize s) = false →
    (slCtl s % 64 ≠ 0 → s.hereCtx.isEmpty (sEmptyKey (sKey s.hereSys (slCtl s % 64))) = false) →
    let n := slSize s
    let old := leNat (s.sRead (baseAddr s) n)
    let word := (s.operandVal 0x158).getLsbD 7
    let marked := s.hereCtx.setEmpty (sEmptyKey (sKey s.hereSys (slCtl s % 64))) true
    (slCtl s / 256 % 4 < 2 → ownSlice s (baseAddr s) = true → served s [baseAddr s / 64] = true → s.anyPoison (baseAddr s) n = false →
      StoresTo s (exec (i m) s) slUsed (baseAddr s) (leBytes (atomicNew op n old (x s m).toNat (e s m).toNat) n)
        (later s marked (.value (ofDword (BitVec.ofNat 64 old))) (slLate s) 6 false))
    ∧ (slCtl s / 256 % 4 < 2 → ownSlice s (baseAddr s) = false →
      s.Does (exec (i m) s) slUsed s
        (later s marked (.amo op (baseAddr s) word (x s m) (e s m)) (slLate s) 20 (slCtl s / 256 % 4 == 1)))
    ∧ (2 ≤ slCtl s / 256 % 4 →
      s.Does (exec (i m) s) slUsed s { marked with completing := [.release (slCtl s / 4096 % 8)
        (.amo op (baseAddr s) word (x s m) (e s m) (slCtl s % 64) s.hereSys (slCtl s / 256 % 4 == 3)) s.nextId] })

/-- The checks of an access of sl that stop it, with TRAPINFO as Table 2.8 gives it: the first that fails decides (R81, R87,
R367). -/
def AccessTraps (i : Mv → Instr) (d : BitVec 10) (needs : List Nat) (addr : State → Mv → Nat) (size : State → Nat)
    (atScope : State → Bool) (ordered writes : Bool) : Prop :=
  ∀ (s : State) (m : Mv), s.ready m d needs = true → (atScope s = true → slCtl s / 4096 % 8 ≤ 4) →
    (2 ^ 30 ≤ addr s m → s.Traps (exec (i m) s) causeSaddrRange (log2Size (size s)) (addr s m))
    ∧ (addr s m < 2 ^ 30 → addr s m % size s ≠ 0 → s.Traps (exec (i m) s) causeAlign (log2Size (size s)) (addr s m))
    ∧ (addr s m < 2 ^ 30 → addr s m % size s = 0 → ordered = true → s.phased (addr s m) = true →
        s.Traps (exec (i m) s) causeRegionKind (log2Size (size s)) (addr s m))
    ∧ (addrOk s (addr s m) (size s) ordered = true → writes = true → s.anyTagged (addr s m) (size s) = true →
        s.Traps (exec (i m) s) causeBarStore (log2Size (size s)) (addr s m))

/-- A store into PHASED memory needs line 8,193 of the core's buffer, which lower slots or lanes have given the lines of
`tags` (R89). -/
def bufferFull (s : State) (addr : Nat) (tags : List Nat) : Prop :=
  let k := s.core s.turn.core
  s.phased addr = true ∧ k.pwbLine (addr / 64) = none ∧ addr / 64 ∉ tags
    ∧ 8192 ≤ k.occ + ((distinct tags).filter (fun t => (k.pwbLine t).isNone)).length

/-- The checks of a line access of vl that stop it (R81, R87, R89, R382, R383): the first that fails decides; with no lane
enabled none is made. -/
def LineTraps (i : Mv → Instr) (d : BitVec 10) (needs : List Nat) (writes : Bool) : Prop :=
  ∀ (s : State) (m : Mv), s.ready m d needs = true → s.moveMask m d ≠ 0 →
    let a := (lane (s.operand 0x008) 0 + lane (s.moved m d) 0).toNat
    let tagged : Prop := ∃ l, l < 16 ∧ (s.moveMask m d).getLsbD l = true ∧ s.tagged (a + 4 * l) = true
    (2 ^ 30 ≤ a → s.Traps (exec (i m) s) causeSaddrRange 6 a)
    ∧ (a < 2 ^ 30 → a % 64 ≠ 0 → s.Traps (exec (i m) s) causeAlign 6 a)
    ∧ (a < 2 ^ 30 → a % 64 = 0 → writes = true → tagged → s.Traps (exec (i m) s) causeBarStore 6 a)
    ∧ (a < 2 ^ 30 → a % 64 = 0 → writes = true → ¬ tagged → bufferFull s a [] → s.Traps (exec (i m) s) causePhaseOvf 6 a)

/-- The check that lane l of a gather or scatter fails, once the enabled lanes below it have passed (R384). -/
def LaneFails (s : State) (m : Mv) (d : BitVec 10) (writes : Bool) (l : Nat) (cause : BitVec 8) : Prop :=
  let at_ (k : Nat) : Nat := (lane (s.operand 0x008) 0 + lane (s.moved m d) k).toNat
  let below := (rangeFrom 0 l).filter (fun k => (s.moveMask m d).getLsbD k && s.phased (at_ k))
  (2 ^ 30 ≤ at_ l ∧ cause = causeSaddrRange)
  ∨ (at_ l < 2 ^ 30 ∧ at_ l % 4 ≠ 0 ∧ cause = causeAlign)
  ∨ (at_ l < 2 ^ 30 ∧ at_ l % 4 = 0 ∧ writes = true ∧ s.anyTagged (at_ l) 4 = true ∧ cause = causeBarStore)
  ∨ (at_ l < 2 ^ 30 ∧ at_ l % 4 = 0 ∧ writes = true ∧ s.anyTagged (at_ l) 4 = false
    ∧ bufferFull s (at_ l) (below.map (fun k => at_ k / 64)) ∧ cause = causePhaseOvf)

/-- A gather or scatter stops at its first enabled lane that fails a check: AUX holds 2, and ADDR that lane's address; nothing
is written (R62, R384). -/
def LanesTrap (i : Mv → Instr) (d : BitVec 10) (needs : List Nat) (writes : Bool) : Prop :=
  ∀ (s : State) (m : Mv) (l : Nat) (cause : BitVec 8), s.ready m d needs = true → l < 16 → (s.moveMask m d).getLsbD l = true →
    LaneFails s m d writes l cause → (∀ k c, k < l → (s.moveMask m d).getLsbD k = true → ¬ LaneFails s m d writes k c) →
    s.Traps (exec (i m) s) cause 2 (lane (s.operand 0x008) 0 + lane (s.moved m d) l).toNat

/-- A barrier operation of the own slice (R372): the word afterwards and its two tags. -/
def Barriers (s : State) (out : Host.Outcome State Fault Refusal) (word : Nat) (tags : Option Bool) : Prop :=
  ∃ t, out = .next t ∧ s.Issued t slUsed [] (s.herePlane.pc + 1)
    ∧ (let u := s.sWrite (baseAddr s) (leBytes word 8)
       match tags with
       | none => u.Frame t s.hereCtx
       | some b => ((u.setTag (baseAddr s / 4) b).setTag (baseAddr s / 4 + 1) b).Frame t s.hereCtx)
    ∧ t.sRead (baseAddr s) 8 = leBytes word 8 ∧ (∀ a, a < baseAddr s ∨ baseAddr s + 8 ≤ a → t.sRead a 1 = s.sRead a 1)
    ∧ ∀ b, tags = some b → t.tagged (baseAddr s) = b ∧ t.tagged (baseAddr s + 4) = b

/-- Fields of a barrier word and the word they make (Table 4.2). -/
def barOf (pend : Nat) (ph : Bool) (exp arr : Nat) : Nat := pend * 2 ^ 32 + (if ph then 2 ^ 31 else 0) + exp * 2 ^ 16 + arr

/-- The barrier word at the address. -/
def barHere (s : State) : Nat := leNat (s.sRead (baseAddr s) 8)

/-- The enabled lanes of a vector access with their addresses. -/
def laneAddrs (s : State) (m : Mv) (d : BitVec 10) (addr : Nat → Nat) : List (Nat × Nat) :=
  (laneIx.filter (fun l => (s.moveMask m d).getLsbD l)).map (fun l => (l, addr l))
def lineBase (s : State) (m : Mv) (d : BitVec 10) : Nat := (lane (s.operand 0x008) 0 + lane (s.moved m d) 0).toNat
def gatherAddr (s : State) (m : Mv) (d : BitVec 10) (l : Nat) : Nat := (lane (s.operand 0x008) 0 + lane (s.moved m d) l).toNat
def vlDst (s : State) : Nat := (lane (s.operand 0x00A) 0).toNat % 64

/-- A vector load (R383, R384): where every enabled lane lies in the own slice it lands 6 bundles on, under its mask;
otherwise it marks its register empty and is sent over the mesh, with what its lanes of the own slice and the phase write
buffer hold at issue (R385, R368). -/
def LoadsLanes (i : Mv → Instr) (d : BitVec 10) (addr : State → Mv → Nat → Nat) (ok : State → Mv → Bool) : Prop :=
  ∀ (s : State) (m : Mv), s.ready m d [0x008, 0x00A] = true → calm s = true → ok s m = true →
    let ls := laneAddrs s m d (addr s m)
    served s (ownLinesOf s ls) = true → (ls.filter (fun p => ownSlice s p.2)).all (fun p => !s.anyPoison p.2 4) = true →
    (ls.all (fun p => ownSlice s p.2) = true →
      ∃ val : Line, (∀ l, l < 16 → (s.moveMask m d).getLsbD l = true →
          lane val l = BitVec.ofNat 32 (leNat (s.coreRead s.turn.core (addr s m l) 4)))
        ∧ s.Results (exec (i m) s) vlUsed 6 (.vreg s.turn.slot (vlDst s)) val (s.moveMask m d) 0)
    ∧ (ls.all (fun p => ownSlice s p.2) = false → s.hereCtx.isEmpty (vEmptyKey s.turn.slot (vlDst s)) = false →
      s.Does (exec (i m) s) vlUsed s
        ((later s s.hereCtx (.vload ls (ls.flatMap (fun p =>
            if ownSlice s p.2 then (rangeFrom p.2 4).map (fun a => (a, s.coreByte s.turn.core a)) else s.overlay s.turn.core p.2 4)))
          (some (.vreg s.turn.slot (vlDst s) (s.moveMask m d))) 20 false).setEmpty (vEmptyKey s.turn.slot (vlDst s)) true))

/-- A vector store (R383, R384): lane after lane a plain store. A lane's word stands at its address unless a later lane
writes there, and every byte outside the enabled lanes' words is as before: of memory for IMMEDIATE words of the own slice,
of what the core reads for PHASED ones, where no byte of memory changes. A line of the phase write buffer takes no bank of
`vst` (`past`). -/
def StoresLanes (i : Mv → Instr) (d : BitVec 10) (addr : State → Mv → Nat → Nat) (past : Bool) (ok : State → Mv → Bool) : Prop :=
  ∀ (s : State) (m : Mv), s.ready m d [0x008, 0x009] = true → calm s = true → ok s m = true →
    let ls := laneAddrs s m d (addr s m)
    let word (l : Nat) : List Byte := leBytes (lane (s.operand 0x009) l).toNat 4
    let u := ls.foldl (fun u p => u.storePlain s.turn.core s.turn.ctx p.2 (word p.1)) s
    ls.all (fun p => !s.anyTagged p.2 4) = true → (ls.all (fun p => !s.phased p.2) = true ∨ (s.core s.turn.core).occ + 16 ≤ 8192) →
    served s (ownLinesOf s (ls.filter (fun p => !(past && s.phased p.2)))) = true →
    ∃ t, exec (i m) s = .next t ∧ s.Issued t vlUsed [] (s.herePlane.pc + 1) ∧ u.Frame t (u.ctx s.turn.core s.turn.ctx)
      ∧ (ls.all (fun p => ownSlice s p.2 && !s.phased p.2) = true →
          (∀ a, ls.all (fun p => decide (a < p.2 ∨ p.2 + 4 ≤ a)) = true → t.sRead a 1 = s.sRead a 1)
          ∧ ∀ p ∈ ls, (∀ q ∈ ls, p.1 < q.1 → q.2 ≠ p.2) → t.sRead p.2 4 = word p.1)
      ∧ (ls.all (fun p => s.phased p.2) = true →
          (∀ a, t.sRead a 1 = s.sRead a 1)
          ∧ (∀ a, ls.all (fun p => decide (a < p.2 ∨ p.2 + 4 ≤ a)) = true → t.coreByte s.turn.core a = s.coreByte s.turn.core a)
          ∧ ∀ p ∈ ls, (∀ q ∈ ls, p.1 < q.1 → q.2 ≠ p.2) → t.coreRead s.turn.core p.2 4 = word p.1)

/-! ## Terms: engine commands -/

/-- The command that a trigger pushes into the queue of a unit (R157). -/
def command (s : State) (unit : Nat) (op : CmdOp) (seq : BitVec 24) : Cmd :=
  { op := op, unit := unit, core := s.turn.core, ctx := s.turn.ctx, sys := s.hereSys, serial := s.nextId, seq := seq
    issued := s.cycle, step := s.hereCtx.step }

/-- The state with a command at the end of its unit's queue of the context. -/
def queued (s : State) (cmd : Cmd) : State :=
  ({ s with nextId := s.nextId + 1 }).modCore s.turn.core (fun k => { k with
    queues := tabSet [] k.queues (4 * cmd.unit + s.turn.ctx) (tabGet [] k.queues (4 * cmd.unit + s.turn.ctx) ++ [cmd]) })

/-- A context whose command has been pushed: the command is live until its unit retires it. -/
def pushing (s : State) (unit : Nat) (cx : Ctx) : Ctx := { cx with live := cx.live ++ [(s.nextId, unit)] }

/-- The outcome of a slot that pushes one command (R157, R151): the command stands last in the queue of the context, the
context is `cx` with the command live, and nothing else changes. -/
def Pushes (s : State) (out : Host.Outcome State Fault Refusal) (used : List Nat) (unit : Nat) (op : CmdOp) (seq : BitVec 24)
    (cx : Ctx) : Prop :=
  s.Does out used (queued s (command s unit op seq)) (pushing s unit cx)

/-- A context in which a register waits for the value of the command pushed next (R50), and which holds its later accesses
where the command acquires (R426). -/
def armed (s : State) (dst : Option LateDst) (acquires : Bool) (cx : Ctx) : Ctx :=
  let cx := match dst with
    | some d => (later s cx (.engine s.nextId) (some d) 0 false).setEmpty d.key true
    | none => cx
  if acquires then { cx with acquireHold := cx.acquireHold ++ [s.nextId] } else cx

/-- Operands of the copy unit and fields of its control word (Table 16.2). -/
def cp1 (s : State) : Dword := s.operandVal 0x240
def cp2 (s : State) : Dword := s.operandVal 0x241
def cpCtl (s : State) : Dword := s.operandVal 0x242
def cpUsed : List Nat := [0x240, 0x241, 0x242]
/-- The register that takes the returned value: none for s0. -/
def cpDst (s : State) : Option LateDst :=
  if (cpCtl s).toNat % 64 = 0 then none else some (.sreg ((cpCtl s).toNat % 64) s.hereSys)

/-- The key of the pair of a stream and the destination in the control word, and its next sequence number (R141). -/
def pairKey (s : State) (t : BitVec 5) : Nat := 2048 * t.toNat + (cpCtl s).toNat / 2 ^ 20 % 2048
def nextSeq (s : State) (t : BitVec 5) : BitVec 24 := if t = 0 then 0 else tabGet 0 s.hereCtx.strNext (pairKey s t)

/-- A context that has sent on a stream: the pair's sequence number rises but on stream 0, one more operation is uncommitted
and STRFENCE shows the stream (R141, R420). -/
def streamed (s : State) (t : BitVec 5) (cx : Ctx) : Ctx :=
  { cx with
    strNext := if t = 0 then cx.strNext else tabSet 0 cx.strNext (pairKey s t) (tabGet 0 cx.strNext (pairKey s t) + 1)
    uncommitted := tabSet 0 cx.uncommitted (pairKey s t) (tabGet 0 cx.uncommitted (pairKey s t) + 1)
    strFence := cx.strFence ||| (1 <<< t.toNat) }

/-- A local copy trigger of channel n. -/
def CopyPush (i : Mv → BitVec 3 → Instr) (code : BitVec 3) (op : Op) (mk : Dword → Dword → Dword → Dword → CmdOp)
    (ret holds : State → Bool) : Prop :=
  ∀ (s : State) (m : Mv) (n : BitVec 3), s.fires m (0x8#4 ++ (n ++ code)) op = true →
    Pushes s (exec (i m n) s) cpUsed (2 + n.toNat) (mk (cp1 s) (cp2 s) (cpCtl s) (s.movedVal m (0x8#4 ++ (n ++ code)))) 0
      (armed s (if ret s then cpDst s else none) (holds s) s.hereCtx)

/-- A remote trigger of stream t: its channel stands in bits 19-17 of the control word. -/
def RemotePush (i : Mv → BitVec 5 → Instr) (code : BitVec 5) (op : Op) (mk : BitVec 5 → Dword → Dword → Dword → Dword → CmdOp)
    (ret holds : State → Bool) : Prop :=
  ∀ (s : State) (m : Mv) (t : BitVec 5), s.fires m (code ++ t) op = true →
    Pushes s (exec (i m t) s) cpUsed (2 + (cpCtl s).toNat / 2 ^ 17 % 8) (mk t (cp1 s) (cp2 s) (cpCtl s) (s.movedVal m (code ++ t)))
      (nextSeq s t) (streamed s t (armed s (if ret s then cpDst s else none) (holds s) s.hereCtx))

/-- A trigger of another unit that pushes one command and changes nothing else of its context. -/
def PlainPush (i : Mv → Instr) (d : BitVec 10) (op : Op) (used : List Nat) (unit : Nat) (mk : State → Dword → CmdOp) : Prop :=
  ∀ (s : State) (m : Mv), s.fires m d op = true → Pushes s (exec (i m) s) used unit (mk s (s.movedVal m d)) 0 s.hereCtx

/-- The v registers that an operand of mstart takes as rows (R407): `words` registers from the named one on, cluster after
cluster. -/
def rowsOf (s : State) (w : Dword) (words : Nat) : List Line :=
  if w.toNat / 2 ^ 62 = 1 then
    (rangeFrom 0 words).flatMap (fun i => (rangeFrom 0 8).map (fun cl => s.hereCtx.readV cl (w.toNat % 64 + i)))
  else []

/-- Operands of the ce unit, and tiles that an mstart names (R407, R423). -/
def ce1 (s : State) : Dword := s.operandVal 0x2C0
def ce2 (s : State) : Dword := s.operandVal 0x2C1
def ce3 (s : State) : Dword := s.operandVal 0x2C2
def mTiles (s : State) (v : Dword) : List Nat :=
  [(operandOf s.turn.core (ce1 s) (ce2 s) []).tile, (operandOf s.turn.core (ce3 s) v []).tile].filterMap id

/-- The number of an mstart.g among its member's (R411); none outside a gang. -/
def memberNo (s : State) : Option Nat :=
  match s.stepOf s.turn.core s.turn.ctx with
  | some t => if 1 < (s.steps.filter (fun u => u.task == t.task && u.inst == t.inst)).length then some t.groupCmds else none
  | none => none

/-- An mstart: the command takes the rows of its v registers, the format index and its place in a gang, and the tiles it
names are in use until it ends (R406-R408, R202). -/
def ArrayStart (i : Mv → Instr) (d : BitVec 10) (op : Op) (place : State → Option Nat) : Prop :=
  ∀ (s : State) (m : Mv), s.fires m d op = true →
    let v := s.movedVal m d
    let k := (ce1 s).toNat / 2 ^ 30 % 2 ^ 20 + 1
    let e := fmtEntry s
    s.Does (exec (i m) s) [0x2C0, 0x2C1, 0x2C2]
      (queued (s.modCore s.turn.core (fun c => { c with tileUse := c.tileUse ++ (mTiles s v).map (fun t => (t, s.nextId)) }))
        (command s 0 (.mstart (ce1 s) (ce2 s) (ce3 s) v (rowsOf s (ce1 s) (rowWords (entA e) k)) (rowsOf s (ce3 s) (rowWords (entB e) k))
          s.hereCtx.fmtIndex (place s)) 0))
      (pushing s 0 s.hereCtx)

/-! ## Terms: control -/

/-- The bundle of a slot has issued: `u` is the state with its effect, `cx` its context but for what a landing value or a
loop level's end may change, and `P` says more of the state after it. -/
def Ends (s : State) (out : Host.Outcome State Fault Refusal) (used : List Nat) (u : State) (cx : Ctx) (P : State → Prop) : Prop :=
  ∃ t, out = .next t ∧ u.Frame t cx ∧ s.Issued t used [] (s.herePlane.pc + 1) ∧ P t

/-- The context of the turn of s, in t. -/
def after (s t : State) : Ctx := t.ctx s.turn.core s.turn.ctx

/-- A branch to p is taken (R328, R330): whatever loop level ends at the bundle, p is next and no loop counter steps. -/
def GoesTo (s : State) (out : Host.Outcome State Fault Refusal) (p : BitVec 13) : Prop :=
  ∃ t, out = .next t ∧ s.Frame t s.hereCtx ∧ s.Issued t [] [] p ∧ (s.planeAfter t).pc = p ∧ (after s t).loopctr = s.hereCtx.loopctr

/-- The loop word at a level, and that word as a loop operation leaves it. -/
def loopWord (s : State) (n : Nat) : BitVec 128 := tabGet 0 s.hereCtx.loops n

/-- The check of R331 on the word that a loop operation leaves at level n: the level is TEMPORAL with STEP 0, BOUND is not 0
and the active levels stay well formed and nested (R190). -/
def loopFits (s : State) (n : Nat) (w : BitVec 128) : Bool :=
  decide (n ≤ 5) && (loopWord s n).extractLsb' 34 3 == 0 && w.extractLsb' 0 32 != 0
    && s.loopsOk s.turn.core (tabSet 0 s.hereCtx.loops n w)

/-- A loop operation that leaves word w at level n (R331): it takes effect after its bundle; a word that does not fit traps
with LOOP.NEST and changes nothing. -/
def SetsLoop (s : State) (out : Host.Outcome State Fault Refusal) (port n : Nat) (w : BitVec 128) (zero : Bool) : Prop :=
  (loopFits s n w = true →
    Ends s out [0x308, 0x309, 0x30A] s { s.hereCtx with
        loops := tabSet 0 s.hereCtx.loops n w
        loopctr := if zero then tabSet 0 s.hereCtx.loopctr n 0 else s.hereCtx.loopctr }
      (fun t => tabGet 0 (after s t).loops n = w ∧ (after s t).dirtymap.getLsbD 33 = true
        ∧ (zero = true → tabGet 0 (after s t).loopctr n = 0)))
  ∧ (loopFits s n w = false → s.Traps out causeLoopNest 0 port)

/-- The bound of the level's word is reached with this iteration (R329). -/
def levelExits (s : State) (n : Nat) : Bool :=
  decide (((loopWord s n).extractLsb' 0 32).toNat ≤ (tabGet 0 s.hereCtx.loopctr n).toNat + 1)

/-- Levels whose end steps run, innermost first: those that exit and the first that goes on (R329). -/
def steppedLevels (s : State) (ns : List Nat) : List Nat :=
  ns.takeWhile (levelExits s) ++ (ns.dropWhile (levelExits s)).take 1

/-- What the end step of level n adds to s register k (R329). -/
def stepAdds (s : State) (k n : Nat) : Dword :=
  let w := loopWord s n
  (if k ≠ 0 ∧ (w.extractLsb' 122 6).toNat = k then (w.extractLsb' 96 26).signExtend 64 else 0)
    + (if k ≠ 0 ∧ (w.extractLsb' 90 6).toNat = k then (w.extractLsb' 64 26).signExtend 64 else 0)

/-- The cause of a slot on the user plane is delivered (R249); what a `task.post` that it abandons has asked of the host goes
(R326). -/
def Delivered (s t : State) (cause : BitVec 8) (info : Dword) : Prop :=
  let cx := after s t
  cx.trapCause = cause ∧ cx.trapPc = s.hereCtx.user.pc ∧ cx.trapInfo = info ∧ cx.modeSys = true ∧ cx.state = .system
    ∧ cx.sys = {} ∧ cx.user = s.hereCtx.user
    ∧ cx.sreg = s.hereCtx.sreg ∧ cx.vreg = s.hereCtx.vreg ∧ cx.g = s.hereCtx.g ∧ cx.q = s.hereCtx.q
    ∧ cx.acflags = s.hereCtx.acflags ∧ cx.empty = s.hereCtx.empty ∧ cx.step = s.hereCtx.step ∧ cx.seatedNow = s.hereCtx.seatedNow
    ∧ t.aside = (s.dropPost s.turn.core s.turn.ctx).aside ∧ ((∀ d ∈ s.hostData, d.reader ≠ some (s.turn.core, s.turn.ctx)) →
        (∀ r ∈ s.hostPending, ∀ a, r.who ≠ .post s.turn.core s.turn.ctx a) → t.aside = s.aside)
    ∧ t.steps = s.steps ∧ (∀ c, c ≠ s.turn.core → t.core c = s.core c)
    ∧ (t.core s.turn.core).aside = (s.core s.turn.core).aside
    ∧ ∀ x, x ≠ s.turn.ctx → t.ctx s.turn.core x = s.ctx s.turn.core x

/-- The cycle from which a context that its bundle blocks now has waited (R39). -/
def waitsFrom (s : State) : Dword := if s.hereCtx.state = .blocked then s.hereCtx.blockedSince else s.cycle

/-- The context is DEAD: no state follows that one (Table 1.11). -/
abbrev isDead (s : State) : Prop := s.hereCtx.state = .dead

/-- The context is BLOCKED on b, without a seat. -/
def blockedOn (b : Block) (cx : Ctx) : Prop := cx.state = .blocked ∧ cx.block = b ∧ cx.seatedNow = false

/-- The TOPB that `task.post` reads (R340): 256 B at an aligned address of a readable page. -/
def postedTopb (s : State) (va : Dword) : Option (List Byte) := if va.toNat % 256 = 0 then s.vReadFor (some (s.turn.core, s.turn.ctx)) va.toNat 256 else none

/-- `task.post` answers a status in sy.res and leaves the state u (R340). -/
def Answers (s : State) (out : Host.Outcome State Fault Refusal) (status : Nat) (u : State) (P : State → Prop) : Prop :=
  ∃ t, out = .next t ∧ u.Frame t s.hereCtx ∧ s.Issued t [] [] (s.herePlane.pc + 1)
    ∧ s.Delivers t 2 (.latch 0x14C) (ofDword (BitVec.ofNat 64 status)) 0xFFFF 0 ∧ P t

/-! ## Terms: system operations -/

/-- The slot's operation makes state `f` of the state in which it acts, and its bundle ends. -/
def Acts (s : State) (out : Host.Outcome State Fault Refusal) (m : Mv) (d : BitVec 10) (op : Op) (f : State → State) : Prop :=
  out = .next ((s.proceed (f (s.primed m d op)) none).advance s.here 2)

/-- The slot's operation does what `Acts` says, and its status lands in sy.res two bundles on. -/
def ActsWith (s : State) (out : Host.Outcome State Fault Refusal) (m : Mv) (d : BitVec 10) (op : Op) (status : Dword)
    (f : State → State) : Prop :=
  Acts s out m d op (fun u => (f u).modCtx s.turn.core s.turn.ctx
    (fun cx => cx.addDue s.hereSys (s.recordOf 2 (.latch 0x14C) (ofDword status) 0xFFFF 0)))

/-- A system operation whose only outcome is a value in sy.res two bundles on. -/
def SyAnswers (s : State) (out : Host.Outcome State Fault Refusal) (used : List Nat) (v : Dword) : Prop :=
  s.Results out used 2 (.latch 0x14C) (ofDword v) 0xFFFF 0

/-- Operands of sy. -/
def sy1 (s : State) : Dword := s.operandVal 0x310
def sy2 (s : State) : Dword := s.operandVal 0x311
def syUsed : List Nat := [0x310, 0x311]

/-- A TLB entry covers an address at the page size of a code: every entry for code 7 (R345). -/
def covers (code va : Nat) (e : TlbEntry) : Prop :=
  code = 7 ∨ (e.level = code ∧ e.base.toNat / codeSize code = va / codeSize code)

/-- A command of `lnk.cmd` on a link (R350). -/
def linkCommand (cmd n : Nat) (v : Dword) (s : State) : State :=
  match cmd with
  | 0 => s.linkDrain n
  | 1 => s.linkRelock n
  | 2 => s.linkSwitch n
  | 3 => s.linkKdue n (v.extractLsb' 0 48)
  | _ => if (s.link n).state == .down then s else s.linkDown n

/-- Every link but n is as before. -/
def otherLinks (s t : State) (n : Nat) : Prop := ∀ k, k ≠ n → t.link k = s.link k

/-! ## Terms: the machine as a whole -/

/-- The turn that the step takes, and the agenda it leaves: the head of the agenda or, where it is empty, of the plan. -/
def nextTurn (s : State) : Option (Turn × List Turn) :=
  match s.agenda with
  | t :: rest => some (t, rest)
  | [] => match s.plan with
    | t :: rest => some (t, rest)
    | [] => none

/-- The state in which slot k of the bundle of context x of core c takes its turn. -/
def turning (s : State) (rest : List Turn) (c x k : Nat) : State :=
  { s with agenda := rest, turn := { core := c, ctx := x, slot := k } }

/-- Registers that hold the bundle of a trigger: its source, the registers it reads and those it will write later, and the
increment registers of the levels that end at it, as far as they are empty (R51, R52, R330). -/
def emptyHere (s : State) (m : Mv) (d : BitVec 10) (op : Op) : List Nat :=
  let a := s.argHere m d op
  ((srcEmptyKey s.hereSys s.turn.slot m.s).toList ++ (op.reads a).map (·.1) ++ op.dests a
    ++ (if s.hereSys || (op.branch a).isSome then [] else s.hereCtx.endRegs s.hereCtx.user.pc.toNat)).filter s.hereCtx.isEmpty

/-- A push of line v under a lane mask into out-queue k: the line joins the staging entry of the tile step (R436). -/
def PushesLine (s : State) (out : Host.Outcome State Fault Refusal) (k : Nat) (v : Line) (mask : BitVec 16) : Prop :=
  out = .next ((s.proceed ((s.startStep s.here).pushLine s.turn.core s.turn.ctx k v mask) none).advance s.here 1)

/-- The staging entry k of a tile step once line v has been pushed under a lane mask: the lines gather, and the entry's
lane mask is the AND of theirs (R436). -/
def staged (p : TileStep) (k : Nat) (v : Line) (mask : BitVec 16) : QEntry :=
  let e := (tabGet none p.staging k).getD { lines := [], vmask := 0xFFFF, cursor := 0 }
  { e with lines := e.lines ++ [v], vmask := e.vmask &&& mask }

/-- What a push leaves: the bundle issues, and nothing else of the device changes but this. The push that completes an
entry of queue qi hands the entry to it, empties the staging entry and sets the step's effect mark; any other push leaves
the longer entry in the staging buffer and gives the queue nothing. Every other tile step is as before (R436). -/
def PushLeaves (s : State) (out : Host.Outcome State Fault Refusal) (p : TileStep) (qi k : Nat) (v : Line) (mask : BitVec 16) :
    Prop :=
  let e := staged p k v mask
  let full := (tabGet {} s.queues qi).lines ≤ e.lines.length
  let given : List QPush :=
    if full then [{ core := s.turn.core, ctx := s.turn.ctx, queue := qi, lines := e.lines, vmask := e.vmask }] else []
  ∃ t, out = .next t ∧ ({ s with pushes := s.pushes ++ given } : State).Frame t s.hereCtx
    ∧ s.Issued t [] [] (s.herePlane.pc + 1)
    ∧ (∀ u ∈ t.steps, u.id ≠ p.id → u ∈ s.steps)
    ∧ ∀ u ∈ t.steps, u.id = p.id →
        if full then tabGet none u.staging k = none ∧ u.emark = true else tabGet none u.staging k = some e

/-- The outcome in which a slot's bundle blocks its context. -/
def BlocksOn (s : State) (out : Host.Outcome State Fault Refusal) (b : Block) : Prop :=
  out = .next (s.blockCtx s.turn.core s.turn.ctx b)

/-! ## Terms: the management port -/

/-- The device has answered on the management port. -/
def replied (s : State) (o : MgmtOut) : State := { s with mgmtOut := s.mgmtOut ++ [o] }

/-- Commands that start an operation (R284), those that do not, and those that every state of the Sill answers (R281). -/
def starting (b : List Byte) (c : Nat) (it : RecalItem) : List Instr :=
  [.openCmd b, .closeCmd, .scrubCmd, .recalCmd it, .drainCmd c, .undrainCmd c]
def asking (b : List Byte) (k : Nat) : List (Instr × MgmtCmd) :=
  [(.recordsCmd, .records), (.attestCmd b, .attest b), (.svncommit k, .svncommit k), (.readcnt, .readcnt)]
def telling : List (Instr × MgmtCmd) := [(.identCmd, .ident), (.statusCmd, .status)]

/-- A live update of the Sill firmware acts (R285). -/
def updating (s : State) : Prop := ∃ i, s.sill.nextImage = some (1, i)

/-- The Sill takes commands, and no operation acts (R281, R284). -/
def takes (s : State) : Prop := s.sill.state = .ready
def idleSill (s : State) : Prop :=
  s.session.state ≠ .closing ∧ s.session.state ≠ .scrubbing ∧ s.sill.busyUntil.toNat ≤ s.cycle.toNat ∧ s.sill.nextImage = none
    ∧ s.sill.draining = [] ∧ s.sill.recal = []

/-- A Sill image that verifies. -/
def sillImage (s : State) (b : List Byte) : Prop := s.imageOk b = true ∧ imageKind b = 1

/-- The SVN and hash of an image; it runs where they are those of its kind (R282). -/
def theImage (b : List Byte) : Image := { svn := BitVec.ofNat 32 (imageSvn b), hash := BitVec.ofNat 256 (fieldAt b 0x10 32) }
def runsImage (t : State) (b : List Byte) : Prop := tabGet {} t.sill.images (imageKind b) = theImage b

/-- t is s scrubbed, but for its session, its fabric ID and its Sill: what HELLO flits change of a link is its count and time of
sending (R16, R279). -/
def Scrubbed (s t : State) : Prop :=
  (∀ a, t.sRead a 1 = [0] ∧ t.hRead a 1 = [0] ∧ t.tagged a = false ∧ t.anyPoison a 1 = false ∧ t.hPoisoned a 1 = false)
    ∧ (∀ c, t.core c = { inService := (s.core c).inService, drained := (s.core c).drained
                         ceSram := (s.core c).ceSram, ceIstore := (s.core c).ceIstore, ueCore := (s.core c).ueCore })
    ∧ t.codeva = 0 ∧ t.regions = [] ∧ t.queues = [] ∧ t.pushes = [] ∧ t.spills = [] ∧ t.chans = [] ∧ t.tlb = [] ∧ t.tlbBig = []
    ∧ t.sideLogs = [] ∧ t.faults = [] ∧ t.walks = [] ∧ t.svc = [] ∧ t.tasks = [] ∧ t.steps = [] ∧ t.bins = [] ∧ t.kernel = {}
    ∧ t.launching = none ∧ t.owed = [] ∧ t.inbox = [] ∧ t.window = [] ∧ t.expected = [] ∧ t.hostPending = []
    ∧ t.heldWrites = []
    ∧ t.cycle = s.cycle ∧ t.routes = s.routes ∧ t.ceHbm = s.ceHbm ∧ t.ueHbm = s.ueHbm
    ∧ ∀ n, { t.link n with flitTx := (s.link n).flitTx, lastSent := (s.link n).lastSent } = s.link n

/-- t is s with its Sill in BRINGUP, where every link that was DOWN is in TRAINING (R281, Table 10.5). -/
def BringsUp (s t : State) : Prop :=
  t.sill.state = .bringup
    ∧ (∀ n, n < 47 → (s.link n).state = .down ∨ (s.link n).state = .dark → (t.link n).state = .training)
    ∧ (∀ n, 47 ≤ n ∨ ((s.link n).state ≠ .down ∧ (s.link n).state ≠ .dark) → t.link n = s.link n)
    ∧ { t with sill := s.sill, links := s.links, wireOut := s.wireOut, mgmtOut := s.mgmtOut } = s

/-- The state with another session state. -/
def inSession (s : State) (x : SessState) : State := { s with session := { s.session with state := x } }

/-- t is s with its session CLOSING and OK answered: every context with a tile step stops, and no command is queued (R276). -/
def Closes (s t : State) : Prop :=
  t.session = { s.session with state := .closing } ∧ t.mgmtOut = s.mgmtOut ++ [.ok]
    ∧ (∀ c u x, tabGet [] (t.core c).queues (4 * u + x) = [])
    ∧ (∀ c x, (s.ctx c x).step.isSome = true → (t.ctx c x).stopped = true)
    ∧ (∀ c x, { t.ctx c x with stopped := (s.ctx c x).stopped } = s.ctx c x)
    ∧ { t with cores := s.cores, session := s.session, mgmtOut := s.mgmtOut } = s

/-- t is s with core c drained for service (R285). -/
def Drains (s t : State) (c : Nat) : Prop :=
  (t.core c).drained = true ∧ t.sill.draining = s.sill.draining ++ [c] ∧ t.mgmtOut = s.mgmtOut ++ [.ok]
    ∧ ((s.core c).stage = none → (t.core c).move = some { target := none }) ∧ ((s.core c).stage ≠ none → (t.core c).move = (s.core c).move)
    ∧ { t.core c with drained := (s.core c).drained, move := (s.core c).move } = s.core c
    ∧ (∀ k, k ≠ c → t.core k = s.core k) ∧ { t with cores := s.cores, sill := s.sill, mgmtOut := s.mgmtOut } = s

/-! ## Terms: requests of the host -/

/-- What a taken request leaves: the count of its ring rises and is written to HEAD, and what follows it settles (R153). -/
def taken (ring : Nat) (u : State) : State := ((u.countRequest ring).writeHead ring).settle

/-- A row that takes the next request of a ring of the types it names: `f` answers the state it leaves, or nothing where the
request must wait; what the dispatcher reads for it through a host window it has read before (R473). -/
def TakesRequests (i : Nat → Instr) (types : Nat → Bool) (f : State → Req → Origin → Option State) : Prop :=
  ∀ (s : State) (ring : Nat),
    (∀ q o, s.nextRequest ring = some (q, o) → types q.type = true →
      let r := s.requestRanges q
      (∀ u, s.canRead none r = true → f s q o = some u → exec (i ring) s = .next (taken ring (u.dropHostData none r)))
      ∧ (s.canRead none r = true → f s q o = none → exec (i ring) s = .next s)
      ∧ (s.rangesHeld r = true → exec (i ring) s = .next s)
      ∧ (s.rangesHeld r = false → s.hostMissing none r ≠ [] → exec (i ring) s = .next (s.fetchHost none .dispatcher r))
      ∧ (s.calm = true → s.rangesHeld r = false)
      ∧ (s.hostPieces r = [] → s.hostMissing none r = [] ∧ s.dropHostData none r = s))
    ∧ ((∀ q o, s.nextRequest ring = some (q, o) → types q.type = false) → exec (i ring) s = .next s)

/-- A kernel is LOADING: the kernel of the session, or one that follows a FAILED kernel whose tile steps still run. -/
abbrev isLoading (s : State) : Prop := s.kernel.state = .loading ∨ s.launching.isSome = true

/-- KLAUNCH waits while a kernel is LOADING or RUNNING; a descriptor that the dispatcher refuses answers BADKERNEL; another
kernel is LOADING, beside a FAILED one while tile steps of that run on (R18, R19, R20). -/
def launches (s : State) (q : Req) (o : Origin) : Option State :=
  if isLoading s ∨ s.kernel.state = .running then none
  else match s.readKernel q.addr.toNat with
    | some k =>
      if s.kernel.state = .failed ∧ s.running = true then some { s with launching := some { k with origin := some o } }
      else some { s.leaveKernel with kernel := { k with origin := some o } }
    | none => some (s.completion o 0x02)

/-- TASK and CLOSE wait for a kernel that is LOADING and answer NOKERNEL where none runs (Table 5.4). -/
def underKernel (s : State) (o : Origin) (u : Option State) : Option State :=
  if isLoading s then none else if s.kernel.state ≠ .running then some (s.completion o 0x04) else u

/-- TASK: BADREQ, CLOSED, a wait for room among 4,096 binned tasks, or a task (R21, R155). -/
def posts (s : State) (q : Req) (o : Origin) : Option State :=
  underKernel s o (match (if q.addr.toNat % 256 = 0 then s.vRead q.addr.toNat 256 else none) with
    | none => some (s.completion o 0x01)
    | some b =>
      if s.sourceStage q.stage = false ∨ topbStage b ≠ q.stage then some (s.completion o 0x01)
      else if (tabGet {} s.kernel.stages q.stage).state ≠ .opened then some (s.completion o 0x03)
      else if 4096 ≤ s.binnedCount then none
      else some (s.postTask b q.stage q.addr (some o) none))

/-- CLOSE: a source stage that is OPEN becomes CLOSED (R21). -/
def closes (s : State) (q : Req) (o : Origin) : Option State :=
  underKernel s o (
    if s.sourceStage q.stage = false then some (s.completion o 0x01)
    else
      let t := tabGet {} s.kernel.stages q.stage
      some (({ s with kernel := { s.kernel with
        stages := tabSet {} s.kernel.stages q.stage { t with state := if t.state = .opened then .closed else t.state } } } : State).completion
          o 0x00))

/-- The state once a kernel that was LOADING has been loaded and before what follows settles (R18, R90, R186, R194, R203). -/
def loaded (s : State) : State :=
  let n := s.kernel
  let u : State := { s.freeDead with
    codeva := n.codeva, tasks := s.tasks.filter (fun t => t.state == .retired && !t.answered), steps := [], bins := [], binAt := 0
    reserved := [], inSamples := [], regions := ((rangeFrom 0 64).zip n.regions).filter (fun p => p.2 != 0)
    queues := loadQueues s.queues n.queues, chans := [], kernel := { n with state := .running } }
  ((rangeFrom 0 n.chans.length).zip n.chans).foldl (fun u p => u.writeChan p.1 (chanOf p.2))
    (allCores.foldl (fun u c =>
      if (u.core c).inService then u.modCore c (fun k => { k.loadKernel n with
        move := if k.stage.isSome then some { target := none } else k.move }) else u) u)

/-! ## Terms: the dispatcher -/

/-- The placement row for gangs or for single tile steps (R35, R49, R172), after the tile steps whose images system software has
discarded are replayed or failed (R259); without such a step that changes nothing. -/
def Places (i : Instr) (gang : Bool) : Prop :=
  ∀ s : State,
    let u := s.loseDiscarded
    (∀ t ps, u.nextPlacement = some (t, ps) → decide (1 < gangSize t.topb) = gang → exec i s = .next (u.placeAll t ps))
    ∧ ((∀ t ps, u.nextPlacement = some (t, ps) → decide (1 < gangSize t.topb) ≠ gang) → exec i s = .next u)
    ∧ ((∀ p ∈ s.steps, s.discardedImage p = false) → u = s)

/-- A context that a tile step of task t has been placed on (R49, R189). -/
def Placed (cx new : Ctx) (t : Task) (g : Stage) (p : TileStep) (now : Dword) : Prop :=
  new.user = { pc := g.entry } ∧ new.readS false 1 = t.topbVa ∧ new.readS false 2 = BitVec.ofNat 64 p.rank
    ∧ (∀ k, k ≠ 1 → k ≠ 2 → new.readS false k = cx.readS false k) ∧ new.vreg = cx.vreg ∧ new.g = cx.g ∧ new.q = cx.q
    ∧ new.fmt = cx.fmt ∧ new.strNext = cx.strNext ∧ new.empty = [] ∧ new.modeSys = false ∧ new.acflags = 0 ∧ new.qmode = 0
    ∧ new.sys.latches = [] ∧ new.sys.due = [] ∧ new.sys.pc = cx.sys.pc ∧ new.sys.cyc = cx.sys.cyc
    ∧ new.dirtymap = BitVec.allOnes 37 ∧ new.fmtFix = BitVec.ofNat 4 (topbFmtIx t.topb)
    ∧ new.fmtLevel = (if topbFmtLv t.topb ≤ 5 then BitVec.ofNat 4 (topbFmtLv t.topb) else 0xF)
    ∧ new.state = .ready ∧ new.readySince = now ∧ new.step = some p.id ∧ new.timer = none

/-! ## Terms: steps of a core -/

/-- The context that comes first by a key, ties to the lower number. -/
def First (x : Nat) (xs : List Nat) (key : Nat → Nat) : Prop := x ∈ xs ∧ ∀ y ∈ xs, key x < key y ∨ (key x = key y ∧ x ≤ y)

/-- The limits of Table 11.6. -/
def withinLimits (l : Limits) : Prop :=
  l.shared ≤ 4 ∧ l.sreads ≤ 6 ∧ (∀ c, tabGet 0 l.vreads c ≤ 2) ∧ l.dests.Nodup ∧ l.units.Nodup

/-- The moves of a bundle: slot, fields and destination. -/
def movesOf (slots : List Slot) : List (Nat × Mv × BitVec 10) :=
  slots.filterMap (fun sl => match sl.kind with
    | .move m d => some (sl.k, m, d)
    | _ => none)

/-- A move of the bundle at e can be made: its source holds a value, an immediate where its carriers stand in the bundle; no q
guard cancels it; H stands at an operand port only (R51, R289, R293, R294). -/
def Stands (s : State) (e : Site) (p : Nat × Mv × BitVec 10) : Prop :=
  p.2.1.s ≠ 0
  ∧ ((srcKind p.2.1.s).plain = true ∨ ∃ k n, srcKind p.2.1.s = .imm k n ∧ (immediate e.carriers k n).isSome = true)
  ∧ (∀ r, srcEmptyKey e.sys p.1 p.2.1.s = some r → s.hereCtx.isEmpty r = false)
  ∧ s.guardOpen p.2.1 p.2.2 = true ∧ (p.2.1.h = false ∨ isOperandPort p.2.2 = true)

/-- What a move of the bundle takes from its source as it stands in s, the value and the lanes its destination gets
(R292, R294). -/
def rawIn (s : State) (e : Site) (p : Nat × Mv × BitVec 10) : Line := s.source e p.1 p.2.1.s
def valueIn (s : State) (e : Site) (p : Nat × Mv × BitVec 10) : Line := convert (sharedSrc p.2.1.s) (sharedDst p.2.2) (rawIn s e p)
def lanesIn (s : State) (p : Nat × Mv × BitVec 10) : BitVec 16 :=
  if sharedDst p.2.2 || p.2.1.g == 0 then 0xFFFF else s.hereCtx.readG p.1 p.2.1.g.toNat

/-! ## Terms: the fabric -/

/-- The state without member i of the arrivals. -/
def without (s : State) (i : Nat) : State := { s with inbox := s.inbox.eraseIdx i }

/-- A row that looks at member i of the arrivals: where it is one that `p` names, `f` says what it does with it; otherwise
nothing happens. -/
def Arrives (i : Nat → Instr) (p : RemoteOp → Bool) (f : State → Nat → RemoteOp → State) : Prop :=
  ∀ (s : State) (n : Nat),
    (∀ q, s.inbox[n]? = some q → p q = true → exec (i n) s = .next (f s n q))
    ∧ ((∀ q, s.inbox[n]? = some q → p q = false) → exec (i n) s = .next s)

/-- A flit that leaves a gap or is lost (R273): the first LSEQ missing is asked for, once for each round, which a flit later than
the last one discarded belongs to. The round is the model's reading (log 34). -/
def gapAt (q : BitVec 16) (l : Link) : Link :=
  { l with asked := some q, retryReq := match l.asked with
      | some a => if q ≠ a ∧ (q - a).toNat < 2 ^ 15 then l.retryReq else some l.rxSeq
      | none => some l.rxSeq }

/-- A flit of link n that fails: AUTHFAIL rises, the link has heard its peer, and the first LSEQ missing is asked for
(R216, R273). -/
def failedFlit (n : Nat) (f : Flit) (s : State) : State :=
  s.modLink n (fun l =>
    let l := { l with authFail := if l.authFail = 0xFFFFFFFF then l.authFail else l.authFail + 1, lastArrival := s.cycle }
    if hKind f.header ∈ [kData, kKeymark, kDrain] then gapAt (hLseq f.header) l
    else if l.asked = none then { l with retryReq := some l.rxSeq } else l)

/-- A flit of a kind without an LSEQ arrives (R216): on a link that listens it acts once it verifies and fails otherwise; on
another link, or with another kind, nothing happens. -/
def Receives (i : Nat → Flit → Instr) (kind : Nat) (act : Nat → Flit → List Byte → State → State) : Prop :=
  ∀ (s : State) (n : Nat) (f : Flit),
    (hKind f.header = kind → (s.link n).listens = true →
      (s.accepts n f = true →
        exec (i n f) s = .next (act n f (openFlit ((s.link n).slot (hKs f.header)) f) (s.accepted n f)))
      ∧ (s.accepts n f = false → exec (i n f) s = .next (failedFlit n f s)))
    ∧ (hKind f.header ≠ kind ∨ (s.link n).listens = false → exec (i n f) s = .next s)

/-- A flit with an LSEQ (R273): the next one acts, and an ACK is due; one already taken is acknowledged again; one beyond a gap
is dropped, and the missing one is asked for. -/
def Sequenced (act : Nat → Flit → List Byte → State → State) (n : Nat) (f : Flit) (bs : List Byte) (u : State) : State :=
  let l := u.link n
  let q := hLseq f.header
  if q = l.rxSeq then act n f bs (u.modLink n (fun l => { l with rxSeq := l.rxSeq + 1, ackDue := true, retryReq := none, asked := none }))
  else if (l.rxSeq - q).toNat < 2 ^ 15 then u.modLink n (fun l => { l with ackDue := true })
  else u.modLink n (gapAt q)

/-- The link is UP or DRAINING. -/
def carrying (s : State) (n : Nat) : Prop := (s.link n).state = .up ∨ (s.link n).state = .draining

end Sys2Proof.Claims

open Sys2Proof Sys2Proof.Machine Sys2Proof.Claims

/-! ## Moves -/

/-- R289, R292-R294, R46-R48, R52, R53, R55, Tables 11.3 and 11.4: a move and a discard, what a move carries between the two
domains, immediate sources, and what the registers read after a write. Guard code 0 is no register: it always holds. -/
def Obligations.PlainMovesCopy : Prop :=
  (∀ v : Line, (∀ l, l < 16 → lane (convert true false v) l = (low64 v).extractLsb' 0 32)
    ∧ convert true true v = ofDword (low64 v) ∧ convert false false v = v
    ∧ low64 (convert false true v) = (lane v 0).zeroExtend 64)
  ∧ (∀ (s : State) (m : Mv) (d : BitVec 10), d ≠ 0 → isPlainDest d = true → s.canMove m d = true → s.loopsFull = true →
    s.Moves (exec (.move m d) s) s d m.h (s.moveMask m d) (s.source s.here s.turn.slot m.s) (s.moved m d))
  ∧ (∀ (s : State) (m : Mv), s.canMove m 0 = true → s.loopsFull = true →
    s.Moves (exec (.discardMove m) s) s 0 m.h (s.moveMask m 0) (s.source s.here s.turn.slot m.s) (s.moved m 0))
  ∧ (∀ (s : State) (e : Site) (j k : Nat) (a b d : BitVec 21),
    (k < 16 → s.source e j (BitVec.ofNat 9 (0x1C0 + k)) = ofDword (BitVec.ofNat 64 k)
      ∧ s.source e j (BitVec.ofNat 9 (0x1D0 + k)) = ofDword (BitVec.ofInt 64 ((k : Int) - 16)))
    ∧ (k < 8 → tabGet none e.carriers k = some a → s.source e j (BitVec.ofNat 9 (0x1E0 + k)) = ofDword (a.signExtend 64))
    ∧ (k < 7 → tabGet none e.carriers k = some a → tabGet none e.carriers (k + 1) = some b →
        s.source e j (BitVec.ofNat 9 (0x1E8 + k)) = ofDword ((b ++ a).signExtend 64))
    ∧ (k < 6 → tabGet none e.carriers k = some a → tabGet none e.carriers (k + 1) = some b → tabGet none e.carriers (k + 2) = some d →
        s.source e j (BitVec.ofNat 9 (0x1B8 + k)) = ofDword ((d ++ (b ++ a)).signExtend 64)))
  ∧ (∀ (s : State) (m : Mv) (k n : Nat), s.canRun = true → srcKind m.s = .imm k n →
    (∀ d, (!m.h || isOperandPort d) = true → s.Traps (exec (.move m d) s) causeSlotIllegal 0 m.s.toNat)
    ∧ (m.h = false → s.Traps (exec (.discardMove m) s) causeSlotIllegal 0 m.s.toNat)
    ∧ ∀ i d op, triggerOf i = some (m, d, op) → m.h = false →
        (s.guardOpen m d = true → (!op.sysOnly || s.hereSys) = true ∧ op.priv (s.argHere m d op) = none
          ∧ op.fmtWait (s.argHere m d op) = false) →
        s.Traps (exec i s) causeSlotIllegal 0 m.s.toNat)
  ∧ (∀ (cx : Ctx) (sys : Bool) (v : Dword), cx.readS sys 0 = 0 ∧ cx.writeS sys 0 v = cx
    ∧ ∀ n, 0 < n → n < 64 → (cx.writeS sys n v).readS sys n = v ∧ (cx.writeS sys n v).empty = cx.empty
      ∧ (cx.writeS sys n v).readS (!sys) n = (if n < 56 then v else cx.readS (!sys) n)
      ∧ ∀ p k, k < 64 → k ≠ n → (cx.writeS sys n v).readS p k = cx.readS p k)
  ∧ (∀ (cx : Ctx) (cl n : Nat) (mask : BitVec 16) (v : Line), n < 64 →
    (∀ l, l < 16 → lane ((cx.writeV cl n mask v).readV cl n) l = if mask.getLsbD l then lane v l else lane (cx.readV cl n) l)
    ∧ (cx.writeV cl n mask v).empty = cx.empty
    ∧ ∀ c k, k < 64 → ¬ (c = cl ∧ k = n) → (cx.writeV cl n mask v).readV c k = cx.readV c k)
  ∧ (∀ (cx : Ctx) (cl n : Nat) (mask v : BitVec 16), n < 8 →
    (∀ l, ((cx.writeG cl n mask v).readG cl n).getLsbD l = if mask.getLsbD l then v.getLsbD l else (cx.readG cl n).getLsbD l)
    ∧ ∀ c k, k < 8 → ¬ (c = cl ∧ k = n) → (cx.writeG cl n mask v).readG c k = cx.readG c k)
  ∧ (∀ (cx : Ctx) (n : Nat) (b : Bool), (cx.writeQ n b).readQ n = b ∧ ∀ k, k ≠ n → (cx.writeQ n b).readQ k = cx.readQ k)
  ∧ ∀ (s : State) (m : Mv) (d : BitVec 10), m.g = 0 → s.guardOpen m d = true ∧ s.moveMask m d = 0xFFFF

/-- R289, R293, R294, R358: a NOP and a carrier do nothing; nor does a move into the shared domain, or a shared trigger, whose
q guard is 0. -/
def Obligations.IdleSlotsDoNothing : Prop :=
  (∀ s : State, s.canRun = true → s.loopsFull = true →
    (∀ g e h, s.Does (exec (.nop g e h) s) [] s s.hereCtx) ∧ (∀ i, s.Does (exec (.immediateCarrier i) s) [] s s.hereCtx))
  ∧ ∀ (s : State) (m : Mv) (d : BitVec 10), s.canRun = true → s.loopsFull = true → m.s ≠ 0 → (srcKind m.s).plain = true →
    s.guardOpen m d = false → (!m.h || isOperandPort d) = true →
    s.Does (exec (.move m d) s) [] s s.hereCtx
    ∧ ∀ i op, triggerOf i = some (m, d, op) → s.Does (exec i s) [] s s.hereCtx

/-- R437, R165, R260: pop and peek ports that find a line; a poisoned one ends the context. -/
def Obligations.QueueReadsMove : Prop :=
  ∀ (s after : State) (m : Mv) (k : BitVec 2) (d : BitVec 10) (v : Line) (mask : BitVec 16),
    isPlainDest d = true → s.queueRead s.turn.core s.turn.ctx k.toNat = .line v mask after →
    (s.inq s.turn.core k.toNat).isSome = true → s.canRun = true → s.loopsFull = true → (!m.h || isOperandPort d) = true →
    (∀ a, s.queueTaint s.turn.core s.turn.ctx k.toNat = some a → s.guardOpen m d = true →
      ∀ i ∈ [Instr.queuePop m.g m.e m.h k d, .queuePopShared m.g m.e m.h k d, .queuePeek m.g m.e m.h k d,
          .queuePeekShared m.g m.e m.h k d], ∃ t, exec i s = .next t ∧ (Claims.after s t).state = .dead)
    ∧ (s.queueTaint s.turn.core s.turn.ctx k.toNat = none →
    (m.s = 0x20#7 ++ k → s.guardOpen m d = true →
      s.Moves (exec (.queuePop m.g m.e m.h k d) s) after d m.h (s.moveMask m d) v (s.moved m d))
    ∧ (m.s = 0x54#7 ++ k → s.guardOpen m d = true →
      s.Moves (exec (.queuePopShared m.g m.e m.h k d) s) after d m.h (s.moveMask m d) (ofDword (low64 v)) (s.moved m d))
    ∧ (m.s = 0x21#7 ++ k → s.guardOpen m d = true →
      s.Moves (exec (.queuePeek m.g m.e m.h k d) s) s d m.h (s.moveMask m d) v (s.moved m d))
    ∧ (m.s = 0x55#7 ++ k → s.guardOpen m d = true →
      s.Moves (exec (.queuePeekShared m.g m.e m.h k d) s) s d m.h (s.moveMask m d) (ofDword (low64 v)) (s.moved m d)))

/-! ## Scalar units -/

/-- R361, R362: the operations of sa0 and sa1 (Table 14.1), their counts and fields bit by bit. -/
def Obligations.ScalarAluComputes : Prop :=
  Sa0 .add 0x160 [0x150] (fun a _ v => a + v)
  ∧ Sa0 .sub 0x161 [0x150] (fun a _ v => a - v)
  ∧ Sa0 .and 0x162 [0x150] (fun a _ v => a &&& v)
  ∧ Sa0 .or 0x163 [0x150] (fun a _ v => a ||| v)
  ∧ Sa0 .xor 0x164 [0x150] (fun a _ v => a ^^^ v)
  ∧ Sa0 .andn 0x165 [0x150] (fun a _ v => a &&& ~~~ v)
  ∧ Sa0 .shl 0x166 [0x150] (fun a _ v => a <<< (v.toNat % 64))
  ∧ Sa0 .shr 0x167 [0x150] (fun a _ v => a >>> (v.toNat % 64))
  ∧ Sa0 .sra 0x168 [0x150] (fun a _ v => a.sshiftRight (v.toNat % 64))
  ∧ Sa0 .min 0x169 [0x150] (fun a _ v => BitVec.ofInt 64 (min a.toInt v.toInt))
  ∧ Sa0 .max 0x16A [0x150] (fun a _ v => BitVec.ofInt 64 (max a.toInt v.toInt))
  ∧ Sa0 .minu 0x16B [0x150] (fun a _ v => BitVec.ofNat 64 (min a.toNat v.toNat))
  ∧ Sa0 .maxu 0x16C [0x150] (fun a _ v => BitVec.ofNat 64 (max a.toNat v.toNat))
  ∧ Sa0 .clz 0x16D [] (fun _ _ v => clz64 v)
  ∧ Sa0 .ctz 0x16E [] (fun _ _ v => ctz64 v)
  ∧ Sa0 .popc 0x16F [] (fun _ _ v => popc64 v)
  ∧ Sa0 .bfx 0x170 [0x150] (fun a _ v => bfxVal a v)
  ∧ Sa0 .bfxu 0x171 [0x150] (fun a _ v => bfxuVal a v)
  ∧ Sa0 .bfi 0x172 [0x150, 0x151] bfiVal
  ∧ Sa0 .sel 0x173 [0x150, 0x151] (fun a b v => if v ≠ 0 then a else b)
  ∧ Sa0 .lea 0x174 [0x150, 0x151] (fun a b v => a + b <<< (v.toNat % 8))
  ∧ Sa0 .sext 0x175 [0x150] (fun a _ v => sextFrom a v)
  ∧ Sa0 .zext 0x176 [0x150] (fun a _ v => zextFrom a v)
  ∧ Sa0 .sbase 0x177 [0x150] (fun a _ v => sbaseVal a v)
  ∧ Sa1 .addB 0x180 [0x152] (fun a _ v => a + v)
  ∧ Sa1 .subB 0x181 [0x152] (fun a _ v => a - v)
  ∧ Sa1 .andB 0x182 [0x152] (fun a _ v => a &&& v)
  ∧ Sa1 .orB 0x183 [0x152] (fun a _ v => a ||| v)
  ∧ Sa1 .xorB 0x184 [0x152] (fun a _ v => a ^^^ v)
  ∧ Sa1 .andnB 0x185 [0x152] (fun a _ v => a &&& ~~~ v)
  ∧ Sa1 .shlB 0x186 [0x152] (fun a _ v => a <<< (v.toNat % 64))
  ∧ Sa1 .shrB 0x187 [0x152] (fun a _ v => a >>> (v.toNat % 64))
  ∧ Sa1 .sraB 0x188 [0x152] (fun a _ v => a.sshiftRight (v.toNat % 64))
  ∧ Sa1 .minB 0x189 [0x152] (fun a _ v => BitVec.ofInt 64 (min a.toInt v.toInt))
  ∧ Sa1 .maxB 0x18A [0x152] (fun a _ v => BitVec.ofInt 64 (max a.toInt v.toInt))
  ∧ Sa1 .minuB 0x18B [0x152] (fun a _ v => BitVec.ofNat 64 (min a.toNat v.toNat))
  ∧ Sa1 .maxuB 0x18C [0x152] (fun a _ v => BitVec.ofNat 64 (max a.toNat v.toNat))
  ∧ Sa1 .clzB 0x18D [] (fun _ _ v => clz64 v)
  ∧ Sa1 .ctzB 0x18E [] (fun _ _ v => ctz64 v)
  ∧ Sa1 .popcB 0x18F [] (fun _ _ v => popc64 v)
  ∧ Sa1 .bfxB 0x190 [0x152] (fun a _ v => bfxVal a v)
  ∧ Sa1 .bfxuB 0x191 [0x152] (fun a _ v => bfxuVal a v)
  ∧ Sa1 .bfiB 0x192 [0x152, 0x153] bfiVal
  ∧ Sa1 .selB 0x193 [0x152, 0x153] (fun a b v => if v ≠ 0 then a else b)
  ∧ Sa1 .leaB 0x194 [0x152, 0x153] (fun a b v => a + b <<< (v.toNat % 8))
  ∧ Sa1 .sextB 0x195 [0x152] (fun a _ v => sextFrom a v)
  ∧ Sa1 .zextB 0x196 [0x152] (fun a _ v => zextFrom a v)
  ∧ Sa1 .sbaseB 0x197 [0x152] (fun a _ v => sbaseVal a v)
  ∧ (∀ v : Dword, v ≠ 0 → v.getLsbD (63 - (clz64 v).toNat) = true ∧ ∀ j, 63 - (clz64 v).toNat < j → v.getLsbD j = false)
  ∧ (∀ v : Dword, v ≠ 0 → v.getLsbD (ctz64 v).toNat = true ∧ ∀ j, j < (ctz64 v).toNat → v.getLsbD j = false)
  ∧ clz64 0 = 64 ∧ ctz64 0 = 64
  ∧ (∀ v : Dword, (popc64 v).toNat = ((List.range 64).filter (fun j => v.getLsbD j)).length)
  ∧ (∀ (a v : Dword) (j : Nat), j < 64 → (bfxuVal a v).getLsbD j
      = (decide (j ≤ v.toNat / 256 % 64) && a.getLsbD (v.toNat % 64 + j)))
  ∧ (∀ (a v : Dword) (j : Nat), j < 64 → (bfxVal a v).getLsbD j = a.getLsbD (v.toNat % 64 + min j (v.toNat / 256 % 64)))
  ∧ (∀ (a b v : Dword) (j : Nat), j < 64 → (bfiVal a b v).getLsbD j
      = if v.toNat % 64 ≤ j ∧ j ≤ v.toNat % 64 + v.toNat / 256 % 64 then b.getLsbD (j - v.toNat % 64) else a.getLsbD j)
  ∧ (∀ (a v : Dword) (j : Nat), j < 64 → (sextFrom a v).getLsbD j = a.getLsbD (min j (v.toNat % 64)))
  ∧ (∀ (a v : Dword) (j : Nat), j < 64 → (zextFrom a v).getLsbD j = (decide (j ≤ v.toNat % 64) && a.getLsbD j))
  ∧ (∀ a v : Dword, sbaseVal a v = ((a &&& 0x7F) <<< 23) ||| (v &&& 0x7FFFFF))

/-- R364: the scalar compares. -/
def Obligations.ScalarComparesWriteQPair : Prop :=
  ScalarCompare .cmpEq 0 (fun a v => a == v)
  ∧ ScalarCompare .cmpNe 1 (fun a v => a != v)
  ∧ ScalarCompare .cmpLt 2 (fun a v => decide (a.toInt < v.toInt))
  ∧ ScalarCompare .cmpLe 3 (fun a v => decide (a.toInt ≤ v.toInt))
  ∧ ScalarCompare .cmpLtu 4 (fun a v => decide (a.toNat < v.toNat))
  ∧ ScalarCompare .cmpLeu 5 (fun a v => decide (a.toNat ≤ v.toNat))

/-- R363: the operations of sm (Table 14.2). -/
def Obligations.ScalarMultiplyComputes : Prop :=
  Sm .mul 0x1A0 [0x154] 3 (fun a _ v => a * v)
  ∧ Sm .mulh 0x1A1 [0x154] 3 (fun a _ v => BitVec.ofInt 64 (a.toInt * v.toInt / 2 ^ 64))
  ∧ Sm .mulhu 0x1A2 [0x154] 3 (fun a _ v => BitVec.ofNat 64 (a.toNat * v.toNat / 2 ^ 64))
  ∧ Sm .mad 0x1A3 [0x154, 0x155] 3 (fun a b v => a * b + v)
  ∧ Sm .div 0x1A4 [0x154] 24 (fun a _ v => if v = 0 then 0xFFFFFFFFFFFFFFFF else BitVec.ofInt 64 (a.toInt.tdiv v.toInt))
  ∧ Sm .divu 0x1A5 [0x154] 24 (fun a _ v => if v = 0 then 0xFFFFFFFFFFFFFFFF else BitVec.ofNat 64 (a.toNat / v.toNat))
  ∧ Sm .rem 0x1A6 [0x154] 24 (fun a _ v => if v = 0 then a else BitVec.ofInt 64 (a.toInt.tmod v.toInt))
  ∧ Sm .remu 0x1A7 [0x154] 24 (fun a _ v => if v = 0 then a else BitVec.ofNat 64 (a.toNat % v.toNat))

/-! ## Cluster units: arithmetic -/

/-- R374, R375: the operations of va0 and va1 (Table 14.5). -/
def Obligations.VectorAluComputes : Prop :=
  Va0 .vadd 0x080 [0x001] 1 (fun a _ v => quiet (a + v))
  ∧ Va0 .vsub 0x081 [0x001] 1 (fun a _ v => quiet (a - v))
  ∧ Va0 .vadds 0x082 [0x001] 1 (fun a _ v => clamped (a.toInt + v.toInt))
  ∧ Va0 .vsubs 0x083 [0x001] 1 (fun a _ v => clamped (a.toInt - v.toInt))
  ∧ Va0 .vmin 0x084 [0x001] 1 (fun a _ v => quiet (BitVec.ofInt 32 (min a.toInt v.toInt)))
  ∧ Va0 .vmax 0x085 [0x001] 1 (fun a _ v => quiet (BitVec.ofInt 32 (max a.toInt v.toInt)))
  ∧ Va0 .vminu 0x086 [0x001] 1 (fun a _ v => quiet (BitVec.ofNat 32 (min a.toNat v.toNat)))
  ∧ Va0 .vmaxu 0x087 [0x001] 1 (fun a _ v => quiet (BitVec.ofNat 32 (max a.toNat v.toNat)))
  ∧ Va0 .vand 0x088 [0x001] 1 (fun a _ v => quiet (a &&& v))
  ∧ Va0 .vor 0x089 [0x001] 1 (fun a _ v => quiet (a ||| v))
  ∧ Va0 .vxor 0x08A [0x001] 1 (fun a _ v => quiet (a ^^^ v))
  ∧ Va0 .vandn 0x08B [0x001] 1 (fun a _ v => quiet (a &&& ~~~ v))
  ∧ Va0 .vshl 0x08C [0x001] 1 (fun a _ v => quiet (a <<< (v.toNat % 32)))
  ∧ Va0 .vshr 0x08D [0x001] 1 (fun a _ v => quiet (a >>> (v.toNat % 32)))
  ∧ Va0 .vsra 0x08E [0x001] 1 (fun a _ v => quiet (a.sshiftRight (v.toNat % 32)))
  ∧ Va0 .vsel 0x08F [0x001, 0x002] 1 (fun a b v => quiet (if v ≠ 0 then a else b))
  ∧ Va0 .vclz 0x090 [] 1 (fun _ _ v => quiet (clz32 v))
  ∧ Va0 .vpopc 0x091 [] 1 (fun _ _ v => quiet (popc32 v))
  ∧ Va0 .vfadd 0x092 [0x001] 3 (fun a _ v => f32Add a v)
  ∧ Va0 .vfsub 0x093 [0x001] 3 (fun a _ v => f32Sub a v)
  ∧ Va0 .vfmin 0x094 [0x001] 1 (fun a _ v => f32MinMax false a v)
  ∧ Va0 .vfmax 0x095 [0x001] 1 (fun a _ v => f32MinMax true a v)
  ∧ Va0 .vfabs 0x096 [] 1 (fun _ _ v => quiet (v &&& 0x7FFFFFFF))
  ∧ Va0 .vfneg 0x097 [] 1 (fun _ _ v => quiet (v ^^^ 0x80000000))
  ∧ Va1 .vaddB 0x098 [0x003] 1 (fun a _ v => quiet (a + v))
  ∧ Va1 .vsubB 0x099 [0x003] 1 (fun a _ v => quiet (a - v))
  ∧ Va1 .vaddsB 0x09A [0x003] 1 (fun a _ v => clamped (a.toInt + v.toInt))
  ∧ Va1 .vsubsB 0x09B [0x003] 1 (fun a _ v => clamped (a.toInt - v.toInt))
  ∧ Va1 .vminB 0x09C [0x003] 1 (fun a _ v => quiet (BitVec.ofInt 32 (min a.toInt v.toInt)))
  ∧ Va1 .vmaxB 0x09D [0x003] 1 (fun a _ v => quiet (BitVec.ofInt 32 (max a.toInt v.toInt)))
  ∧ Va1 .vminuB 0x09E [0x003] 1 (fun a _ v => quiet (BitVec.ofNat 32 (min a.toNat v.toNat)))
  ∧ Va1 .vmaxuB 0x09F [0x003] 1 (fun a _ v => quiet (BitVec.ofNat 32 (max a.toNat v.toNat)))
  ∧ Va1 .vandB 0x0A0 [0x003] 1 (fun a _ v => quiet (a &&& v))
  ∧ Va1 .vorB 0x0A1 [0x003] 1 (fun a _ v => quiet (a ||| v))
  ∧ Va1 .vxorB 0x0A2 [0x003] 1 (fun a _ v => quiet (a ^^^ v))
  ∧ Va1 .vandnB 0x0A3 [0x003] 1 (fun a _ v => quiet (a &&& ~~~ v))
  ∧ Va1 .vshlB 0x0A4 [0x003] 1 (fun a _ v => quiet (a <<< (v.toNat % 32)))
  ∧ Va1 .vshrB 0x0A5 [0x003] 1 (fun a _ v => quiet (a >>> (v.toNat % 32)))
  ∧ Va1 .vsraB 0x0A6 [0x003] 1 (fun a _ v => quiet (a.sshiftRight (v.toNat % 32)))
  ∧ Va1 .vselB 0x0A7 [0x003, 0x004] 1 (fun a b v => quiet (if v ≠ 0 then a else b))
  ∧ Va1 .vclzB 0x0A8 [] 1 (fun _ _ v => quiet (clz32 v))
  ∧ Va1 .vpopcB 0x0A9 [] 1 (fun _ _ v => quiet (popc32 v))
  ∧ Va1 .vfaddB 0x0AA [0x003] 3 (fun a _ v => f32Add a v)
  ∧ Va1 .vfsubB 0x0AB [0x003] 3 (fun a _ v => f32Sub a v)
  ∧ Va1 .vfminB 0x0AC [0x003] 1 (fun a _ v => f32MinMax false a v)
  ∧ Va1 .vfmaxB 0x0AD [0x003] 1 (fun a _ v => f32MinMax true a v)
  ∧ Va1 .vfabsB 0x0AE [] 1 (fun _ _ v => quiet (v &&& 0x7FFFFFFF))
  ∧ Va1 .vfnegB 0x0AF [] 1 (fun _ _ v => quiet (v ^^^ 0x80000000))

/-- R376: the vector compares (Tables 12.5 and 14.6). -/
def Obligations.VectorComparesWriteGPair : Prop :=
  VectorCompare .vcmpEq 0 1 (fun a v => ((fun (a v : Word) => a == v) a v, 0))
  ∧ VectorCompare .vcmpNe 1 1 (fun a v => ((fun (a v : Word) => a != v) a v, 0))
  ∧ VectorCompare .vcmpLt 2 1 (fun a v => ((fun (a v : Word) => decide (a.toInt < v.toInt)) a v, 0))
  ∧ VectorCompare .vcmpLe 3 1 (fun a v => ((fun (a v : Word) => decide (a.toInt ≤ v.toInt)) a v, 0))
  ∧ VectorCompare .vcmpLtu 4 1 (fun a v => ((fun (a v : Word) => decide (a.toNat < v.toNat)) a v, 0))
  ∧ VectorCompare .vcmpLeu 5 1 (fun a v => ((fun (a v : Word) => decide (a.toNat ≤ v.toNat)) a v, 0))
  ∧ VectorCompare .vcmpFeq 6 2 (floatCond false false (fun x y => FVal.cmp false x y == 0))
  ∧ VectorCompare .vcmpFlt 7 2 (floatCond false true (fun x y => decide (FVal.cmp false x y < 0)))
  ∧ VectorCompare .vcmpFle 8 2 (floatCond false true (fun x y => decide (FVal.cmp false x y ≤ 0)))
  ∧ VectorCompare .vcmpFun 9 2 (floatCond true false (fun _ _ => false))

/-- R377: the operations of vm (Table 14.7). -/
def Obligations.VectorMultiplyComputes : Prop :=
  Vm .vmul 0x010 [0x005] (fun a _ v => quiet (a * v))
  ∧ Vm .vmulh 0x011 [0x005] (fun a _ v => quiet (BitVec.ofInt 32 (a.toInt * v.toInt / 2 ^ 32)))
  ∧ Vm .vmulhu 0x012 [0x005] (fun a _ v => quiet (BitVec.ofNat 32 (a.toNat * v.toNat / 2 ^ 32)))
  ∧ Vm .vmad 0x013 [0x005, 0x006] (fun a b v => quiet (a * b + v))
  ∧ Vm .vfmul 0x014 [0x005] (fun a _ v => f32Mul a v)
  ∧ Vm .vffma 0x015 [0x005, 0x006] (fun a b v => f32Fma false false a b v)
  ∧ Vm .vffms 0x016 [0x005, 0x006] (fun a b v => f32Fma false true a b v)
  ∧ Vm .vfnma 0x017 [0x005, 0x006] (fun a b v => f32Fma true false a b v)

/-! ## Numbers -/

/-- R223, R224, R233-R236, R243, Table 8.7: a number rounds to a number of its format by the mode; NX tells whether it moved, OF
that it lies too far beyond the largest, UF that it is tiny; an overflow answers its code. A sum, a difference, a product and
a fused sum of FP32 numbers are exact before they are rounded once; an exact zero sum is +0 unless its terms are -0; a NaN on
either side answers the canonical one. -/
def Obligations.FloatingResultsRoundOnce : Prop :=
  (∀ f ∈ [fp32, bf16, fp16, e4m3, e5m2, fp4], ∀ (mode : RMode) (sat neg : Bool) (m : Nat) (e : Int),
    let x := FVal.real (.fin neg m e)
    let r := f.round mode sat (.fin neg m e)
    (r.2.getLsbD 1 = true ↔ Overflows f mode neg |x|)
    ∧ (r.2.getLsbD 1 = true → FVal.real (f.decode f.maxFin) < |x| ∧ r.2.getLsbD 0 = true ∧ OverflowCode f mode sat neg r.1)
    ∧ (r.2.getLsbD 1 = false → Rounded f mode x r.1 ∧ (r.2.getLsbD 0 = true ↔ FVal.real (f.decode r.1) ≠ x)
      ∧ (r.2.getLsbD 2 = true ↔ r.2.getLsbD 0 = true ∧ Tiny f mode neg |x|))
    ∧ f.round mode sat (.fin neg 0 e) = (if neg then 2 ^ (f.eb + f.mb) else 0, 0))
  ∧ (∀ x y : FVal, FVal.isNumber x = true → FVal.isNumber y = true →
    FVal.real (x.add y).1 = FVal.real x + FVal.real y ∧ FVal.real (x.mul y).1 = FVal.real x * FVal.real y
      ∧ (x.add y).2 = 0 ∧ (x.mul y).2 = 0
      ∧ (FVal.real x + FVal.real y = 0 → ∃ d,
          (x.add y).1 = .fin (match x, y with
            | .fin a 0 _, .fin b 0 _ => a && b
            | _, _ => false) 0 d))
  ∧ (∀ b : Bool, (FVal.inf b).add (.inf (!b)) = (.nan false, flagNV)
    ∧ (∀ (neg : Bool) (e : Int), (FVal.inf b).mul (.fin neg 0 e) = (.nan false, flagNV)
        ∧ (FVal.fin neg 0 e).mul (.inf b) = (.nan false, flagNV))
    ∧ ∀ x : FVal, (FVal.nan b).add x = (.nan false, if b || x.isSig then flagNV else 0)
        ∧ (FVal.nan b).mul x = (.nan false, if b || x.isSig then flagNV else 0)
        ∧ x.add (.nan b) = (.nan false, if b || x.isSig then flagNV else 0)
        ∧ x.mul (.nan b) = (.nan false, if b || x.isSig then flagNV else 0))
  ∧ (∀ a b : Word, FVal.isNumber (dec32 a) = true → FVal.isNumber (dec32 b) = true →
    let sum := ((dec32 a).add (dec32 b)).1
    let diff := ((dec32 a).add (dec32 b).neg).1
    let prod := ((dec32 a).mul (dec32 b)).1
    (FVal.isNumber sum = true ∧ FVal.real sum = FVal.real (dec32 a) + FVal.real (dec32 b) ∧ f32Add a b = roundedOnce sum)
    ∧ (FVal.isNumber diff = true ∧ FVal.real diff = FVal.real (dec32 a) - FVal.real (dec32 b) ∧ f32Sub a b = roundedOnce diff)
    ∧ (FVal.isNumber prod = true ∧ FVal.real prod = FVal.real (dec32 a) * FVal.real (dec32 b) ∧ f32Mul a b = roundedOnce prod))
  ∧ (∀ a b c : Word, (dec32 a).isNan = true ∨ (dec32 b).isNan = true →
    let answer : Word × BitVec 6 := (0x7FC00000, if (dec32 a).isSig || (dec32 b).isSig then flagNV else 0)
    f32Add a b = answer ∧ f32Sub a b = answer ∧ f32Mul a b = answer
      ∧ ∀ negP negC : Bool, (f32Fma negP negC a b c).1 = 0x7FC00000)
  ∧ (∀ a b c : Word, (dec32 c).isNan = true → ∀ negP negC : Bool, (f32Fma negP negC a b c).1 = 0x7FC00000)
  ∧ ∀ a b c : Word, FVal.isNumber (dec32 a) = true → FVal.isNumber (dec32 b) = true → FVal.isNumber (dec32 c) = true →
    ∀ negP negC : Bool, ∃ p : FVal, FVal.isNumber p = true
      ∧ FVal.real p = (if negP then -1 else 1) * (FVal.real (dec32 a) * FVal.real (dec32 b)) + (if negC then -1 else 1) * FVal.real (dec32 c)
      ∧ f32Fma negP negC a b c = roundedOnce p

/-! ## Cluster units: vf -/

/-- R378: the conversions (Table 14.9), and the fields that stop them. -/
def Obligations.ConversionsRound : Prop :=
  Vf .vcvtF32I32 0x020 (fun _ => true) (fun s w => asWord (fp32.round (rounding s) false (FVal.ofInt w.toInt)))
  ∧ Vf .vcvtI32F32 0x021 (fun _ => true) (fun s w => let p := cvtInt 32 (rounding s) (dec32 w); (BitVec.ofInt 32 p.1, p.2))
  ∧ Widens .vcvtF32Bf16 0x022 bf16
  ∧ Widens .vcvtF32F16 0x024 fp16
  ∧ Widens .vcvtF32E4m3 0x026 e4m3
  ∧ Widens .vcvtF32E5m2 0x028 e5m2
  ∧ Widens .vcvtF32Fp4 0x02A fp4
  ∧ Narrows .vcvtBf16F32 0x023 bf16
  ∧ Narrows .vcvtF16F32 0x025 fp16
  ∧ Narrows .vcvtE4m3F32 0x027 e4m3
  ∧ Narrows .vcvtE5m2F32 0x029 e5m2
  ∧ Narrows .vcvtFp4F32 0x02B fp4
  ∧ BadFieldTraps .vcvtF32Bf16 0x022 16
  ∧ BadFieldTraps .vcvtF32F16 0x024 16
  ∧ BadFieldTraps .vcvtF32E4m3 0x026 8
  ∧ BadFieldTraps .vcvtF32E5m2 0x028 8
  ∧ BadFieldTraps .vcvtBf16F32 0x023 16
  ∧ BadFieldTraps .vcvtF16F32 0x025 16
  ∧ BadFieldTraps .vcvtE4m3F32 0x027 8
  ∧ BadFieldTraps .vcvtE5m2F32 0x029 8
  ∧ Lanes .vdecOx4 0x02C [0x007] [0x007] 0x004 4 (fun s _ => !fmtPending s && (fmtEntry s).toNat / 2 ^ 26 % 4 != 3)
    (fun s m l =>
      let n := 2 ^ ((fmtEntry s).toNat / 2 ^ 26 % 4)
      let block := decodeOx4 (8 * n) 0 ((rangeFrom (l / n * n) n).flatMap (fun i => nibbles (lane (s.moved m 0x02C) i)))
      (BitVec.ofNat 32 (fp32.round .rne false ((block.1[8 * (l % n) + fieldPos s]?).getD (.fin false 0 0))).1, flagIf block.2 flagMAL))
  ∧ Lanes .vfscale 0x02D [0x007] [0x007] 0x004 4 (fun _ _ => true) (fun s m l =>
      let w := (lane (s.operand 0x007) l).toNat
      let sc := decodeScale (w % 65536) (w / 65536 % 2 == 1)
      let p := rne32 ((dec32 (lane (s.moved m 0x02D) l)).mul sc.1)
      (p.1, p.2 ||| sc.2.2))
  ∧ (∀ (s : State) (m : Mv), s.ready m 0x02C [0x007] = true → fmtPending s = false → (fmtEntry s).toNat / 2 ^ 26 % 4 = 3 →
      s.Traps (exec (.vdecOx4 m) s) causeSlotIllegal 0 0x02C)

/-- R381: the special functions, at L = 12 and without operands. -/
def Obligations.SpecialFunctionsCompute : Prop :=
  Lanes .vsin 0x018 [] [] 0x004 12 (fun _ _ => true) (fun s m l => f32Trig false (lane (s.moved m 0x018) l))
  ∧ Lanes .vcos 0x019 [] [] 0x004 12 (fun _ _ => true) (fun s m l => f32Trig true (lane (s.moved m 0x019) l))
  ∧ Lanes .vexp2 0x01A [] [] 0x004 12 (fun _ _ => true) (fun s m l => f32Exp2 (lane (s.moved m 0x01A) l))
  ∧ Lanes .vlog2 0x01B [] [] 0x004 12 (fun _ _ => true) (fun s m l => f32Log2 (lane (s.moved m 0x01B) l))
  ∧ Lanes .vrcp 0x01C [] [] 0x004 12 (fun _ _ => true) (fun s m l => f32Rcp (lane (s.moved m 0x01C) l))
  ∧ Lanes .vrsqrt 0x01D [] [] 0x004 12 (fun _ _ => true) (fun s m l => f32Rsqrt (lane (s.moved m 0x01D) l))
  ∧ Lanes .vsqrt 0x01E [] [] 0x004 12 (fun _ _ => true) (fun s m l => f32Sqrt (lane (s.moved m 0x01E) l))

/-! ## Cluster units: vx -/

/-- R386, R387, R388: values that cross lanes and clusters. -/
def Obligations.CrossLaneOperationsMove : Prop :=
  Vx .vbcast 0x03D 2 (fun _ _ => true) (fun s m _ => (lane (s.moved m 0x03D) (ctl0 s % 16), 0))
  ∧ (∀ j : BitVec 3, Lanes (fun m => .xcl m j) (0x16#7 ++ j) [] [] 0x005 2
      (fun s m => !s.hereCtx.isEmpty (vEmptyKey j.toNat (word0 s m (0x16#7 ++ j) % 64)))
      (fun s m l => (lane (s.hereCtx.readV j.toNat (word0 s m (0x16#7 ++ j) % 64)) l, 0)))
  ∧ (∀ (s : State) (m : Mv), s.ready m 0x038 [] = true → (shufClusters s m).all (fun c => (vxO2 s c).valid) = true →
      s.Results (exec (.shuf m) s) (if (shufClusters s m).isEmpty then [] else [0x00B, 0x00C]) 2 (.latch (0x005 + 1024 * s.turn.slot))
        (mapLanes (fun l => if 128 ≤ shufEntry s m l then 0
          else lane (vxO2 s (shufEntry s m l / 16)).val (shufEntry s m l % 16))) (s.moveMask m 0x038) 0)
  ∧ (∀ (s : State) (m : Mv), s.ready m 0x038 [] = true → (shufClusters s m).all (fun c => (vxO2 s c).valid) = false →
      s.Traps (exec (.shuf m) s) causeOperandEmpty 0 0x00C)

/-- R389: shuf.ld writes the entry of the inactive bank and may ask for a swap; it changes nothing else. -/
def Obligations.ShuffleLoadWritesInactiveBank : Prop :=
  ∀ (s : State) (m : Mv), s.ready m 0x039 [0x00B] = true →
    ∃ u : State, s.Does (exec (.shufLd m) s) [0x00B, 0x00C] u s.hereCtx ∧ u.aside = s.aside ∧ (∀ c, c ≠ s.turn.core → u.core c = s.core c)
      ∧ ∃ tab, u.core s.turn.core = { s.core s.turn.core with
            shuffle := tab, shufSwap := (s.core s.turn.core).shufSwap || (lane (s.operand 0x00B) 0).getLsbD 8 }
        ∧ ∀ i, tabGet 0 tab i =
            let base := (if (s.core s.turn.core).shufBank then 0 else 8192) + 128 * (ctl0 s % 64) + 16 * s.turn.slot
            if base ≤ i ∧ i < base + 16 ∧ (s.moveMask m 0x039).getLsbD (i - base) = true
            then (lane (s.moved m 0x039) (i - base)).extractLsb' 0 8
            else tabGet 0 (s.core s.turn.core).shuffle i

/-- R390: the reductions. -/
def Obligations.ReductionsFoldLanes : Prop :=
  Reduces .vredadd 0x03A addStep ∧ Reduces .vredmin 0x03B minStep ∧ Reduces .vredmax 0x03C maxStep

/-! ## S-space -/

/-- R366, R368, R370: the scalar loads. -/
def Obligations.LoadsReadSspace : Prop :=
  Loads .ldW 0x1B0 (fun _ => 4) false ∧ Loads .ldD 0x1B1 (fun _ => 8) false ∧ Loads .ldAcq 0x1B4 slSize true

/-- R366, R369, R88, R129: the scalar stores. -/
def Obligations.StoresWriteSspace : Prop := StoresPlain .stW 0x1B2 4 ∧ StoresPlain .stD 0x1B3 8

/-- R371: the atomics. -/
def Obligations.AtomicsReadAndWrite : Prop :=
  Atomics .amoAdd 0x1B6 [0x156, 0x158] .add (fun s m => s.movedVal m 0x1B6) (fun _ _ => 0)
  ∧ Atomics .amoAnd 0x1B7 [0x156, 0x158] .and (fun s m => s.movedVal m 0x1B7) (fun _ _ => 0)
  ∧ Atomics .amoOr 0x1B8 [0x156, 0x158] .or (fun s m => s.movedVal m 0x1B8) (fun _ _ => 0)
  ∧ Atomics .amoMin 0x1B9 [0x156, 0x158] .min (fun s m => s.movedVal m 0x1B9) (fun _ _ => 0)
  ∧ Atomics .amoMax 0x1BA [0x156, 0x158] .max (fun s m => s.movedVal m 0x1BA) (fun _ _ => 0)
  ∧ Atomics .amoSwap 0x1BB [0x156, 0x158] .swap (fun s m => s.movedVal m 0x1BB) (fun _ _ => 0)
  ∧ Atomics .amoCas 0x1BC [0x156, 0x157, 0x158] .cas (fun s _ => s.operandVal 0x157) (fun s m => s.movedVal m 0x1BC)

/-- R370, R372, R131: st.rel and bar.arr issue and begin to complete their release. -/
def Obligations.ReleasesBegin : Prop :=
  ∀ (s : State) (m : Mv), calm s = true → slCtl s / 4096 % 8 ≤ 4 →
    (s.ready m 0x1B5 slUsed = true → addrOk s (offAddr s m 0x1B5) (slSize s) true = true →
      s.anyTagged (offAddr s m 0x1B5) (slSize s) = false →
      s.Does (exec (.stRel m) s) slUsed s { s.hereCtx with completing := [.release (slCtl s / 4096 % 8)
        (.store (offAddr s m 0x1B5) (slSize s) (s.operandVal 0x157)) s.nextId] })
    ∧ (s.ready m 0x1BE [0x156, 0x158] = true → addrOk s (baseAddr s) 8 true = true →
      s.tagged (baseAddr s) = true → s.tagged (baseAddr s + 4) = true →
      s.Does (exec (.barArr m) s) slUsed s { s.hereCtx with completing := [.release (slCtl s / 4096 % 8)
        (.barArr (baseAddr s) ((s.movedVal m 0x1BE).extractLsb' 0 32)) s.nextId] })
    ∧ (s.ready m 0x1BE [0x156, 0x158] = true → addrOk s (baseAddr s) 8 true = true →
      (s.tagged (baseAddr s) && s.tagged (baseAddr s + 4)) = false → s.Traps (exec (.barArr m) s) causeBarStore 3 (baseAddr s))

/-- R372, R87, R140: bar.init and bar.exp in the own slice. -/
def Obligations.BarrierOperationsChangeWord : Prop :=
  ∀ (s : State) (m : Mv), calm s = true → addrOk s (baseAddr s) 8 true = true → ownSlice s (baseAddr s) = true →
    served s [baseAddr s / 64] = true →
    (s.ready m 0x1BD [0x156] = true → (s.movedVal m 0x1BD).getLsbD 31 = false →
      Barriers s (exec (.barInit m) s) (barOf 0 false ((s.movedVal m 0x1BD).toNat % 2 ^ 15) 0) (some true))
    ∧ (s.ready m 0x1BD [0x156] = true → (s.movedVal m 0x1BD).getLsbD 31 = true →
      Barriers s (exec (.barRelease m) s) 0 (some false))
    ∧ (s.ready m 0x1BF [0x156] = true → s.tagged (baseAddr s) = true → s.tagged (baseAddr s + 4) = true →
      s.anyPoison (baseAddr s) 8 = false → ∀ pend ph exp arr, barHere s = barOf pend ph exp arr → exp < 2 ^ 15 → arr < 2 ^ 15 → pend < 2 ^ 32 →
        let pend' := (pend + (s.movedVal m 0x1BF).toNat % 2 ^ 32) % 2 ^ 32
        Barriers s (exec (.barExp m) s)
          (if arr = exp ∧ pend' = 0 then barOf 0 (!ph) exp 0 else barOf pend' ph exp arr) none)
    ∧ (s.ready m 0x1BF [0x156] = true → (s.tagged (baseAddr s) && s.tagged (baseAddr s + 4)) = false →
      s.Traps (exec (.barExp m) s) causeBarStore 3 (baseAddr s))

/-- R81, R87, R367: what stops an access of sl. -/
def Obligations.AddressChecksTrap : Prop :=
  AccessTraps .ldW 0x1B0 [0x156, 0x158] (fun s m => offAddr s m 0x1B0) (fun _ => 4) (fun _ => false) false false
  ∧ AccessTraps .ldD 0x1B1 [0x156, 0x158] (fun s m => offAddr s m 0x1B1) (fun _ => 8) (fun _ => false) false false
  ∧ AccessTraps .stW 0x1B2 [0x156, 0x157] (fun s m => offAddr s m 0x1B2) (fun _ => 4) (fun _ => false) false true
  ∧ AccessTraps .stD 0x1B3 [0x156, 0x157] (fun s m => offAddr s m 0x1B3) (fun _ => 8) (fun _ => false) false true
  ∧ AccessTraps .ldAcq 0x1B4 [0x156, 0x158] (fun s m => offAddr s m 0x1B4) slSize (fun _ => true) true false
  ∧ AccessTraps .stRel 0x1B5 slUsed (fun s m => offAddr s m 0x1B5) slSize (fun _ => true) true true
  ∧ AccessTraps .amoAdd 0x1B6 [0x156, 0x158] (fun s _ => baseAddr s) slSize (fun s => decide (slCtl s / 256 % 4 ≠ 0)) true true
  ∧ AccessTraps .amoAnd 0x1B7 [0x156, 0x158] (fun s _ => baseAddr s) slSize (fun s => decide (slCtl s / 256 % 4 ≠ 0)) true true
  ∧ AccessTraps .amoOr 0x1B8 [0x156, 0x158] (fun s _ => baseAddr s) slSize (fun s => decide (slCtl s / 256 % 4 ≠ 0)) true true
  ∧ AccessTraps .amoMin 0x1B9 [0x156, 0x158] (fun s _ => baseAddr s) slSize (fun s => decide (slCtl s / 256 % 4 ≠ 0)) true true
  ∧ AccessTraps .amoMax 0x1BA [0x156, 0x158] (fun s _ => baseAddr s) slSize (fun s => decide (slCtl s / 256 % 4 ≠ 0)) true true
  ∧ AccessTraps .amoSwap 0x1BB [0x156, 0x158] (fun s _ => baseAddr s) slSize (fun s => decide (slCtl s / 256 % 4 ≠ 0)) true true
  ∧ AccessTraps .amoCas 0x1BC slUsed (fun s _ => baseAddr s) slSize (fun s => decide (slCtl s / 256 % 4 ≠ 0)) true true
  ∧ AccessTraps .barInit 0x1BD [0x156] (fun s _ => baseAddr s) (fun _ => 8) (fun _ => false) true false
  ∧ AccessTraps .barRelease 0x1BD [0x156] (fun s _ => baseAddr s) (fun _ => 8) (fun _ => false) true false
  ∧ AccessTraps .barArr 0x1BE [0x156, 0x158] (fun s _ => baseAddr s) (fun _ => 8) (fun _ => true) true false
  ∧ AccessTraps .barExp 0x1BF [0x156] (fun s _ => baseAddr s) (fun _ => 8) (fun _ => false) true false
  ∧ LineTraps .vld 0x030 [0x008, 0x00A] false ∧ LineTraps .vst 0x031 [0x008, 0x009] true
  ∧ LanesTrap .vgld 0x032 [0x008, 0x00A] false ∧ LanesTrap .vsct 0x033 [0x008, 0x009] true
  ∧ (∀ (s : State) (m : Mv) (i : Instr) (d : BitVec 10) (n : Nat), (i, d, n) ∈ [(Instr.stW m, 0x1B2#10, 4), (.stD m, 0x1B3#10, 8)] →
      s.ready m d [0x156, 0x157] = true → addrOk s (offAddr s m d) n false = true → s.anyTagged (offAddr s m d) n = false →
      bufferFull s (offAddr s m d) [] → s.Traps (exec i s) causePhaseOvf (log2Size n) (offAddr s m d))

/-- R383, R384: vector loads and stores. -/
def Obligations.VectorAccessesMoveLanes : Prop :=
  LoadsLanes .vld 0x030 (fun s m l => lineBase s m 0x030 + 4 * l)
    (fun s m => s.moveMask m 0x030 == 0 || addrOk s (lineBase s m 0x030) 64 false)
  ∧ LoadsLanes .vgld 0x032 (fun s m l => gatherAddr s m 0x032 l)
    (fun s m => (laneAddrs s m 0x032 (gatherAddr s m 0x032)).all (fun p => addrOk s p.2 4 false))
  ∧ StoresLanes .vst 0x031 (fun s m l => lineBase s m 0x031 + 4 * l) true
    (fun s m => s.moveMask m 0x031 == 0 || addrOk s (lineBase s m 0x031) 64 false)
  ∧ StoresLanes .vsct 0x033 (fun s m l => gatherAddr s m 0x033 l) false
    (fun s m => (laneAddrs s m 0x033 (gatherAddr s m 0x033)).all (fun p => addrOk s p.2 4 false))

/-! ## Engines -/

/-- R157, R141, R417, R420-R422, R424-R427: the triggers of the copy unit, local and remote. -/
def Obligations.CopyTriggersPush : Prop :=
  CopyPush .copy 0 opCopy .copy (fun _ => false) (fun _ => false)
  ∧ CopyPush .copyTr8 1 opCopyTr8 .copyTr8 (fun _ => false) (fun _ => false)
  ∧ CopyPush .copyTr16 2 opCopyTr16 .copyTr16 (fun _ => false) (fun _ => false)
  ∧ CopyPush .copyNd 3 opCopyNd .copyNd (fun _ => false) (fun _ => false)
  ∧ CopyPush .rget 4 opRget .rget (fun s => (cpCtl s).toNat / 2 ^ 60 % 4 == 2) (fun _ => false)
  ∧ CopyPush .vatom 5 opVatom .vatom (fun s => (cpCtl s).getLsbD 54) (fun s => (cpCtl s).getLsbD 52)
  ∧ RemotePush .rputSt 0x13 opRputSt .rput (fun _ => false) (fun _ => false)
  ∧ RemotePush .rredSt 0x14 opRredSt .rred (fun _ => false) (fun _ => false)
  ∧ RemotePush .ratomSt 0x15 opRatomSt .ratom (fun s => (cpCtl s).getLsbD 54) (fun s => (cpCtl s).getLsbD 52)

/-- R157, R406, R407, R411, R434, R439, R440: the triggers of the gather unit, the format table, the array, the epilogue, the tile
table and the channel unit; `tile.rel` of a declared tile waits until that is READY (R39, R202). -/
def Obligations.EngineTriggersPush : Prop :=
  PlainPush .gather 0x24B opGather [0x248, 0x249, 0x24A] 10 (fun s v => .gather (s.operandVal 0x248) (s.operandVal 0x249) (s.operandVal 0x24A) v)
  ∧ PlainPush .scatter 0x24C opScatter [0x248, 0x249, 0x24A] 10 (fun s v => .scatter (s.operandVal 0x248) (s.operandVal 0x249) (s.operandVal 0x24A) v)
  ∧ PlainPush .fmtWr 0x259 opFmtWr [0x258] 14 (fun s v => .fmtWr (s.operandVal 0x258) v)
  ∧ PlainPush .cprog 0x2C4 opCprog [] 0 (fun _ v => .cprog v)
  ∧ PlainPush .cflow 0x2C5 opCflow [] 0 (fun _ v => .cflow v)
  ∧ PlainPush .cskew 0x2C6 opCskew [] 0 (fun _ v => .cskew v)
  ∧ PlainPush .cld 0x2C7 opCld [0x2C0, 0x2C1, 0x2C2] 0 (fun s v => .cld (ce1 s) v)
  ∧ PlainPush .cst 0x2C8 opCst [0x2C0, 0x2C1, 0x2C2] 0 (fun s v => .cst (ce1 s) v)
  ∧ PlainPush .mzero 0x2CB opMzero [] 0 (fun _ v => .mzero v)
  ∧ PlainPush .mdrain 0x2D4 opMdrain [0x2D0, 0x2D1, 0x2D2] 1 (fun s v => .mdrain (s.operandVal 0x2D0) (s.operandVal 0x2D1) v)
  ∧ PlainPush .mepi 0x2D5 opMepi [0x2D0, 0x2D1, 0x2D2] 1 (fun s v => .mepi (s.operandVal 0x2D0) (s.operandVal 0x2D1) v s.hereCtx.fmtIndex)
  ∧ PlainPush .mepiAcc 0x2D6 opMepiAcc [0x2D0, 0x2D1, 0x2D2] 1 (fun s v => .mepiAcc (s.operandVal 0x2D0) (s.operandVal 0x2D1) v s.hereCtx.fmtIndex)
  ∧ PlainPush .mepiRm 0x2D7 opMepiRm [0x2D0, 0x2D1, 0x2D2] 1 (fun s v => .mepiRm (s.operandVal 0x2D0) (s.operandVal 0x2D1) (s.operandVal 0x2D2) v s.hereCtx.fmtIndex)
  ∧ PlainPush .tileDecl 0x2E2 opTileDecl [0x2E0, 0x2E1] 13 (fun s v => .tileDecl (s.operandVal 0x2E0) (s.operandVal 0x2E1) v)
  ∧ PlainPush .tileSub 0x2E3 opTileSub [0x2E0, 0x2E1] 13 (fun s v => .tileSub (s.operandVal 0x2E0) (s.operandVal 0x2E1) v)
  ∧ PlainPush .tileRel 0x2E4 opTileRel [] 13 (fun s v => .tileRel v s.turn.slot)
  ∧ ArrayStart .mstart 0x2C9 opMstart (fun _ => none) ∧ ArrayStart .mstartG 0x2CA opMstartG memberNo
  ∧ PlainPush .chPost 0x2EA opChPost [0x2E8, 0x2E9] 11 (fun s v => .chPost (s.operandVal 0x2E8) (s.operandVal 0x2E9) v)
  ∧ (∀ (s : State) (m : Mv), s.ready m 0x2E4 [] = true → calm s = true →
      (tabGet [] (s.core s.turn.core).queues (4 * 13 + s.turn.ctx)).length < 16 →
      let n := (s.movedVal m 0x2E4).toNat % 256
      ((s.tile s.turn.core n).v = false → s.Traps (exec (.tileRel m) s) causeSlotIllegal 0 0x2E4)
      ∧ ((s.tile s.turn.core n).v = true → (s.tile s.turn.core n).state ≠ .ready →
          BlocksOn s (exec (.tileRel m) s) (.tileReady n)))
  ∧ ∀ (s : State) (m : Mv), s.fires m 0x2EB opChWait = true →
      Pushes s (exec (.chWait m) s) [0x2E8, 0x2E9] 11 (.chWait (s.operandVal 0x2E8) (s.operandVal 0x2E9) (s.movedVal m 0x2EB)) 0
        (armed s (if (s.operandVal 0x2E9).toNat % 64 = 0 then none else some (.sreg ((s.operandVal 0x2E9).toNat % 64) s.hereSys)) false
          s.hereCtx)

/-- R430, R434: tile.stat of a declared tile answers its state, flags, ring and base; of another it traps. -/
def Obligations.TileStatReadsEntry : Prop :=
  ∀ (s : State) (m : Mv), s.ready m 0x2E5 [] = true →
    let t := s.tile s.turn.core ((s.movedVal m 0x2E5).toNat % 256)
    (t.v = true → s.Results (exec (.tileStat m) s) [] 2 (.latch 0x14D) (ofDword t.low) 0xFFFF 0)
    ∧ (t.v = false → s.Traps (exec (.tileStat m) s) causeSlotIllegal 0 0x2E5)
    ∧ t.low.extractLsb' 62 2 = t.state.code ∧ t.low.getLsbD 61 = t.v ∧ t.low.getLsbD 60 = t.sub ∧ t.low.getLsbD 59 = t.wb
    ∧ t.low.extractLsb' 0 23 = t.base

/-! ## Control -/

/-- R328, R330: jmp, jmp.r and call. -/
def Obligations.BranchesGo : Prop :=
  (∀ (s : State) (m : Mv), s.canMove m 0x301 = true → GoesTo s (exec (.jmp m) s) ((s.movedVal m 0x301).extractLsb' 0 13))
  ∧ (∀ (s : State) (m : Mv), s.canMove m 0x302 = true →
      GoesTo s (exec (.jmpR m) s) (BitVec.ofInt 13 ((s.herePlane.pc.toNat : Int) + (s.movedVal m 0x302).toInt)))
  ∧ ∀ (s : State) (m : Mv), s.canMove m 0x303 = true →
      let back : Line := ofDword (BitVec.ofNat 64 ((s.herePlane.pc.toNat + 1) % 8192))
      let dest := (s.movedVal m 0x303).extractLsb' 0 13
      ∃ t, exec (.call m) s = .next t ∧ s.Frame t (s.landedCtx 1 (s.recordOf 1 (.latch 0x14B) back 0xFFFF 0))
        ∧ s.Issued t [] [0x14B] dest ∧ (s.planeAfter t).pc = dest ∧ s.Delivers t 1 (.latch 0x14B) back 0xFFFF 0

/-- R331, R332: loop.set, loop.body and repeat, field by field (Table 6.6). -/
def Obligations.LoopOperationsSetLevel : Prop :=
  (∀ (s : State) (m : Mv), s.ready m 0x30B [0x308] = true → s.hereSys = false →
    let n := (s.movedVal m 0x30B).toNat % 8
    ∃ w : BitVec 128, w.extractLsb' 0 32 = (s.operandVal 0x308).extractLsb' 0 32
      ∧ w.extractLsb' 32 96 = (loopWord s n).extractLsb' 32 96 ∧ SetsLoop s (exec (.loopSet m) s) 0x30B n w true)
  ∧ (∀ (s : State) (m : Mv), s.ready m 0x30C [0x308, 0x309, 0x30A] = true → s.hereSys = false →
    let n := (s.movedVal m 0x30C).toNat % 8
    ∃ w : BitVec 128, w.extractLsb' 38 13 = (s.operandVal 0x308).extractLsb' 0 13
      ∧ w.extractLsb' 51 13 = (s.operandVal 0x308).extractLsb' 13 13 ∧ w.getLsbD 37 = (s.operandVal 0x308).getLsbD 26
      ∧ w.extractLsb' 0 37 = (loopWord s n).extractLsb' 0 37 ∧ w.extractLsb' 96 32 = (s.operandVal 0x309).extractLsb' 0 32
      ∧ w.extractLsb' 64 32 = (s.operandVal 0x30A).extractLsb' 0 32 ∧ SetsLoop s (exec (.loopBody m) s) 0x30C n w false)
  ∧ (∀ (s : State) (m : Mv), s.ready m 0x30D [0x308] = true → s.hereSys = false →
    let n := (s.operandVal 0x308).toNat % 8
    let len := (s.operandVal 0x308).extractLsb' 8 6
    ∃ w : BitVec 128, w.extractLsb' 38 13 = s.herePlane.pc + 1 ∧ w.extractLsb' 51 13 = s.herePlane.pc + len.zeroExtend 13
      ∧ w.getLsbD 37 = true ∧ w.extractLsb' 0 32 = (s.movedVal m 0x30D).extractLsb' 0 32
      ∧ w.extractLsb' 32 5 = (loopWord s n).extractLsb' 32 5 ∧ w.extractLsb' 64 64 = (loopWord s n).extractLsb' 64 64
      ∧ (len ≠ 0 → SetsLoop s (exec (.repeatOp m) s) 0x30D n w true)
      ∧ (len = 0 → s.Traps (exec (.repeatOp m) s) causeLoopNest 0 0x30D))
  ∧ ∀ (s : State) (i : Instr) (m : Mv) (d : BitVec 10) (op : Op), triggerOf i = some (m, d, op) → s.hereSys = true →
      d.toNat ∈ [0x30B, 0x30C, 0x30D] → s.canMove m d = true → s.Traps (exec i s) causeSlotIllegal 0 d.toNat

/-- R329: the end steps of the loop levels that end at a NOP, where no value lands. -/
def Obligations.LoopLevelsStep : Prop :=
  ∀ (s : State) (g : BitVec 3) (e h : Bool), s.canRun = true → s.hereSys = false → s.loopsFull = true →
    (s.herePlane.dueAt (s.herePlane.cyc + 1)).isEmpty = true →
    let ns := s.hereCtx.endLevels s.hereCtx.user.pc.toNat
    let done := steppedLevels s ns
    ∃ t, exec (.nop g e h) s = .next t ∧ s.Frame t s.hereCtx
      ∧ (s.planeAfter t).pc = (match ns.find? (fun n => !levelExits s n) with
          | some n => (loopWord s n).extractLsb' 38 13
          | none => s.herePlane.pc + 1)
      ∧ (∀ n, tabGet 0 (after s t).loopctr n
          = if n ∈ done then (if levelExits s n then 0 else tabGet 0 s.hereCtx.loopctr n + 1) else tabGet 0 s.hereCtx.loopctr n)
      ∧ (∀ k, k < 64 → (after s t).readS false k = done.foldl (fun v n => v + stepAdds s k n) (s.hereCtx.readS false k))
      ∧ (after s t).vreg = s.hereCtx.vreg ∧ (after s t).g = s.hereCtx.g ∧ (after s t).q = s.hereCtx.q
      ∧ (after s t).acflags = s.hereCtx.acflags

/-- R333, R140: wait of each kind issues where its condition holds and blocks its context where it does not; one on a barrier
word holds its bundle behind an acquire and behind the context's own accesses to the word (R129, R132). -/
def Obligations.WaitsHoldTheirBundle : Prop :=
  ∀ (s : State) (i : Instr) (m : Mv), i ∈ [Instr.waitCycle m, .waitTdone m, .waitBarrier m] → s.ready m 0x312 [0x310] = true →
    let v := s.movedVal m 0x312
    let x := s.operandVal 0x310
    let tdone := tabGet 0 (s.core s.turn.core).tdone ((v.extractLsb' 4 3).toNat)
    let below := (tdone - x.extractLsb' 0 32).toNat
    let ph := (BitVec.ofNat 64 (leNat (s.sRead x.toNat 8))).getLsbD 31
    (v.toNat % 16 = 0 → (x.toNat ≤ s.cycle.toNat → s.Does (exec i s) [0x310, 0x311] s s.hereCtx)
      ∧ (s.cycle.toNat < x.toNat → exec i s = .next (s.blockCtx s.turn.core s.turn.ctx (.waitCycle x))))
    ∧ (v.toNat % 16 = 1 → (0 < below ∧ below < 2 ^ 31 → s.Does (exec i s) [0x310, 0x311] s s.hereCtx)
      ∧ (below = 0 ∨ 2 ^ 31 ≤ below → exec i s
          = .next (s.blockCtx s.turn.core s.turn.ctx (.waitTdone ((v.extractLsb' 4 3).toNat) (x.extractLsb' 0 32)))))
    ∧ (v.toNat % 16 = 2 → (v.extractLsb' 12 3).toNat ≤ 4 → addrOk s x.toNat 8 true = true →
        let early := !calm s || s.hereCtx.lateAt x.toNat 8
        (early = true → exec i s = .next s)
        ∧ (early = false → ph = v.getLsbD 8 → s.anyPoison x.toNat 8 = false → s.Does (exec i s) [0x310, 0x311] s s.hereCtx)
        ∧ (early = false → ph ≠ v.getLsbD 8 → exec i s = .next (s.blockCtx s.turn.core s.turn.ctx (.waitBarrier x.toNat (v.getLsbD 8)))))
    ∧ (3 ≤ v.toNat % 16 ∨ (v.toNat % 16 = 2 ∧ 4 < (v.extractLsb' 12 3).toNat) → s.Traps (exec i s) causeSlotIllegal 0 0x312)

/-- R334, R335, R338, R250: yield, halt and phase issue, and their context gives up its seat. -/
def Obligations.SeatsAreGivenUp : Prop :=
  (∀ (s : State) (m : Mv), s.ready m 0x313 [] = true →
    Ends s (exec (.yield m) s) [] s s.hereCtx
      (fun t => (after s t).state = (if isDead s then .dead else .ready) ∧ (after s t).seatedNow = false
        ∧ (after s t).readySince = s.cycle))
  ∧ (∀ (s : State) (m : Mv), s.ready m 0x314 [] = true → s.hereSys = false →
    ∃ t, exec (.halt m) s = .next t ∧ s.Issued t [] [] (s.herePlane.pc + 1)
      ∧ (¬ isDead s → blockedOn .halt (after s t))
      ∧ (s.sendRecord (causeRecord causeBreak s.turn.core s.turn.ctx (s.planeAfter t).pc)).Frame t
          (if isDead s then { s.hereCtx with userHalted := true }
            else { s.hereCtx with block := .halt, blockedSince := waitsFrom s, userHalted := true }))
  ∧ (∀ (s : State) (m : Mv), s.ready m 0x314 [] = true → s.hereSys = true →
    ∃ t, exec (.halt m) s = .next t ∧ s.Issued t [] [] (s.herePlane.pc + 1) ∧ (after s t).seatedNow = false
      ∧ (s.sendRecord { causeRecord causeFwErr s.turn.core s.turn.ctx s.herePlane.pc with aux := causeBreak }).Frame t
          { s.hereCtx with sysHalted := true })
  ∧ (∀ (s : State) (m : Mv), s.ready m 0x318 [] = true → s.hereSys = false →
    Ends s (exec (.phase m) s) [] s (if isDead s then s.hereCtx else { s.hereCtx with block := .phase, blockedSince := waitsFrom s })
      (fun t => ¬ isDead s → blockedOn .phase (after s t)))
  ∧ ∀ (s : State) (m : Mv), s.ready m 0x318 [] = true → s.hereSys = true → s.Traps (exec (.phase m) s) causeSlotIllegal 0 0x318

/-- R339, R344, R342, R33: the fences, timer and code.mark. -/
def Obligations.FencesAndTimerAct : Prop :=
  (∀ (s : State) (m : Mv), s.ready m 0x319 [] = true →
    let scope := (s.movedVal m 0x319).toNat % 8
    (scope ≤ 4 → s.Does (exec (.fence m) s) [] s { s.hereCtx with completing := [.release scope .nothing s.nextId] })
    ∧ (4 < scope → s.Traps (exec (.fence m) s) causeSlotIllegal 0 0x319))
  ∧ (∀ (s : State) (m : Mv), s.ready m 0x31A [] = true →
    let mask : BitVec 15 := (s.movedVal m 0x31A).extractLsb' 0 15
    (mask ≠ 0 → s.Does (exec (.fenceQ m) s) [] { s with nextId := s.nextId + 1 }
      { s.hereCtx with fences := s.hereCtx.fences ++ [{ serial := s.nextId, mask := mask }] })
    ∧ (mask = 0 → s.Does (exec (.fenceQ m) s) [] s s.hereCtx))
  ∧ (∀ (s : State) (m : Mv), s.ready m 0x31B [] = true →
    let mask : BitVec 32 := (s.movedVal m 0x31B).extractLsb' 0 32
    (mask ≠ 0 → s.Does (exec (.fenceSt m) s) [] s { s.hereCtx with completing := [.fenceSt mask s.nextId] })
    ∧ (mask = 0 → s.Does (exec (.fenceSt m) s) [] s s.hereCtx))
  ∧ (∀ (s : State) (m : Mv), s.ready m 0x321 [] = true →
    let v := s.movedVal m 0x321
    (v ≠ 0 → s.Does (exec (.timer m) s) [] s { s.hereCtx with timer := some v })
    ∧ (v = 0 → s.Does (exec (.timer m) s) [] s { s.hereCtx with timer := none }))
  ∧ (∀ (s : State) (m : Mv), s.ready m 0x320 [] = true → s.hereSys = false →
    Ends s (exec (.codeMark m) s) [] s s.hereCtx
      (fun t => ∀ i, s.hereCtx.step = some i → ∀ st ∈ t.steps, st.id = i → st.emark = true))
  ∧ ∀ (s : State) (m : Mv), s.ready m 0x320 [] = true → s.hereSys = true → s.Traps (exec (.codeMark m) s) causeSlotIllegal 0 0x320

/-- R249, R250, R69, Table 2.7: what a synchronous cause of a context does. -/
def Obligations.CausesAreTaken : Prop :=
  (∀ (s : State) (t : Trap), s.hereSys = false → Delivered s (s.raise s.turn.core s.turn.ctx t) t.cause t.info)
  ∧ (∀ (s : State) (t : Trap), s.hereSys = true →
      let u := s.raise s.turn.core s.turn.ctx t
      after s u = { s.hereCtx with sysHalted := true, seatedNow := false }
      ∧ (s.sendRecord { causeRecord causeFwErr s.turn.core s.turn.ctx s.hereCtx.sys.pc with aux := t.cause }).aside = u.aside
      ∧ (∀ c, c ≠ s.turn.core → u.core c = s.core c) ∧ (u.core s.turn.core).aside = (s.core s.turn.core).aside
      ∧ ∀ x, x ≠ s.turn.ctx → u.ctx s.turn.core x = s.ctx s.turn.core x)
  ∧ ∀ (slot : Option Nat) (aux addr : Nat), (∀ k, slot = some k → k < 8) → aux < 256 → addr < 2 ^ 52 →
      let w := trapInfoWord slot aux addr
      w.extractLsb' 0 52 = BitVec.ofNat 52 addr ∧ w.extractLsb' 52 8 = BitVec.ofNat 8 aux ∧ w.getLsbD 60 = slot.isSome
        ∧ w.extractLsb' 61 3 = BitVec.ofNat 3 (slot.getD 0)

/-- R336: trap and break. -/
def Obligations.SoftwareTrapsAreTaken : Prop :=
  ∀ (s : State) (m : Mv), s.hereSys = false → s.turn.slot < 8 →
    (s.ready m 0x315 [] = true → ∃ t info, exec (.trapOp m) s = .next t ∧ Delivered s t 0x10 info
      ∧ info.extractLsb' 52 8 = (s.movedVal m 0x315).extractLsb' 0 8 ∧ info.getLsbD 60 = true
      ∧ info.extractLsb' 61 3 = BitVec.ofNat 3 s.turn.slot ∧ info.extractLsb' 0 52 = 0)
    ∧ (s.ready m 0x316 [] = true → ∃ t info, exec (.breakOp m) s = .next t ∧ Delivered s t 0x11 info
      ∧ info.extractLsb' 52 8 = (s.movedVal m 0x316).extractLsb' 0 8 ∧ info.getLsbD 60 = true
      ∧ info.extractLsb' 61 3 = BitVec.ofNat 3 s.turn.slot ∧ info.extractLsb' 0 52 = 0)

/-- R337, R64, R341: eret returns to the user plane; task.done ends a step that is quiet; each drains what it waits for with
empty bundles. -/
def Obligations.ReturnsAndEnds : Prop :=
  (∀ (s : State) (m : Mv), s.ready m 0x317 [] = true → s.hereSys = true →
    (s.hereCtx.sys.due = [] → ∃ t, exec (.eret m) s = .next t ∧ s.Frame t { s.hereCtx with modeSys := false }
      ∧ (after s t).user = { s.hereCtx.user with pc := s.hereCtx.trapPc } ∧ (after s t).modeSys = false
      ∧ (after s t).sys.cyc = s.hereCtx.sys.cyc + 1 ∧ (after s t).sys.due = []
      ∧ ((s.core s.turn.core).rotate ≠ some s.turn.ctx →
          (after s t).state = (if isDead s then .dead else .seated) ∧ (after s t).seatedNow = s.hereCtx.seatedNow))
    ∧ (s.hereCtx.sys.due ≠ [] → exec (.eret m) s = .next (s.advance s.here 0)))
  ∧ (∀ (s : State) (m : Mv), s.canMove m 0x317 = true → s.hereSys = false → s.Traps (exec (.eret m) s) causePriv 0 0x317)
  ∧ (∀ (s : State) (m : Mv), s.ready m 0x31D [] = true → s.hereSys = false →
    (s.hereCtx.user.due = [] → s.hereCtx.empty = [] →
      s.Does (exec (.taskDone m) s) [] s { s.hereCtx with doneIssued := true })
    ∧ (s.hereCtx.user.due ≠ [] ∨ s.hereCtx.empty ≠ [] → exec (.taskDone m) s
        = .next ((s.modCtx s.turn.core s.turn.ctx (fun cx => { cx with completing := [.taskDone] })).advance s.here 0)))
  ∧ ∀ (s : State) (m : Mv), s.canMove m 0x31D = true → s.hereSys = true → s.Traps (exec (.taskDone m) s) causeSlotIllegal 0 0x31D

/-- R340, R263, R285, Table 13.4: task.post; a TOPB in a host window is read from the host while the bundle is held, and so is
one that a live service holds. -/
def Obligations.TaskPostAnswers : Prop :=
  ∀ (s : State) (m : Mv), s.ready m 0x31C [] = true →
    let va := s.movedVal m 0x31C
    let out := exec (.taskPost m) s
    let who := some (s.turn.core, s.turn.ctx)
    let u := s.dropHostData who (postRanges va)
    (s.canRead who (postRanges va) = false →
      out = .next ((s.fetchHost who (.post s.turn.core s.turn.ctx) (postRanges va)).countIssue s.turn.core s.turn.ctx))
    ∧ (s.hostPieces (postRanges va) = [] → s.hostMissing who (postRanges va) = [] ∧ u = s)
    ∧ (s.rangesHeld (postRanges va) = true → s.fetchHost who (.post s.turn.core s.turn.ctx) (postRanges va) = s)
    ∧ (s.calm = true → s.rangesHeld (postRanges va) = false)
    ∧ (s.canRead who (postRanges va) = true → postedTopb s va = none → Answers s out 1 u (fun _ => True))
    ∧ ∀ b, s.canRead who (postRanges va) = true → postedTopb s va = some b →
      let st := topbStage b
      let queues := (tabGet {} s.kernel.stages st).inq
      let isSource := decide (st < s.kernel.nstage) && queues.all (·.isNone)
      let isOpen := (tabGet {} s.kernel.stages st).state == .opened && s.kernel.state == .running
      let binned := (s.tasks.filter (fun t => t.state == .binned)).length
      (topbOk b = false → s.Traps out causeLoopNest 0 0x31C)
      ∧ (topbOk b = true → isSource = false → Answers s out 2 u (fun _ => True))
      ∧ (topbOk b = true → isSource = true → isOpen = false → Answers s out 3 u (fun _ => True))
      ∧ (topbOk b = true → isSource = true → isOpen = true → 4096 ≤ binned → Answers s out 4 u (fun _ => True))
      ∧ (topbOk b = true → isSource = true → isOpen = true → binned < 4096 → Answers s out 0 (u.postTask b st va none none)
          (fun t => ∀ i, s.hereCtx.step = some i → ∀ u ∈ t.steps, u.id = i → u.emark = true))

/-- R66, R343, R4: csr.rd and csr.wr, and the accesses that trap. -/
def Obligations.CsrAccessesAct : Prop :=
  (∀ (s : State) (m : Mv) (v : Dword), s.ready m 0x31E [] = true →
    let n := (s.movedVal m 0x31E).toNat % 1024
    s.csr s.turn.core s.turn.ctx n = some v → (s.hereSys = true ∨ csrSystemOnly n = false) →
    (n ≠ 0x061 → s.Results (exec (.csrRd m) s) [] 1 (.latch 0x14C) (ofDword v) 0xFFFF 0)
    ∧ (n = 0x061 → ∃ t, exec (.csrRd m) s = .next t ∧ s.Delivers t 1 (.latch 0x14C) (ofDword v) 0xFFFF 0
        ∧ (s.modCore s.turn.core (fun k => { k with occPeak := BitVec.ofNat 14 k.occ })).Frame t
            (s.landedCtx 1 (s.recordOf 1 (.latch 0x14C) (ofDword v) 0xFFFF 0))
        ∧ s.Issued t [] [0x14C] (s.herePlane.pc + 1)))
  ∧ (∀ (s : State) (m : Mv), s.ready m 0x31F [0x310] = true →
    let n := (s.movedVal m 0x31F).toNat % 1024
    (s.csr s.turn.core s.turn.ctx n).isSome = true → (s.hereSys = true ∨ csrSystemOnly n = false) →
    ∃ t, exec (.csrWr m) s = .next t ∧ s.Issued t [0x310, 0x311] [] (s.herePlane.pc + 1)
      ∧ let u := s.csrWrite s.turn.core s.turn.ctx n s.hereSys (s.operandVal 0x310)
        u.Frame t (after s u))
  ∧ (∀ (s : State) (m : Mv) (i : Instr) (d : BitVec 10), s.canMove m d = true →
    ((i = .csrRd m ∧ d = 0x31E) ∨ (i = .csrWr m ∧ d = 0x31F)) →
    let n := (s.movedVal m d).toNat % 1024
    (s.hereSys = false → csrSystemOnly n = true → s.Traps (exec i s) causePriv 0 n)
    ∧ (s.csr s.turn.core s.turn.ctx n = none → s.Traps (exec i s) causeSlotIllegal 0 n))

/-- R4, R66, R67, R71, R72, R210, R222: a register reads back what a write leaves, by the type of its fields; a W1C write to a
capture register acts at the end of its cycle. -/
def Obligations.CsrWritesReadBack : Prop :=
  ∀ (s : State) (c x : Nat) (v : Dword),
    let rd (sys : Bool) (n : Nat) : Option Dword := (s.csrWrite c x n sys v).csr c x n
    (∀ sys, rd sys 0x050 = some (v &&& 0x7FFF) ∧ rd sys 0x058 = some (v &&& 0x001F07FF)
      ∧ rd sys 0x018 = some ((s.ctx c x).acflags.zeroExtend 64 &&& ~~~ v)
      ∧ (v.toNat % 16 < 6 ∨ v.toNat % 16 = 15 → rd sys 0x026 = some (v &&& 0xF0F))
      ∧ (6 ≤ v.toNat % 16 → v.toNat % 16 ≤ 14 → rd sys 0x026 = s.csr c x 0x026)
      ∧ rd sys 0x04F = some 0)
    ∧ rd true 0x00B = some v ∧ rd true 0x00C = some (v &&& 0xFFFF) ∧ rd true 0x010 = some (v &&& 0xFF)
    ∧ rd true 0x011 = some (v &&& 0x1FFF) ∧ rd true 0x012 = some v
    ∧ (∀ n, 0x020 ≤ n → n ≤ 0x025 → rd true n = some (v &&& 0xFFFFFFFF))
    ∧ (∀ n, 0x040 ≤ n → n ≤ 0x04E → rd true n = some (v &&& 0xFFFFFFFF))
    ∧ rd true 0x068 = some ((s.ctx c x).dirtymap.zeroExtend 64 &&& ~~~ v)
    ∧ rd true 0x070 = some (v &&& 0x1010F) ∧ rd true 0x071 = some (v &&& 0xFFFFFFFF) ∧ rd true 0x078 = some (v &&& 0xFFFFFFFF)
    ∧ (∀ n, 0x072 ≤ n → n ≤ 0x075 → rd true n = some v)
    ∧ ((s.core c).capW1c = [] →
      let ended (n : Nat) : Core := ((s.csrWrite c x n true v).core c).countCycle
      (∀ n, n ∈ [0x079, 0x07A] ∨ (0x080 ≤ n ∧ n ≤ 0x09F) → rd true n = s.csr c x n)
      ∧ (ended 0x079).hcapmin = (s.core c).hcapmin &&& ~~~ (v.extractLsb' 0 32 &&& 0x80000000)
      ∧ (ended 0x07A).hcapmax = (s.core c).hcapmax &&& ~~~ (v.extractLsb' 0 32 &&& 0x80000000)
      ∧ ∀ n, n < 32 → tabGet 0 (ended (0x080 + n)).hbin n = tabGet 0 (s.core c).hbin n &&& ~~~ v.extractLsb' 0 32)
    ∧ (∀ n, n ∉ [0x018, 0x026, 0x050, 0x058] → s.csrWrite c x n false v = s)
    ∧ (∀ n, n ∈ [0x000, 0x001, 0x002, 0x008, 0x009, 0x00A, 0x059, 0x05A, 0x060, 0x061] ∨ (0x030 ≤ n ∧ n ≤ 0x03F) →
        s.csrWrite c x n true v = s)

/-! ## System operations -/

/-- R324, R325: the operations marked S trap with PRIV on the user plane. -/
def Obligations.SystemOperationsNeedSystemMode : Prop :=
  ∀ (s : State) (i : Instr) (m : Mv) (d : BitVec 10) (op : Op), triggerOf i = some (m, d, op) → 0x322 ≤ d.toNat → d.toNat ≤ 0x32C →
    s.canMove m d = true → s.hereSys = false → s.Traps (exec i s) causePriv 0 d.toNat

/-- R345, R346, R109, R112, R285: tlb.inv takes the entries it covers from the TLBs of both dies and waits for the walks begun before
it and for the host accesses translated through them; the actions of tlb.fix, after which no side log and no held read has an unmappable page. -/
def Obligations.TranslationsAreInvalidatedAndFixed : Prop :=
  (∀ (s : State) (m : Mv), s.ready m 0x322 [0x310] = true → s.hereSys = true →
    let code := (s.movedVal m 0x322).toNat % 8
    (code = 5 ∨ code = 6 → s.Traps (exec (.tlbInv m) s) causeSlotIllegal 0 0x322)
    ∧ (code ≠ 5 → code ≠ 6 →
        Ends s (exec (.tlbInv m) s) syUsed (s.tlbRemove code (sy1 s).toNat)
          { s.hereCtx with completing := [.tlbInv code (sy1 s) (s.walks.map (fun w => (w.die, w.va, w.asked)))
              (s.hostThrough code (sy1 s).toNat)] }
          (fun t => ∀ die e, die < 2 →
            (e ∈ tabGet [] t.tlb die ↔ e ∈ tabGet [] s.tlb die ∧ ¬ covers code (sy1 s).toNat e)
            ∧ (e ∈ tabGet [] t.tlbBig die ↔ e ∈ tabGet [] s.tlbBig die ∧ ¬ covers code (sy1 s).toNat e))))
  ∧ (∀ (s : State) (i : Instr) (m : Mv), i ∈ [Instr.tlbFixMapped m, .tlbFixUnmappable m, .tlbFixMigrated m] →
    s.ready m 0x323 [0x310, 0x311] = true → s.hereSys = true →
    let code := (sy2 s).toNat % 8
    let va := (sy1 s).toNat
    let action := (s.movedVal m 0x323).toNat % 4
    let held := action ≠ 1 ∧ s.replayHeld code va = true
    (s.calm = true → s.replayHeld code va = false)
    ∧ (code < 5 → action ≠ 3 → held → exec i s = .next (s.countIssue s.turn.core s.turn.ctx))
    ∧ (5 ≤ code ∨ action = 3 → s.Traps (exec i s) causeSlotIllegal 0 0x323)
    ∧ (code < 5 → action = 0 → ¬ held → Acts s (exec i s) m 0x323 tlbFixOp (fun u => u.fixMapped code va))
    ∧ (code < 5 → action = 1 → Acts s (exec i s) m 0x323 tlbFixOp (fun u => u.fixUnmappable code va))
    ∧ (code < 5 → action = 2 → ¬ held → Acts s (exec i s) m 0x323 tlbFixOp (fun u => u.fixMigrated code va)))
  ∧ ∀ (s : State) (code va : Nat), code < 5 →
      let page (a : Nat) : Prop := a / codeSize code = va / codeSize code
      (∀ e ∈ (s.fixUnmappable code va).sideLogs, ¬ page e.va.toNat)
      ∧ (∀ q ∈ (s.fixUnmappable code va).heldReads, ¬ page q.2.toNat)
      ∧ (∀ q ∈ (s.fixMapped code va).heldReads, ¬ page q.2.toNat)
      ∧ (∀ q ∈ s.heldReads, page q.2.toNat → q.1 ∈ (s.fixMapped code va).inbox)

/-- R347, R252, R285, Table 13.5: core.save requests a pre-emption and holds its bundle; core.load restores every listed core or
none; a live service that holds what they read or write holds their bundle. -/
def Obligations.CoreSaveAndLoadAnswer : Prop :=
  (∀ (s : State) (m : Mv), s.ready m 0x324 [0x310] = true → s.hereSys = true →
    let target := (s.movedVal m 0x324).toNat % 128
    let table := s.areaTable (sy1 s)
    let out := exec (.coreSave m) s
    (∀ cs, s.hereCtx.saveReq = some cs →
      (cs.any (fun c => (s.core c).saving.isSome) = true → out = .next (s.countIssue s.turn.core s.turn.ctx))
      ∧ (cs.any (fun c => (s.core c).saving.isSome) = false →
          ∃ t, out = .next t ∧ s.Frame t { s.hereCtx with saveReq := none } ∧ s.Issued t syUsed [] (s.herePlane.pc + 1)
            ∧ s.Delivers t 2 (.latch 0x14C) (ofDword (if cs.any (fun c => (s.core c).saveFailed) then 2 else 0)) 0xFFFF 0))
    ∧ (s.calm = true → ∀ va n, s.rangeHeld va n = false)
    ∧ (s.hereCtx.saveReq = none → s.rangeHeld (sy1 s).toNat 1024 = true → out = .next (s.countIssue s.turn.core s.turn.ctx))
    ∧ (s.hereCtx.saveReq = none → s.rangeHeld (sy1 s).toNat 1024 = false →
      (target = s.turn.core ∨ table = none → SyAnswers s out syUsed 2)
      ∧ (target ≠ s.turn.core → table.isSome = true → s.affectedMask target = 0 → SyAnswers s out syUsed 1)
      ∧ ∀ areas, target ≠ s.turn.core → table = some areas → s.affectedMask target ≠ 0 →
          let cs := s.requestCores 128 [target]
          (cs.any (fun c => (s.core c).saving.isSome) = true → SyAnswers s out syUsed 3)
          ∧ (cs.any (fun c => (s.core c).saving.isSome) = false →
              (cs.any (fun c => !areaOk (areas.getD c 0) || c == s.turn.core) = true ∨ s.haltedMember cs = true →
                SyAnswers s out syUsed 2)
              ∧ (cs.any (fun c => !areaOk (areas.getD c 0) || c == s.turn.core) = false → s.haltedMember cs = false →
                out = .next (((s.requestPreempt cs (fun c => areas.getD c 0)).modCtx s.turn.core s.turn.ctx
                  (fun cx => { cx with saveReq := some cs })).countIssue s.turn.core s.turn.ctx)))))
  ∧ ∀ (s : State) (m : Mv), s.ready m 0x325 [] = true → s.hereSys = true →
    let table := s.areaTable (s.movedVal m 0x325)
    let out := exec (.coreLoad m) s
    (s.rangeHeld (s.movedVal m 0x325).toNat 1024 = true → out = .next (s.countIssue s.turn.core s.turn.ctx))
    ∧ (table = none → s.rangeHeld (s.movedVal m 0x325).toNat 1024 = false → SyAnswers s out [] 2)
    ∧ ∀ areas, table = some areas → s.rangeHeld (s.movedVal m 0x325).toNat 1024 = false →
      let l := loadList areas
      let held := l.any (fun p => s.canLoad p.1 && (s.core p.1).ce.isSome || s.rangeHeld p.2 imageSize)
      (l = [] → SyAnswers s out [] 1)
      ∧ (held = true → out = .next (s.countIssue s.turn.core s.turn.ctx))
      ∧ (held = false → l.any (fun p => (s.core p.1).saving.isSome) = true → SyAnswers s out [] 3)
      ∧ (held = false → l.any (fun p => (s.core p.1).saving.isSome) = false →
          l.any (fun p => !s.canLoad p.1 || (match s.imageHeader p.2 with
            | some h => !h.testBit 63
            | none => true)) = true ∨ s.wholeGangs (l.map (·.2)) = false → l ≠ [] → SyAnswers s out [] 2)
      ∧ (l ≠ [] → held = false → l.any (fun p => (s.core p.1).saving.isSome) = false → s.wholeGangs (l.map (·.2)) = true →
          (∀ p ∈ l, s.canLoad p.1 = true ∧ s.imageReadable p.2 = true ∧ ∃ h, s.imageHeader p.2 = some h ∧ h.testBit 63 = true) →
          ActsWith s out m 0x325 opCoreLoad 0 (fun u => l.foldl (fun u p => u.restoreImage p.1 p.2) u))

/-- R348, R277, R349, R355: lnk.key, which waits for the context's own accesses to the block (R129), and lnk.get. -/
def Obligations.LinkKeysAndItems : Prop :=
  (∀ (s : State) (m : Mv), s.ready m 0x326 [0x310] = true → s.hereSys = true →
    let v := s.movedVal m 0x326
    let n := v.toNat % 64
    let k := v.getLsbD 8
    let a := (sy1 s).toNat
    let block := s.coreRead s.turn.core a 64
    let early := !calm s || s.hereCtx.lateAt a 64
    let u := s.modLink n (fun l => l.loadKey k block)
    let slot := (u.link n).slot k
    (46 < n → s.Traps (exec (.lnkKey m) s) causeSlotIllegal 0 0x326)
    ∧ (n ≤ 46 → 2 ^ 30 ≤ a → s.Traps (exec (.lnkKey m) s) causeSaddrRange 6 a)
    ∧ (n ≤ 46 → a < 2 ^ 30 → a % 64 ≠ 0 → s.Traps (exec (.lnkKey m) s) causeAlign 6 a)
    ∧ (n ≤ 46 → addrOk s a 64 false = true → early = true → exec (.lnkKey m) s = .next (s.countIssue s.turn.core s.turn.ctx))
    ∧ (n ≤ 46 → addrOk s a 64 false = true → early = false → s.anyPoison a 64 = false →
        (((s.link n).slot k).tx = .active → SyAnswers s (exec (.lnkKey m) s) syUsed 2)
        ∧ (((s.link n).slot k).tx ≠ .active → ∃ t, exec (.lnkKey m) s = .next t ∧ u.Frame t s.hereCtx
            ∧ s.Issued t syUsed [] (s.herePlane.pc + 1) ∧ s.Delivers t 2 (.latch 0x14C) (ofDword 0) 0xFFFF 0))
    ∧ slot.key = BitVec.ofNat 256 (leNat (block.take 32)) ∧ slot.salt = BitVec.ofNat 48 (leNat ((block.drop 32).take 6))
    ∧ slot.tx = .ready ∧ slot.rxOpen = true ∧ slot.txic = 0 ∧ slot.rxic = 0 ∧ slot.arm = true ∧ otherLinks s u n
    ∧ (u.link n).slot (!k) = (s.link n).slot (!k) ∧ (u.link n).state = (s.link n).state)
  ∧ ∀ (s : State) (m : Mv), s.ready m 0x327 [] = true → s.hereSys = true →
    let n := (s.movedVal m 0x327).toNat % 64
    let item := ((s.movedVal m 0x327).extractLsb' 8 4).toNat
    let l := s.link n
    let w : Dword := BitVec.ofNat 64 (l.item 0)
    (46 < n ∨ 10 ≤ item → s.Traps (exec (.lnkGet m) s) causeSlotIllegal 0 0x327)
    ∧ (n ≤ 46 → item < 10 → SyAnswers s (exec (.lnkGet m) s) [] (BitVec.ofNat 64 (l.item item)))
    ∧ w.extractLsb' 0 3 = (match l.state with
        | .down => 0
        | .training => 1
        | .up => 2
        | .draining => 3
        | .dark => 4)
    ∧ w.extractLsb' 4 2 = BitVec.ofNat 2 l.k0.tx.code ∧ w.extractLsb' 6 2 = BitVec.ofNat 2 l.k1.tx.code
    ∧ w.getLsbD 8 = l.k0.rxOpen ∧ w.getLsbD 9 = l.k1.rxOpen ∧ w.extractLsb' 16 11 = l.peer ∧ w.extractLsb' 32 6 = l.peerLink
    ∧ (∀ k, l.item (k + 1) = [l.k0.txic.toNat, l.k1.txic.toNat, l.k0.rxic.toNat, l.k1.rxic.toNat, l.flitTx.toNat, l.flitRx.toNat,
        l.retry.toNat, l.authFail.toNat].getD k l.kdue.toNat)

/-- R350, R355, R279, R278, R215, R274, R273: the commands of lnk.cmd; a switch-over waits for a place in the retry buffer. -/
def Obligations.LinkCommandsAct : Prop :=
  (∀ (s : State) (i : Instr) (m : Mv),
    i ∈ [Instr.linkDrain m, .linkRelock m, .linkSwitch m, .linkKdue m, .linkDownCommand m] → s.hereSys = true →
    let v := s.movedVal m 0x328
    let n := v.toNat % 64
    let cmd := (v.extractLsb' 8 4).toNat
    s.ready m 0x328 (if cmd = 3 then [0x310] else []) = true →
    (46 < n ∨ 5 ≤ cmd → s.Traps (exec i s) causeSlotIllegal 0 0x328)
    ∧ (n ≤ 46 → cmd < 5 → Acts s (exec i s) m 0x328 lnkCmdOp (linkCommand cmd n (sy1 s))))
  ∧ ∀ (s : State) (n : Nat) (v : Dword),
    let l := s.link n
    let at_ (cmd : Nat) : Link := (linkCommand cmd n v s).link n
    (l.state = .up → l.drainSent = false → (at_ 0).state = .draining)
    ∧ (l.state ≠ .up → linkCommand 0 n v s = s)
    ∧ (l.state = .dark ∨ l.state = .down → (at_ 1).state = .training ∧ (at_ 1).k0 = {} ∧ (at_ 1).k1 = {} ∧ (at_ 1).retryBuf = [])
    ∧ (l.state ≠ .dark → l.state ≠ .down → linkCommand 1 n v s = s)
    ∧ (∀ k old, l.state = .up → l.readySlot = some k → l.activeSlot = some old → l.keymark = none → l.retryBuf.length < 64 →
        ((at_ 2).slot k).tx = .active ∧ (at_ 2).keymark = some old ∧ ∃ f ∈ (at_ 2).retryBuf, f.kind.toNat = kKeymark)
    ∧ (∀ k old, l.state = .up → l.readySlot = some k → l.activeSlot = some old → l.keymark = none → 64 ≤ l.retryBuf.length →
        (at_ 2).switchDue = true)
    ∧ (l.state ≠ .up ∨ l.readySlot = none → linkCommand 2 n v s = s)
    ∧ (at_ 3).kdue = v.extractLsb' 0 48 ∧ (at_ 3).k0.arm = true ∧ (at_ 3).k1.arm = true ∧ (at_ 3).state = l.state
    ∧ (l.state ≠ .down → (at_ 4).state = .down ∧ (at_ 4).retryBuf = [])
    ∧ (l.state = .down → linkCommand 4 n v s = s)
    ∧ ∀ cmd, otherLinks s (linkCommand cmd n v s) n

/-- R351, R280, R269, R352, R203, R353, R354: rt.wr, ch.wr, which waits for the context's own accesses to its image (R129),
lnk.svc and perf.clr. -/
def Obligations.RoutesChannelsAndCounters : Prop :=
  (∀ (s : State) (m : Mv), s.ready m 0x329 [0x310] = true → s.hereSys = true →
    let v := s.movedVal m 0x329
    let g := v.toNat % 64
    let e := sy1 s
    let both := v.getLsbD 9
    let die := (v.extractLsb' 8 1).toNat
    let hop (j : Nat) : Nat := (e.extractLsb' (16 + 6 * j) 6).toNat
    let bad : Prop := e.extractLsb' 0 2 = 3 ∨ ∃ j, j < 8 ∧ e.getLsbD (8 + j) = true ∧ 46 < hop j
    let dies := if both then [0, 1] else [die]
    (bad → s.Traps (exec (.rtWr m) s) causeSlotIllegal 0 0x329)
    ∧ (¬ bad → exec (.rtWr m) s
        = .next ((dies.foldl (fun u d => u.writeRoute d g e) (s.proceed (s.primed m 0x329 opRtWr) none)).advance s.here 2))
    ∧ (∀ (u : State) (d k : Nat), tabGet 0 (u.writeRoute d g e).routes k = if k = 64 * d + g then e else tabGet 0 u.routes k)
    ∧ (∀ (u : State) (d : Nat), e.extractLsb' 0 2 ≠ 0 → u.writeRoute d g e = { u with routes := tabSet 0 u.routes (64 * d + g) e })
    ∧ ∀ (u : State) (d : Nat), g = groupOf u.fabid → u.writeRoute d g e = { u with routes := tabSet 0 u.routes (64 * d + g) e })
  ∧ (∀ (s : State) (m : Mv), s.ready m 0x32A [0x310] = true → s.hereSys = true →
    let n := (s.movedVal m 0x32A).toNat % 2048
    let a := (sy1 s).toNat
    let image := s.coreRead s.turn.core a 64
    let e := (chanOf image).rewritten
    let early := !calm s || s.hereCtx.lateAt a 64
    let u := s.writeChan n e
    (2 ^ 30 ≤ a → s.Traps (exec (.chWr m) s) causeSaddrRange 6 a)
    ∧ (a < 2 ^ 30 → a % 64 ≠ 0 → s.Traps (exec (.chWr m) s) causeAlign 6 a)
    ∧ (addrOk s a 64 false = true → early = true → exec (.chWr m) s = .next (s.countIssue s.turn.core s.turn.ctx))
    ∧ (addrOk s a 64 false = true → early = false → s.anyPoison a 64 = false →
        (ringBad e = true ∨ s.chanBusy n = true → SyAnswers s (exec (.chWr m) s) syUsed 2)
        ∧ (ringBad e = false → s.chanBusy n = false → ∃ t, exec (.chWr m) s = .next t ∧ u.Frame t (after s u)
            ∧ s.Issued t syUsed [] (s.herePlane.pc + 1) ∧ s.Delivers t 2 (.latch 0x14C) (ofDword 0) 0xFFFF 0))
    ∧ e.seq = 0 ∧ e.step = 0 ∧ e.rtail = 0 ∧ e.rhead = 0 ∧ (e.kind = 1 → e.credit = e.depth))
  ∧ (∀ (s : State) (m : Mv), s.ready m 0x32B [] = true → s.hereSys = true →
    let v := s.movedVal m 0x32B
    let core := v.toNat % 128
    s.Does (exec (.lnkSvc m) s) []
      { s with svc := tabSet none s.svc (core / 64) (if v.getLsbD 9 then some (core, (v.extractLsb' 7 2).toNat) else none) } s.hereCtx)
  ∧ ∀ (s : State) (m : Mv), s.ready m 0x32C [] = true → s.hereSys = true →
    let v := s.movedVal m 0x32C
    ∃ t, exec (.perfClr m) s = .next t ∧ s.Issued t [] [] (s.herePlane.pc + 1) ∧ (after s t).fixed = s.hereCtx.fixed
      ∧ t.aside = s.aside ∧ (∀ c, c ≠ s.turn.core → t.core c = s.core c)
      ∧ (∀ i, tabGet 0 (t.core s.turn.core).pmc i
          = if i < 4 ∧ v.getLsbD i = true then 0 else tabGet 0 (s.core s.turn.core).pmc i)
      ∧ (v.getLsbD 8 = true →
          let k := (t.core s.turn.core).countCycle
          k.hcapmin = 0 ∧ k.hcapmax = 0 ∧ ∀ b, b < 32 → tabGet 0 k.hbin b = 0)
      ∧ (v.getLsbD 8 = false → (t.core s.turn.core).capW1c = (s.core s.turn.core).capW1c)

/-! ## Triggers as a whole -/

/-- R56, R247: a trigger whose checks all hold acts, and its bundle ends. -/
def Obligations.TriggersComplete : Prop :=
  ∀ (s : State) (i : Instr) (m : Mv) (d : BitVec 10) (op : Op), triggerOf i = some (m, d, op) → s.fires m d op = true →
    exec i s = .next (s.fired m d op)

/-- R247, R51, R52, R330, R158, R418, R429: the first failed check of a trigger is its cause; an empty register holds its bundle;
a full queue traps or, where QMODE asks for it, holds. -/
def Obligations.TriggerChecksAreOrdered : Prop :=
  (∀ (s : State) (i : Instr) (m : Mv) (d : BitVec 10) (op : Op) (u : Nat), triggerOf i = some (m, d, op) →
      s.ready m d (op.needs (s.movedVal m d)) = true → (op.sysOnly = false ∨ s.hereSys = true) → op.userOnly = false →
      op.priv (s.argHere m d op) = none → op.illegal (s.argHere m d op) = none → op.lacks (s.argHere m d op) = none →
      op.reads (s.argHere m d op) = [] → op.traps (s.argHere m d op) = none → op.fmtWait (s.argHere m d op) = false →
      op.unit (s.argHere m d op) = some u → 16 ≤ (tabGet [] (s.core s.turn.core).queues (4 * u + s.turn.ctx)).length →
      (s.hereCtx.qmode.getLsbD u = false → s.Traps (exec i s) causeQueueFull u 0)
      ∧ (s.hereCtx.qmode.getLsbD u = true → (op.dests (s.argHere m d op)).all (fun k => !s.hereCtx.isEmpty k) = true →
          exec i s = .next (s.blockCtx s.turn.core s.turn.ctx (.queueFull [u]))))
  ∧ ∀ (s : State) (i : Instr) (m : Mv) (d : BitVec 10) (op : Op), triggerOf i = some (m, d, op) → s.canRun = true → m.s ≠ 0 →
    (srcKind m.s).plain = true → s.guardOpen m d = true → op.fmtWait (s.argHere m d op) = false →
    (∀ c aux addr, s.causeHere m d op = some (c, aux, addr) → s.Traps (exec i s) c aux addr)
    ∧ (s.causeHere m d op = none → emptyHere s m d op ≠ [] → BlocksOn s (exec i s) (.regs (emptyHere s m d op)))

/-- R436, R294, R435: queue pushes. -/
def Obligations.QueuePushesAppend : Prop :=
  ∀ (s : State) (m : Mv) (k : BitVec 2), s.canRun = true → s.readable m = true → s.loopsFull = true → m.h = false →
    let line := 0x3E#8 ++ k
    let word := 0x94#8 ++ k
    let gate : BitVec 16 := if s.guardOpen m word then 0xFFFF else 0
    ((s.outq s.turn.core k.toNat).isSome = true →
      PushesLine s (exec (.queuePush m k) s) k.toNat (s.moved m line &&& laneMask (s.moveMask m line)) (s.moveMask m line)
      ∧ PushesLine s (exec (.queuePushShared m k) s) k.toNat (ofDword (low64 (s.moved m word &&& laneMask gate))) gate)
    ∧ (∀ p qi, s.stepOf s.turn.core s.turn.ctx = some p → s.outq s.turn.core k.toNat = some qi →
      PushLeaves s (exec (.queuePush m k) s) p qi k.toNat (s.moved m line &&& laneMask (s.moveMask m line)) (s.moveMask m line)
      ∧ PushLeaves s (exec (.queuePushShared m k) s) p qi k.toNat (ofDword (low64 (s.moved m word &&& laneMask gate))) gate)
    ∧ (s.outq s.turn.core k.toNat = none → s.Traps (exec (.queuePush m k) s) causeSlotIllegal 0 line.toNat
      ∧ s.Traps (exec (.queuePushShared m k) s) causeSlotIllegal 0 word.toNat)

/-! ## Encoding -/

/-- R289, R310: words of chapters 11-13 and what they stand for. -/
def Obligations.KnownWordsDecode : Prop :=
  decodeWord 0x000000 = some (.nop 0 false false)
  ∧ decodeWord 0xE00100 = some (.immediateCarrier 0x100)
  ∧ decodeWord 0x110442 = some (.move { g := 0, e := true, h := false, s := 0x041 } 0x042)
  ∧ decodeWord 0x441047 = some (.move { g := 2, e := false, h := false, s := 0x104 } 0x047)
  ∧ decodeWord 0x07750A = some (.move { g := 0, e := false, h := false, s := 0x1DD } 0x10A)
  ∧ decodeWord 0x0415D2 = some (.cmpLt { g := 0, e := false, h := false, s := 0x105 } 1)
  ∧ decodeWord 0x242267 = some (.rputSt { g := 1, e := false, h := false, s := 0x108 } 7)
  ∧ decodeWord 0x678301 = some (.jmp { g := 3, e := false, h := false, s := 0x1E0 })
  ∧ decodeWord 0x070F0C = some (.loopBody { g := 0, e := false, h := false, s := 0x1C3 })
  ∧ decodeWord 0x0003FF = none

/-- R287-R289, R310: every well-formed slot instruction decodes from its word, wherever the moved value tells it apart. -/
def Obligations.EncodeThenDecode : Prop :=
  ∀ (i : Instr) (w : BitVec 24) (v : Dword), WellFormed i = true → encode i = some w → tells v i → decodeSlot w v = some i

/-- R287-R289, R310: a slot that decodes is the word of what it decodes to, which is well formed. -/
def Obligations.DecodeThenEncode : Prop :=
  ∀ (w : BitVec 24) (v : Dword) (i : Instr), decodeSlot w v = some i → encode i = some w ∧ WellFormed i = true ∧ tells v i

/-! ## The step -/

/-- R56, R287: a fetch of a core with one seated context runs the instruction that its bundle's one occupied slot decodes to;
an empty bundle is a NOP; any other bundle is issued as a whole. Another turn runs its instruction, unless it is an engine's or
the mesh's and finds its bank taken by a turn still to come in the cycle (R83, log 4): then it passes. Every step answers a
next state. -/
def Obligations.StepRunsDecodedSlot : Prop :=
  (∀ s : State, ∃ t, step s = .next t) ∧ (∀ (i : Instr) (s : State), ∃ t, exec i s = .next t)
  ∧ ∀ (s : State) (rest : List Turn),
    (∀ i, nextTurn s = some (.run i, rest) →
      let u : State := { s with agenda := rest }
      (u.bankHeld (.run i) = false → step s = exec i u) ∧ (u.bankHeld (.run i) = true → step s = .next u)
      ∧ ((Turn.run i).bankClass ≤ 2 → u.bankHeld (.run i) = false))
    ∧ ∀ c, nextTurn s = some (.fetch c, rest) →
      (∀ x, (s.core c).seats = [x] →
        let b := s.pcBundle c x
        (occupied b = [] → step s = exec (.nop 0 false false) (turning s rest c x 0))
        ∧ (∀ k, occupied b = [k] →
          (∀ i, decodeWord (bundleWord b k) = some i → step s = exec i (turning s rest c x k))
          ∧ (decodeWord (bundleWord b k) = none → step s = exec (.bundleIssue c (some x)) (turning s rest c x k)))
        ∧ (2 ≤ (occupied b).length → step s = exec (.bundleIssue c (some x)) { s with agenda := rest }))
      ∧ ((∀ x, (s.core c).seats ≠ [x]) → step s = exec (.bundleIssue c none) { s with agenda := rest })

/-- R47, R48, R50, R53, R67, R71, R208, R274, R281 and the reset columns of chapters 2 and 7: the machine after reset. -/
def Obligations.ResetState : Prop :=
  let s := State.reset
  s.cycle = 0 ∧ s.sill.state = .rom
  ∧ (∀ c x k, (s.ctx c x).readS false k = 0 ∧ (s.ctx c x).isEmpty k = false)
  ∧ (∀ c x cl k, (s.ctx c x).readV cl k = 0 ∧ (s.ctx c x).readG cl k = 0)
  ∧ (∀ c x k, (s.ctx c x).readQ k = false) ∧ (∀ c x, (s.ctx c x).state = .idle)
  ∧ (∀ c x, s.csr c x 0x00C = some 0x1C00 ∧ s.csr c x 0x026 = some 0xF)
  ∧ (∀ c x, ∀ n ∈ [0x001, 0x002, 0x008, 0x009, 0x00A, 0x00B, 0x010, 0x011, 0x012, 0x018, 0x050, 0x058, 0x059, 0x05A, 0x060, 0x061, 0x068, 0x070, 0x071,
        0x078, 0x079, 0x07A] ++ rangeFrom 0x020 6 ++ rangeFrom 0x030 31 ++ rangeFrom 0x072 4 ++ rangeFrom 0x080 32,
      s.csr c x n = some 0)
  ∧ (∀ c n, tabGet 0 (s.core c).istore n = 0 ∧ tabGet false (s.core c).untagged n = false)
  ∧ (∀ n, (s.link n).state = .down ∧ (s.link n).kdue = 0xFFFF00000000 ∧ (s.link n).flitTx = 0 ∧ (s.link n).flitRx = 0
      ∧ (s.link n).retry = 0 ∧ (s.link n).authFail = 0)
  ∧ (∀ c, (s.core c).inService = true ∧ (s.core c).stage = none)
  ∧ Memory.wf s = true

/-- R79, R80, R85, R260, R98: what a write leaves in memory, byte by byte, and that it keeps the canonical form. -/
def Obligations.MemoryReadsBack : Prop :=
  ∀ (s : State) (a : Nat) (bs : List Byte),
    (s.sWrite a bs).sRead a bs.length = bs ∧ (s.hWrite a bs).hRead a bs.length = bs
    ∧ (∀ b, b < a ∨ a + bs.length ≤ b → (s.sWrite a bs).sRead b 1 = s.sRead b 1 ∧ (s.hWrite a bs).hRead b 1 = s.hRead b 1)
    ∧ (∀ b, (s.sWrite a bs).hRead b 1 = s.hRead b 1 ∧ (s.hWrite a bs).sRead b 1 = s.sRead b 1)
    ∧ (∀ l, a / 64 ≤ l → 64 * l < a + bs.length → tabGet false (s.sWrite a bs).dirty l = true)
    ∧ (∀ w, a ≤ 4 * w → 4 * w + 4 ≤ a + bs.length → tabGet false (s.sWrite a bs).poison w = false)
    ∧ (∀ c b, b < bs.length → s.tagged (a + b) = true →
        (s.sWriteEngine c a bs).sRead (a + b) 1 = s.sRead (a + b) 1)
    ∧ (Memory.wf s = true → Memory.wf (s.sWrite a bs) = true ∧ Memory.wf (s.hWrite a bs) = true
        ∧ ∀ c, Memory.wf (s.sWriteEngine c a bs) = true ∧ Memory.wf (s.drainPwb c) = true)

/-- R79, R98: every step keeps the memories in canonical form. -/
def Obligations.MemoryStaysCanonical : Prop :=
  ∀ s t : State, Memory.wf s = true → step s = .next t → Memory.wf t = true

/-! ## The Sill -/

/-- R15, R16, R264, R276, R281, R282: reset, bring-up, and the session from OPEN to SCRUBBED. -/
def Obligations.SessionsOpenAndClose : Prop :=
  (∀ s : State, exec .moduleReset s = .next { State.reset with
      sill := { minSvn := s.sill.minSvn }, fresh := s.fresh, hostOut := s.hostOut, mgmtOut := s.mgmtOut, wireOut := s.wireOut })
  ∧ (∀ (s : State) (b : List Byte),
    (s.imageOk b = true → imageKind b ∈ [1, 2, 3] ∧ s.fusedSvn (imageKind b) ≤ imageSvn b ∧ fieldAt b 8 8 ≤ (b.drop 640).length
      ∧ (b.drop 0x10).take 32 = sha256 ((b.drop 640).take (fieldAt b 8 8)) ∧ (∀ x ∈ (b.drop 0x30).take 208, x = 0)
      ∧ pssVerify Config.firmwareKey (b.take 256) ((b.drop 256).take 384) = true)
    ∧ (s.sill.state ≠ .rom → exec (.sillFirmwareVerify b) s = .next s)
    ∧ (s.sill.state = .rom →
      (sillImage s b → ∃ t, exec (.sillFirmwareVerify b) s = .next t ∧ BringsUp s t ∧ t.mgmtOut = s.mgmtOut ∧ runsImage t b)
      ∧ (¬ sillImage s b → exec (.sillFirmwareVerify b) s
          = .next (replied { s with sill := { s.sill with state := .recovery } } .fwErr))))
  ∧ (∀ (s : State) (f : BitVec 11), (s.sill.state ≠ .bringup → exec (.bringupComplete f) s = .next s)
    ∧ (s.sill.state = .bringup → ∃ t, exec (.bringupComplete f) s = .next t ∧ Scrubbed s t ∧ t.fabid = f
        ∧ t.sill = { s.sill with state := .ready } ∧ t.session = { state := .scrubbed }))
  ∧ (∀ (s : State) (d : List Byte), takes s → idleSill s →
    (s.session.state ≠ .scrubbed → exec (.openCmd d) s = .next (replied s .busy))
    ∧ (s.session.state = .scrubbed → descMalformed d = true → exec (.openCmd d) s = .next (replied s .badOpen))
    ∧ (s.session.state = .scrubbed → descMalformed d = false → ∃ t, exec (.openCmd d) s = .next t
        ∧ t.session.state = .opened ∧ t.session.ptroot = BitVec.ofNat 64 (fieldAt d 0 8) ∧ t.session.logva = BitVec.ofNat 64 (fieldAt d 8 8)
        ∧ t.session.hrecpa = BitVec.ofNat 64 (fieldAt d 0x18 8) ∧ t.session.key = Config.sessionKey s.fresh ∧ t.dhseq = 0
        ∧ t.expected = [] ∧ t.window = [] ∧ t.mgmtOut = s.mgmtOut ++ [.opened t.session.key]
        ∧ (∀ r, r < 64 → (tabGet {} t.session.rings r).head = BitVec.ofNat 32 (fieldAt d (0x180 + 4 * r) 4))))
  ∧ (∀ s : State, takes s → idleSill s →
    (s.session.state = .opened → (∃ t, exec .closeCmd s = .next t ∧ Closes s t) ∧ ∃ t, exec .scrubCmd s = .next t ∧ Closes s t)
    ∧ (s.session.state ≠ .opened → exec .closeCmd s = .next (replied s .busy))
    ∧ (s.session.state = .scrubbed → exec .scrubCmd s = .next (replied (inSession s .scrubbing) .ok)))
  ∧ (∀ s : State,
    (s.session.state = .closing → s.out.any Out.pending = false → exec .sessionClosingEnd s = .next (inSession s .scrubbing))
    ∧ (s.session.state ≠ .closing ∨ s.out.any Out.pending = true → exec .sessionClosingEnd s = .next s))
  ∧ ∀ s : State, (s.session.state = .scrubbing → ∃ t, exec .scrubComplete s = .next t ∧ Scrubbed s t
        ∧ t.session = { state := .scrubbed } ∧ t.fabid = s.fabid ∧ t.sill = s.sill)
    ∧ (s.session.state ≠ .scrubbing → exec .scrubComplete s = .next s)

/-- R177, R218, R266, R267, R281-R286: the other commands of the Sill, the time its live services take, what waits for the end of a
Sill firmware update, and its thermal limits. BUSY to a DRAIN, UNDRAIN or RECAL with nothing to do is the model's choice
(log 89); that a query waits for the end of an update in its order is its reading (log 62). -/
def Obligations.ManagementCommandsAnswer : Prop :=
  (∀ (s : State) (b : List Byte) (c k : Nat) (it : RecalItem),
    (s.sill.state = .off → ∀ i ∈ Instr.thermalLimitStep :: .fwupd b :: starting b c it, exec i s = .next s)
    ∧ (s.sill.state = .off → ¬ updating s → ∀ p ∈ telling ++ asking b k, exec p.1 s = .next s)
    ∧ (s.sill.state ≠ .off → ¬ takes s → ∀ i ∈ starting b c it, exec i s = .next (replied s .busy))
    ∧ (s.sill.state = .rom ∨ s.sill.state = .bringup → exec (.fwupd b) s = .next (replied s .busy))
    ∧ (s.sill.state ≠ .off → ¬ takes s → ¬ updating s → ∀ p ∈ asking b k, exec p.1 s = .next (replied s .busy))
    ∧ (takes s → ¬ idleSill s → ∀ i ∈ starting b c it, exec i s = .next (replied s .busy))
    ∧ (updating s → ∀ p ∈ telling ++ asking b k,
        exec p.1 s = .next { s with sill := { s.sill with held := s.sill.held ++ [p.2] } })
    ∧ (s.sill.state ≠ .off → ¬ updating s → exec .identCmd s = .next (replied s .ident)
        ∧ exec .statusCmd s = .next (replied s (.status s.sill.state s.session.state
          (if s.session.state = .opened then some s.dhseq else none)
          (if s.session.state = .opened then (rangeFrom 0 64).map (fun r => (tabGet {} s.session.rings r).head) else []))))
    ∧ (takes s → ¬ updating s → exec .recordsCmd s = .next (replied s (.records s.sill.records))
        ∧ exec .readcnt s = .next (replied s (.counters
            (allCores.map (fun c => ((s.core c).ceSram, (s.core c).ceIstore, (s.core c).ueCore)))
            ((rangeFrom 0 8).map (fun n => (tabGet 0 s.ceHbm n, tabGet 0 s.ueHbm n)))))
        ∧ exec (.attestCmd b) s = .next (replied s (.attest b Config.certificateSerial (s.sill.images.map (·.2)) s.session.state
            (if s.session.state = .opened then some s.dhseq else none) s.cycle (Config.attestSignature (s.reportBytes b))))))
  ∧ (∀ (s : State) (b : List Byte),
    (s.sill.state = .recovery → sillImage s b → ∃ t, exec (.fwupd b) s = .next t ∧ BringsUp s t ∧ runsImage t b
      ∧ t.mgmtOut = s.mgmtOut ++ [.ok])
    ∧ (s.sill.state = .recovery → ¬ sillImage s b → exec (.fwupd b) s = .next (replied s .fwErr))
    ∧ (takes s → idleSill s → s.imageOk b = true → ∃ t k, exec (.fwupd b) s = .next t
      ∧ t.sill.nextImage = some (imageKind b, theImage b)
      ∧ t.mgmtOut = s.mgmtOut ++ [.ok] ∧ k ≤ (if imageKind b = 1 then 2000000 else if imageKind b = 2 then 2000 else 5000) * 3000
      ∧ t.sill.busyUntil = s.cycle + BitVec.ofNat 64 k
      ∧ t.sill.walksHeld = (if imageKind b = 2 then t.sill.busyUntil else s.sill.walksHeld)
      ∧ { t.sill with nextImage := none, busyUntil := s.sill.busyUntil, walksHeld := s.sill.walksHeld } = s.sill
      ∧ { t with sill := s.sill, mgmtOut := s.mgmtOut, fresh := s.fresh } = s)
    ∧ (takes s → idleSill s → s.imageOk b = false → exec (.fwupd b) s = .next (replied s .fwErr))
    ∧ (takes s → ¬ idleSill s → exec (.fwupd b) s = .next (replied s .busy)))
  ∧ (∀ s : State, (s.sill.nextImage = none → s.endUpdate = s)
    ∧ ∀ kind i, s.sill.nextImage = some (kind, i) →
      (s.cycle.toNat < s.sill.busyUntil.toNat → s.endUpdate = s)
      ∧ (s.sill.busyUntil.toNat ≤ s.cycle.toNat →
        tabGet {} s.endUpdate.sill.images kind = i ∧ (∀ k, k ≠ kind → tabGet {} s.endUpdate.sill.images k = tabGet {} s.sill.images k)
          ∧ s.endUpdate.sill.nextImage = none ∧ s.endUpdate.sill.held = []
          ∧ (s.sill.state ≠ .off → s.endUpdate.mgmtOut.length = s.mgmtOut.length + s.sill.held.length)
          ∧ { s.endUpdate with sill := s.sill, mgmtOut := s.mgmtOut } = s))
  ∧ (∀ (s : State) (k : Nat), takes s → ¬ updating s → ∃ t, exec (.svncommit k) s = .next t ∧ t.mgmtOut = s.mgmtOut ++ [.ok]
      ∧ t.fusedSvn k = max (s.fusedSvn k) (tabGet {} s.sill.images k).svn.toNat ∧ (∀ j, j ≠ k → t.fusedSvn j = s.fusedSvn j))
  ∧ (∀ (s : State) (c : Nat), takes s → idleSill s →
    let drains := c < 128 ∧ (s.core c).inService = true ∧ (s.core c).drained = false
    (drains → (∃ t, exec (.drainCmd c) s = .next t ∧ Drains s t c) ∧ ∃ t, exec (.recalCmd (.core c)) s = .next t ∧ Drains s t c)
    ∧ (¬ drains → exec (.drainCmd c) s = .next (replied s .busy) ∧ exec (.recalCmd (.core c)) s = .next (replied s .busy))
    ∧ ((s.core c).inService = true → exec (.undrainCmd c) s = .next (replied s .busy))
    ∧ ((s.core c).inService = false → ∃ t, exec (.undrainCmd c) s = .next t ∧ t.mgmtOut = s.mgmtOut ++ [.ok]
        ∧ (t.core c).inService = true ∧ (t.core c).drained = false ∧ (t.core c).stage = none ∧ ∀ k, k ≠ c → t.core k = s.core k)
    ∧ (∀ a b, ∃ t k, exec (.recalCmd (.hbm a b)) s = .next t ∧ t.mgmtOut = s.mgmtOut ++ [.ok] ∧ k ≤ 50 * 3000
        ∧ t.sill.busyUntil = s.cycle + BitVec.ofNat 64 k ∧ (a, b, t.sill.busyUntil) ∈ t.sill.retrain
        ∧ { t.sill with busyUntil := s.sill.busyUntil, retrain := s.sill.retrain } = s.sill
        ∧ { t with sill := s.sill, mgmtOut := s.mgmtOut, fresh := s.fresh } = s)
    ∧ (c < 47 → (s.link c).state = .up →
        let u := s.linkDrain c
        exec (.recalCmd (.link c)) s = .next (replied { u with sill := { u.sill with recal := u.sill.recal ++ [c] } } .ok))
    ∧ (47 ≤ c ∨ (s.link c).state ≠ .up → exec (.recalCmd (.link c)) s = .next (replied s .busy)))
  ∧ (∀ s : State, s.sill.state ≠ .off → ∃ t, exec .thermalLimitStep s = .next t ∧ t.aside = s.aside ∧ t.steps = s.steps
      ∧ ∀ c, c < 128 → t.core c = { s.core c with pwrlim := (s.core c).pwrlim - (s.core c).pwrlim / 8 })
  ∧ ∀ s : State, exec .thermalShutdown s = .next { State.reset with
      sill := { minSvn := s.sill.minSvn, state := .off }, fresh := s.fresh, hostOut := s.hostOut
      mgmtOut := s.mgmtOut ++ [.fwErr], wireOut := s.wireOut }

/-! ## The host -/

/-- R18-R21, R90, R153-R155, R186, R261-R263, R285, Table 5.4: RDMA of the host, the work rings and their requests, the kernel load,
tasks of stages with input queues. -/
def Obligations.HostRequestsAct : Prop :=
  (∀ (s : State) (q : QpId) (key : BitVec 32) (va : BitVec 64) (d : List Byte) (n : Nat),
    let up : Prop := s.sill.state = .ready ∧ q ∉ s.qpError ∧ (q ∈ s.qps ∨ (s.qps.filter (fun p => p.port = q.port)).length < 64)
    let qps := if q ∈ s.qps then s.qps else s.qps ++ [q]
    let nak : State := { s with qps := qps, hostOut := s.hostOut ++ [.nakAccess q] }
    let held (r : HostCall) : Prop := s.hostHeld r = true
    let wr : HostCall := .write q key va.toNat d
    let rd : HostCall := .read q key va.toNat n
    (¬ up → exec (.rdmaWrite q key va d) s = .next s ∧ exec (.rdmaRead q key va n) s = .next s ∧ exec (.rdmaInvalidRequest q) s = .next s)
    ∧ (up → ∀ p ∈ [(Instr.rdmaWrite q key va d, wr), (.rdmaRead q key va n, rd), (.rdmaInvalidRequest q, .invalid q)],
        held p.2 → exec p.1 s = .next { s with hostIn := s.hostIn ++ [p.2] })
    ∧ (s.hostIn = [] → s.calm = true → ∀ r, ¬ held r) ∧ (s.hostIn = [] → ¬ held (.invalid q))
    ∧ (up → ¬ held (.invalid q) → exec (.rdmaInvalidRequest q) s
        = .next { s with qps := qps, qpError := s.qpError ++ [q], hostOut := s.hostOut ++ [.nakInvalid q] })
    ∧ (up → s.session.state ≠ .opened ∨ key ≠ s.session.key →
        (¬ held wr → exec (.rdmaWrite q key va d) s = .next nak) ∧ (¬ held rd → exec (.rdmaRead q key va n) s = .next nak))
    ∧ (up → ¬ held wr → s.hostRefused true key va.toNat d.length = true → exec (.rdmaWrite q key va d) s = .next nak)
    ∧ (up → ¬ held rd → s.hostRefused false key va.toNat n = true → exec (.rdmaRead q key va n) s = .next nak)
    ∧ (up → ¬ held wr → s.hostRefused true key va.toNat d.length = false → ∃ t, exec (.rdmaWrite q key va d) s = .next t
        ∧ t.hostOut = s.hostOut ++ [.ack q] ∧ t.qps = qps
        ∧ { t with hbm := s.hbm, hbmPoison := s.hbmPoison, hostOut := s.hostOut, qps := s.qps } = s
        ∧ ∀ pa, piecesOf va.toNat d.length = [(va.toNat, d.length)] → s.hostPage true va.toNat = some pa →
            t.hRead pa d.length = d ∧ ∀ a, a < pa ∨ pa + d.length ≤ a → t.hRead a 1 = s.hRead a 1)
    ∧ (up → ¬ held rd → s.hostRefused false key va.toNat n = false →
        ((s.hostFetch va.toNat n).2 = false → exec (.rdmaRead q key va n) s
          = .next { s with qps := qps, hostOut := s.hostOut ++ [.readResponse q (s.hostFetch va.toNat n).1] })
        ∧ ((s.hostFetch va.toNat n).2 = true → exec (.rdmaRead q key va n) s = .next nak)))
  ∧ (∀ (s : State) (q : QpId) (a : HostResponse),
    ((∀ p ∈ s.hostPending, p.q ≠ q) → exec (.hostRdmaResponse q a) s = .next s)
    ∧ ∀ before r behind, s.hostPending = before ++ r :: behind → r.q = q → (∀ p ∈ before, p.q ≠ q) →
      let u : State := { s with hostPending := before ++ behind }
      exec (.hostRdmaResponse q a) s = .next (match a with
        | .ack => u.hostAnswered r.who []
        | .readData d => u.hostAnswered r.who d
        | .nak => ({ u with qpError := if q ∈ s.qpError then s.qpError else s.qpError ++ [q] } : State).hostFailed r))
  ∧ (∀ s : State,
    (s.session.state ≠ .opened ∨ s.cycle.toNat % 32 ≠ 0 → exec .workRingPoll s = .next s)
    ∧ (s.session.state = .opened → s.cycle.toNat % 32 = 0 →
      ((∀ i, i < 64 → (tabGet ({} : Ring) s.session.rings i).live = false) → exec .workRingPoll s = .next s.settle)
      ∧ ∀ k, k < 64 → (tabGet ({} : Ring) s.session.rings ((s.pollAt + k) % 64)).live = true →
          (∀ j, j < k → (tabGet ({} : Ring) s.session.rings ((s.pollAt + j) % 64)).live = false) →
          let r := (s.pollAt + k) % 64
          let read := (tabGet ({} : Ring) s.session.rings r).reads
          (s.calm = true → s.rangesHeld read = false)
          ∧ (s.rangesHeld read = true → exec .workRingPoll s = .next s.settle)
          ∧ (s.rangesHeld read = false → exec .workRingPoll s = .next ({ s.visitRing r with pollAt := (r + 1) % 64 } : State).settle)))
  ∧ TakesRequests .nopRequest (· == 0) (fun s _ o => some (s.completion o 0x00))
  ∧ TakesRequests .unknownRequest (4 ≤ ·) (fun s _ o => some (s.completion o 0x01))
  ∧ TakesRequests .klaunch (· == 1) launches ∧ TakesRequests .taskRequest (· == 2) posts ∧ TakesRequests .closeRequest (· == 3) closes
  ∧ (∀ (s : State) (o : Origin), o.cq = false → s.completion o 0x00 = s)
  ∧ (∀ s : State, (¬ isLoading s ∨ s.running = true → exec .kernelLoadComplete s = .next s)
    ∧ (∀ k, s.launching = some k → s.running = false →
        exec .kernelLoadComplete s = .next { s.leaveKernel.clearRings with kernel := k, launching := none })
    ∧ (s.launching = none → s.kernel.state = .loading → s.running = false →
        exec .kernelLoadComplete s = .next (loaded s).settle))
  ∧ (∀ (k : Core) (n : Kernel) (i : Nat), tabGet 0 (k.loadKernel n).istore i
      = if i < n.nbund then BitVec.ofNat 192 (leNat ((n.code.drop (24 * i)).take 24)) else 0)
  ∧ (∀ (k : Core) (n : Kernel) (i : Nat), tabGet false (k.loadKernel n).untagged i
      = (decide (i < n.nbund) && !n.segs.any (fun p => p.1 ≤ i && i < p.1 + p.2)))
  ∧ ∀ (s : State) (st : Nat),
    let t := tabGet {} s.kernel.stages st
    (∀ qi, t.inq.head? = some (some qi) →
      let q := tabGet {} s.queues qi
      (q.count = 0 ∨ s.mayForm st = false → exec (.taskForm st) s = .next s)
      ∧ (q.count ≠ 0 → s.mayForm st = true → exec (.taskForm st) s
          = .next (({ s with queues := tabSet {} s.queues qi { q with head := q.head + 1 } } : State).postTask
              (if t.template.isEmpty then defaultTopb else t.template) st
              (if s.kernel.tmplva = 0 then 0 else s.kernel.tmplva + BitVec.ofNat 64 (256 * st)) none
              (some (s.sRead (q.slotAddr q.head) (64 * q.lines), tabGet 0 q.vmask (q.head.toNat % 2 ^ q.log2d),
                s.slotPoison q q.head)))))
    ∧ ((∀ qi, t.inq.head? ≠ some (some qi)) → exec (.taskForm st) s = .next s)

/-! ## The dispatcher -/

/-- R22, R24, R30, R32, R35, R49, R171-R177, R164, R341: bins, placement, retirement, moves, samples, the Truss and refills. -/
def Obligations.DispatcherActs : Prop :=
  (∀ s : State, (s.session.state ≠ .opened ∨ s.kernel.state ≠ .running → exec .dispatcherBinDrain s = .next s)
    ∧ ((∀ b, b < 64 → tabGet [] s.bins b = []) → exec .dispatcherBinDrain s = .next s)
    ∧ ∀ k, s.session.state = .opened → s.kernel.state = .running → k < 64 → tabGet [] s.bins ((s.binAt + k) % 64) ≠ [] →
        (∀ j, j < k → tabGet [] s.bins ((s.binAt + j) % 64) = []) →
        let b := (s.binAt + k) % 64
        let p := State.drainBin (tabGet [] s.bins b) [] [] s
        exec .dispatcherBinDrain s = .next { p.1 with bins := tabSet [] p.1.bins b p.2, binAt := (b + 1) % 64 })
  ∧ Places .tileStepPlace false ∧ Places .gangPlace true
  ∧ (∀ (s : State) (t : Task) (ps : List (TileStep × Nat × Nat)),
      (s.placeAll t ps).reserved = (ps.foldl (fun s p => s.placeStep t p) s).reserved.filter (fun p => p.2 != some t.id)
      ∧ ∀ p ∈ ps, dieOf p.2.1 ∈ (s.placeAll t ps).placedDies)
  ∧ (∀ (cx : Ctx) (t : Task) (g : Stage) (p : TileStep) (now : Dword), Placed cx (placedCtx cx t g p now) t g p now)
  ∧ (∀ (s : State) (c x : Nat),
    let quiet : Prop := (s.ctx c x).doneIssued = true ∧ s.allAccepted c x = true ∧ (s.ctx c x).completing = []
      ∧ (s.ctx c x).user.due = [] ∧ (s.ctx c x).empty = []
      ∧ ∀ q ∈ s.pushes ++ s.spills, ¬ (q.core = c ∧ q.ctx = x)
    (s.stepOf c x = none ∨ ¬ quiet → exec (.tileStepRetire c x) s = .next s)
    ∧ ∀ p, s.stepOf c x = some p → quiet →
        let mine := ((s.ctx c x).live.filter (fun l => p.placedAt ≤ l.1)).map (·.1)
        exec (.tileStepRetire c x) s = .next ((((((s.modCore c (fun k => k.freeLoop x)).modCtx c x Ctx.retire).modStep p.id
          (fun p => { p with state := .retired })).modTask p.task (fun t => { t with ran := t.ran ++ [(c, x, mine)] })).instanceDone
            p.task).settle))
  ∧ (∀ s : State, (s.cycle.toNat % 256 ≠ 0 → exec .occupancySample s = .next s)
    ∧ (s.cycle.toNat % 256 = 0 → tabWf {} s.queues = true → ∃ t, exec .occupancySample s = .next t ∧ t.steps = s.steps ∧ t.tasks = s.tasks
        ∧ (∀ q, tabGet {} t.queues q = { tabGet {} s.queues q with occacc := (tabGet {} t.queues q).occacc })
        ∧ ∀ q, (tabGet {} s.queues q).used = true → (tabGet {} t.queues q).occacc
            = (tabGet {} s.queues q).occacc + BitVec.ofNat 32 (min ((tabGet {} s.queues q).count + (tabGet {} s.queues q).ringCount)
                (2 ^ (tabGet {} s.queues q).log2d))))
  ∧ (∀ (s : State) (c : Nat),
    let k := s.core c
    let free (m : PendingMove) : Prop := k.atBoundary = true ∧ k.pwb = [] ∧ k.saving = none ∧ m.notBefore.toNat ≤ s.cycle.toNat
    ((∀ m, k.move = some m → ¬ free m) → exec (.coreMoveTakeEffect c) s = .next s)
    ∧ (∀ m, k.move = some m → free m → k.drained = false → ∃ t, exec (.coreMoveTakeEffect c) s = .next t
        ∧ (t.core c).stage = m.target ∧ (t.core c).move = none
        ∧ (t.core c).phaseGroup = (match m.target with
            | some st => (tabGet {} s.kernel.stages st).group
            | none => 0)
        ∧ (m.target = none → (t.core c).phase = 0)
        ∧ (∀ d, d ≠ c → t.core d = s.core d) ∧ { t with cores := s.cores } = s)
    ∧ (∀ m, k.move = some m → free m → k.drained = true → ∃ u : State, exec (.coreMoveTakeEffect c) s = .next u.recheckFit
        ∧ (u.core c).stage = none ∧ (u.core c).move = none ∧ (u.core c).inService = false ∧ c ∉ u.sill.draining))
  ∧ (∀ (s : State) (die : Nat), (s.trussDue = false → exec (.trussBalance die) s = .next s)
    ∧ (s.trussDue = true → ∃ t, exec (.trussBalance die) s = .next t ∧ (∀ st, st < 16 → tabGet 0 t.inSamples (16 * die + st) = 0)
        ∧ (die = 1 → ∀ q, (tabGet {} t.queues q).occacc = 0)))
  ∧ ∀ (s : State) (n : Nat),
    let q := tabGet {} s.queues n
    let idle : Prop := q.ringCount = 0 ∨ 2 ^ q.log2d ≤ q.count ∨ q.refillWait = true ∨ q.refillHeld ≠ none
    let u := State.refillRead n q.refillRest s
    let r := tabGet {} u.queues n
    let whole : Prop := r.ovhead = q.ovhead ∧ 64 * (r.lines + 1) ≤ r.refillBuf.length
    (idle → exec (.overflowRefill n) s = .next s)
    ∧ (¬ idle → ¬ whole → exec (.overflowRefill n) s = .next u)
    ∧ (¬ idle → whole → ∃ t, exec (.overflowRefill n) s = .next t
        ∧ tabGet {} t.queues n = { r with
            vmask := tabSet 0 r.vmask (r.tail.toNat % 2 ^ r.log2d) (BitVec.ofNat 16 (fieldAt r.refillBuf (64 * r.lines) 2))
            tail := r.tail + 1, ovhead := r.ovhead + 1, pushers := r.pushers.tail, refillBuf := [], refillPoison := [] })

/-! ## Cores and contexts -/

/-- R50, R56, R78, R89, R122, R129, R131, R178-R181, R208, R218, R247-R249, R260, R293, R296, R344: bundles as a whole, whose slots
all read their sources before any of them writes, the Dovetail, the governor, arrivals, pending causes, lowest code first (every
deferred cause has a lower code than an async one), phases, errors and the clock. When a blocked context wakes is the model's
reading (`wakeAll`, log 20), so is when a core's arrival is sampled (log 88). -/
def Obligations.CoresAdvance : Prop :=
  (∀ (s : State) (c x : Nat), exec (.bundleIssue c (some x)) s = .next (s.attempt c x (bundleSlots (s.pcBundle c x)))
    ∧ exec (.bundleIssue c none) s = .next (s.issueCycle c)
    ∧ ((s.core c).frozen = true ∨ (s.core c).seats = [] → exec (.bundleIssue c none) s = .next s))
  ∧ (∀ (s : State) (e : Site) (slots : List Slot), (∀ sl ∈ slots, ∃ m d, sl.mv = some (m, d) ∧ (srcKind m.s).plain = true) →
      (readSlots s e s slots).2 = s
      ∧ (readSlots s e s slots).1.map Item.raw = slots.filterMap (fun sl => sl.mv.map (fun p => s.source e sl.k p.1.s)))
  ∧ (∀ s : State,
    let slots := bundleSlots (s.pcBundle s.turn.core s.turn.ctx)
    let e := s.site s.turn.core s.turn.ctx slots
    let key (p : Nat × Mv × BitVec 10) : Nat := latchKey p.1 p.2.2.toNat
    s.canRun = true → s.loopsFull = true → collision {} slots = none →
    (∀ sl ∈ slots, sl.kind = .nop ∨ (∃ i, sl.kind = .carrier i) ∨ ∃ m d, sl.kind = .move m d) → (∀ p ∈ movesOf slots, Stands s e p) →
    ∃ t, exec (.bundleIssue s.turn.core (some s.turn.ctx)) s = .next t
      ∧ s.Frame t ((movesOf slots).foldl (fun cx p => cx.afterMove s.hereSys p.1 p.2.2 (lanesIn s p) (rawIn s e p) (valueIn s e p)) s.hereCtx)
      ∧ (s.planeAfter t).cyc = s.herePlane.cyc + 1 ∧ (s.settled = true → (s.planeAfter t).pc = s.herePlane.pc + 1)
      ∧ (∀ p ∈ movesOf slots, isOperandPort p.2.2 = true → tabGet {} (s.planeAfter t).latches (key p)
          = (tabGet {} s.herePlane.latches (key p)).afterMove p.2.2 p.2.1.h (lanesIn s p) (valueIn s e p))
      ∧ ∀ k, (∀ p ∈ movesOf slots, isOperandPort p.2.2 = true → k ≠ key p) →
          tabGet {} (s.planeAfter t).latches k = tabGet {} s.herePlane.latches k)
  ∧ (∀ slots : List Slot, collision {} slots = none → withinLimits (limitsOf slots))
  ∧ (∀ (s : State) (c : Nat),
    let k := s.core c
    let asked : Option Nat := match k.rotate with
      | some x => if (k.ctx x).seatedNow = true then some x else none
      | none => none
    let u := if k.rotate = asked then s else s.modCore c (fun k => { k with rotate := asked })
    let due : Prop := 2 ≤ k.seats.length ∧ ∃ y ∈ k.readyCtxs, (k.ctx y).readySince.toNat + 1024 ≤ s.cycle.toNat
    (2 ≤ k.seats.length ∨ k.readyCtxs = [] → exec (.dovetailSeat c) s = .next u)
    ∧ (k.seats.length < 2 → ∀ x, First x k.readyCtxs (fun y => (k.ctx y).readySince.toNat) →
        exec (.dovetailSeat c) s = .next (u.modCtx c x (fun cx => { cx with
          state := if cx.modeSys then .system else .seated, seatedNow := true, seatedSince := s.cycle })))
    ∧ (due → asked ≠ none → exec (.dovetailRotation c) s = .next s)
    ∧ (∀ x, due → asked = none → First x k.seats (fun z => (k.ctx z).seatedSince.toNat) →
        exec (.dovetailRotation c) s = .next (s.modCore c (fun k => { k with rotate := some x })))
    ∧ (¬ due → k.rotate = none → exec (.dovetailRotation c) s = .next s)
    ∧ (¬ due → k.rotate ≠ none → exec (.dovetailRotation c) s = .next (s.modCore c (fun k => { k with rotate := none })))
    ∧ exec (.dovetailRoleSwap c) s = .next (if 256 ≤ k.refusals then s.modCore c (fun k => { k with swapRoles := true }) else s)
    ∧ (k.frozen = true ∨ k.weightNow ≠ 0 ∨ k.weightSum ≤ k.pwrlim.toNat → exec (.freezeCycle c) s = .next s)
    ∧ (k.frozen = false → k.weightNow = 0 → k.pwrlim.toNat < k.weightSum → exec (.freezeCycle c) s
        = .next ((s.modCore c (fun k => { k with frozen := true, frzcnt := k.frzcnt + 1 })).event c 0x05 1)))
  ∧ (∀ (s : State) (c x i : Nat),
    (s.lateReady c x i = none → exec (.longLatencyArrival c x i) s = .next s ∧ exec (.meshStorePerformed c x i) s = .next s)
    ∧ ∀ l, s.lateReady c x i = some l →
      let gone := s.dropLate c x i
      let timed := gone.sample c 0x01 (s.cycle - l.issued).toNat
      l.earliest.toNat ≤ s.cycle.toNat
      ∧ (∀ a n ov, l.kind = .load a n ov → exec (.longLatencyArrival c x i) s
          = .next ((timed.landLate c x l.dst (ofDword (dwordOf (s.readOver ov a n)))).consumeOver c x ov a n))
      ∧ (∀ ls ov, l.kind = .vload ls ov → exec (.longLatencyArrival c x i) s
          = .next (ls.foldl (fun u p => u.consumeOver c x ov p.2 4) (timed.landLate c x l.dst (s.lanesOver ov ls))))
      ∧ (∀ op a w v e, l.kind = .amo op a w v e → exec (.longLatencyArrival c x i) s
          = .next (((gone.amoPerform op a w v e).1.landLate c x l.dst (ofDword (gone.amoPerform op a w v e).2)).consume c x a
              (if w then 4 else 8)))
      ∧ (∀ v, l.kind = .value v → exec (.longLatencyArrival c x i) s = .next (gone.landLate c x l.dst v))
      ∧ (∀ a b cells, l.kind = .store ((a, b) :: cells) →
          exec (.meshStorePerformed c x i) s = .next (gone.sWriteEngine c a (b :: cells.map (·.2))))
      ∧ (∀ op a v, l.kind = .bar op a v → exec (.meshStorePerformed c x i) s
          = .next (if 2 ≤ op then (gone.barPerform op a v).consume c x a 8 else gone.barPerform op a v)))
  ∧ (∀ (s : State) (c x n : Nat) (sys : Bool) (v : Line), 0 < n → n < 64 →
      let t := s.landLate c x (some (.sreg n sys)) v
      (t.ctx c x).readS sys n = low64 v ∧ (t.ctx c x).isEmpty (sEmptyKey (sKey sys n)) = false)
  ∧ (∀ (s : State) (c x : Nat),
    let cx := s.ctx c x
    let user : Bool := s.canIssue c x && !cx.modeSys && cx.completing.isEmpty && !cx.doneIssued && !cx.preempt
    (user = false ∨ cx.firstPending = none → exec (.trapDelivery c x) s = .next s)
    ∧ (tabWf none cx.pend = true →
      (cx.firstPending = none ↔ ∀ code, tabGet none cx.pend code = none)
      ∧ ∀ t, cx.firstPending = some t ↔ ∃ code, t.cause = BitVec.ofNat 8 code ∧ tabGet none cx.pend code = some t.info
          ∧ ∀ k, k < code → tabGet none cx.pend k = none)
    ∧ (∀ t, user = true → cx.firstPending = some t → exec (.trapDelivery c x) s
        = .next ((s.modCtx c x (fun cx => { cx with pend := tabSet none cx.pend t.cause.toNat none })).deliver c x t))
    ∧ (cx.timer = none → exec (.timerExpiry c x) s = .next s)
    ∧ (∀ d, cx.timer = some d → (s.cycle.toNat < d.toNat → exec (.timerExpiry c x) s = .next s)
      ∧ (d.toNat ≤ s.cycle.toNat → exec (.timerExpiry c x) s = .next ((s.modCtx c x (fun cx => { cx with timer := none })).pendCause c x
          causeTimer (trapInfoWord none 0 (s.cycle.toNat % 2 ^ 52)))))
    ∧ (cx.completing = [] → exec (.releaseComplete c x) s = .next s)
    ∧ ∀ o rest, cx.completing = o :: rest →
      let u := s.modCtx c x (fun cx => cx.completedOne rest)
      (cx.preempt = false → cx.completedOne rest = { cx with completing := rest })
      ∧ (∀ scope a order, o = .release scope a order →
        exec (.releaseComplete c x) s = .next (if s.releaseDone c x scope order then u.afterRelease c x a order else s))
      ∧ (∀ m order, o = .fenceSt m order →
        exec (.releaseComplete c x) s = .next (if s.streamsDone c x m order = true ∧ s.logsMigrate c x = false then u else s))
      ∧ (∀ code va ws hs, o = .tlbInv code va ws hs →
        let ended : Prop := (∀ w ∈ s.walks, (w.die, w.va, w.asked) ∉ ws) ∧ ∀ r ∈ s.hostPending, r.id ∉ hs
        (ended → exec (.releaseComplete c x) s = .next { u.tlbRemove code va.toNat with walkMiss := [] })
        ∧ (¬ ended → exec (.releaseComplete c x) s = .next s)))
  ∧ (∀ (s : State) (c : Nat),
    let u := s.noteArrival c
    let ms := u.phaseMembers c
    let opens : Prop := (∀ d ∈ ms, (u.core d).phaseArrived = true ∧ u.coreSettled d = true) ∧ u.phaseAsked ms = true
    (¬ opens → exec (.phaseOpen c) s = .next u)
    ∧ (opens → exec (.phaseOpen c) s = .next (ms.foldl (State.openMember (ms.filter (fun d => !(u.core d).pwb.isEmpty)))
        (ms.foldl State.drainPwb (ms.foldl State.sampleArrival u)))))
  ∧ (∀ (s : State) (c : Nat),
    (∃ t, exec (.eccCorrected (.sram c)) s = .next t ∧ (t.core c).ceSram = (if (s.core c).ceSram = 0xFFFFFFFF then 0xFFFFFFFF else (s.core c).ceSram + 1)
      ∧ { t.core c with ceSram := (s.core c).ceSram, events := (s.core c).events } = s.core c ∧ t.aside = s.aside)
    ∧ (∃ t, exec (.eccCorrected (.istore c)) s = .next t
      ∧ (t.core c).ceIstore = (if (s.core c).ceIstore = 0xFFFFFFFF then 0xFFFFFFFF else (s.core c).ceIstore + 1)
      ∧ { t.core c with ceIstore := (s.core c).ceIstore, events := (s.core c).events } = s.core c ∧ t.aside = s.aside)
    ∧ exec (.eccCorrected (.hbm c)) s = .next { s with ceHbm := tabSet 0 s.ceHbm c (satAdd1 (tabGet 0 s.ceHbm c)) }
    ∧ (∀ a, ∃ t, exec (.eccUncorrectable (.sliceWord a)) s = .next t ∧ t.anyPoison (a / 4 * 4) 4 = true ∧ t.sspace = s.sspace
      ∧ (t.core (sliceOf a)).ueCore = satAdd1 (s.core (sliceOf a)).ueCore)
    ∧ (∀ pa, ∃ t, exec (.eccUncorrectable (.hbmByte pa)) s = .next t ∧ t.hPoisoned (pa / 32 * 32) 32 = true ∧ t.hbm = s.hbm)
    ∧ (∀ r, ∃ t, exec (.eccUncorrectable (.masRow c r)) s = .next t ∧ tabGet false (t.core c).masPoison (r % 256) = true
      ∧ (t.core c).mas = (s.core c).mas)
    ∧ (∀ tag l, (s.core c).pwbLine tag = some l → ∃ t, exec (.eccUncorrectable (.phaseLine c tag)) s = .next t
      ∧ (t.core c).pwbLine tag = some { l with poison := true })
    ∧ (∀ x, let u := s.countUe c
      exec (.eccUncorrectable (.istoreFetch c x)) s = .next (
        if (s.ctx c x).state = .seated ∨ (s.ctx c x).state = .system then u.endCtx c x { causeRecord causeEccUncorr c x 0 with
          addr := BitVec.ofNat 64 ((s.ctx c x).plane (s.ctx c x).modeSys).pc.toNat, aux := Config.memoryKind 3 } else u))
    ∧ exec (.eccUncorrectable (.imageSave c)) s = .next (match (s.core c).saving with
        | some v => (s.countUe c).failSave c v
        | none => s.countUe c))
  ∧ (∀ s : State,
    let u := ((rangeFrom 0 47).foldl State.linkPump s.applyPushes.coresCycle.gangsCycle.ringsFinish).sillCycle.failQpErrors
    exec .referenceClockCycle s
      = .next ({ u with cycle := u.cycle + 1, placedDies := [] } : State).endUpdate.releaseWrites.hostCycle.wakeAll)
  ∧ (∀ s : State, s.cores = [] → s.links = [] → s.chans = [] → s.sill.recal = [] → s.hostPending = [] → s.pushes = [] →
      s.spills = [] → s.sideLogs = [] → s.portTold = [] → s.heldWrites = [] → s.hostIn = [] → s.sill.nextImage = none → (s.sill.state ≠ .ready ∨ (s.cycle.toNat + 1) % 3000000 ≠ 0) →
      exec .referenceClockCycle s = .next { s with cycle := s.cycle + 1, placedDies := [] })
  ∧ ∀ (k : Core) (i : Nat), i < 4 → k.capW1c = [] → tabGet 0 k.countCycle.pmc i
      = if k.pmcSet.getLsbD i = true ∨ k.perfEn.getLsbD i = false ∨ (k.perfFrz = true ∧ k.frozen = true) then tabGet 0 k.pmc i
        else tabGet 0 k.pmc i + BitVec.ofNat 64 (tabGet 0 k.events (bits k.perfSel.toNat (8 * i + 7) (8 * i)))

/-! ## Engines that work by themselves -/

/-- A command stands alone at the heads of the queues of unit u of core c, with others behind it, and neither a fence nor an
acceptance of the cycle holds it. -/
def Sys2Proof.Claims.Heads (s : State) (c u : Nat) (cmd : Cmd) (rest : List Cmd) : Prop :=
  cmd.core = c ∧ cmd.unit = u ∧ cmd.ctx < 4 ∧ u ∉ (s.core c).accepted ∧ (s.ctx c cmd.ctx).fenced cmd = false
  ∧ tabGet [] (s.core c).queues (4 * u + cmd.ctx) = cmd :: rest
  ∧ ∀ x, x < 4 → x ≠ cmd.ctx → tabGet [] (s.core c).queues (4 * u + x) = []

/-- Unit u of core c has taken the command: it has left its queue, its context was served last, and the unit takes no other in
the cycle. -/
def Sys2Proof.Claims.Takes (s : State) (i : Instr) (c u : Nat) (cmd : Cmd) (rest : List Cmd) (p : State → Prop) : Prop :=
  ∃ t, exec i s = .next t ∧ tabGet [] (t.core c).queues (4 * u + cmd.ctx) = rest ∧ u ∈ (t.core c).accepted
    ∧ tabGet 3 (t.core c).served u = cmd.ctx ∧ p t

/-- R157, R159, R160, R187, R202, R403, R408, R413, R439, R440: what each unit makes of the command that it takes. -/
def Sys2Proof.Claims.UnitsAccept : Prop := ∀ (s : State) (c u : Nat),
  let i : Instr := .engineCommandAccept c u
  (u ∈ (s.core c).accepted → exec i s = .next s)
  ∧ ∀ cmd rest, Heads s c u cmd rest →
    (u = 0 → (s.core c).ce = none → (∀ p ∈ (s.core c).ceResume, p.2 = none) → s.ceReady cmd = true →
      let runs (stage : CeStage) (wait : Nat) : Prop := Takes s i c u cmd rest (fun t => ∃ r, (t.core c).ce = some r
        ∧ r.cmd = cmd ∧ r.stage = stage ∧ r.wait = wait ∧ r.tick = 0 ∧ r.discarded = false)
      (∀ a b, cmd.op = .cld a b ∨ cmd.op = .cst a b → runs .tick 1)
      ∧ (∀ w, cmd.op = .mzero w → runs .tail ((regM w + 3) / 4))
      ∧ (∀ w, cmd.op = .cprog w ∨ cmd.op = .cflow w ∨ cmd.op = .cskew w → runs .tail 1))
    ∧ (u = 0 → (s.core c).ce ≠ none → exec i s = .next s)
    ∧ (u = 1 → (s.core c).me = none → (∀ p ∈ (s.core c).meResume, p.2 = none) → s.pushOrdered cmd = true →
        s.fmtAhead cmd = false → s.fencedOff cmd = false → tabGet false (s.core c).masPoison (regRow cmd.op.region) = false →
        Takes s i c u cmd rest (fun t => ∃ r, (t.core c).me = some r ∧ r.cmd = cmd ∧ r.row = 0 ∧ r.lines = 0 ∧ r.poison = []
          ∧ r.entry = tabGet 0 (s.ctx c cmd.ctx).fmt (cmd.op.fmtIx.getD 0)
          ∧ r.words = (rangeFrom (256 * regRow cmd.op.region + regCol cmd.op.region) (regN cmd.op.region)).map
              (tabGet 0 (s.core c).mas)))
    ∧ (u = 1 → (s.core c).me ≠ none → exec i s = .next s)
    ∧ (∀ ch, ch < 8 → u = 2 + ch → s.cpReady c ch cmd = true → cmd.op.descs = none →
        Takes s i c u cmd rest (fun t => tabGet 0 (t.core c).tnext ch = tabGet 0 (s.core c).tnext ch + 1
          ∧ (∀ n, cmd.op.fillTile = some n → (t.tile c n).state = .filling)
          ∧ ∃ x, tabGet [] (t.core c).buffers ch = tabGet [] (s.core c).buffers ch ++ [x] ∧ x.cmd = cmd
            ∧ x.id = tabGet 0 (s.core c).tnext ch ∧ x.accepted = s.cycle ∧ x.moved = 0 ∧ x.begun = false ∧ x.stage = .waiting
            ∧ x.teff.toNat = max cmd.op.time.toNat s.cycle.toNat))
    ∧ (u = 10 → tabGet [] (s.core c).buffers 8 = [] → (∀ n, cmd.op.fillTile = some n → (s.tile c n).state = .empty) →
        Takes s i c u cmd rest (fun t => (∀ n, cmd.op.fillTile = some n → (t.tile c n).state = .filling)
          ∧ ∃ x, tabGet [] (t.core c).buffers 8 = [x] ∧ x.cmd = cmd ∧ x.moved = 0 ∧ x.stage = .waiting))
    ∧ (u = 10 → tabGet [] (s.core c).buffers 8 ≠ [] → exec i s = .next s)
    ∧ (∀ src done v, u = 11 → cmd.op = .chPost src done v → s.pushOrdered cmd = true → s.fencedOff cmd = false →
        let n := chanNo v
        let e := s.chan n
        e.kind ≠ 3 → (e.credit = 0 → exec i s = .next s)
        ∧ (e.credit ≠ 0 → e.peer ≠ s.fabid → (∀ die, s.routeNone die e.peer = false) →
          Takes s i c u cmd rest (fun t => (t.chan n).credit = e.credit - 1
            ∧ ∃ o, t.out = s.out ++ [o] ∧ o.kind = .element n cmd.serial ∧ o.op.dst = e.peer ∧ o.op.data = s.sRead src.toNat e.elemBytes)))
    ∧ (∀ dst reg v, u = 11 → cmd.op = .chWait dst reg v → s.pushOrdered cmd = true →
        let n := chanNo v
        let e := s.chan n
        e.kind ≠ 3 → (e.rtail = e.rhead → exec i s = .next s)
        ∧ (e.rtail ≠ e.rhead → e.peer ≠ s.fabid → (∀ die, s.routeNone die e.peer = false) →
          s.anyTagged dst.toNat e.elemBytes = false →
          Takes s i c u cmd rest (fun t => (t.chan n).rhead = e.rhead + 1
            ∧ t.sRead dst.toNat e.elemBytes = s.sRead (e.buf.toNat + e.rhead.toNat % max 1 e.depth.toNat * e.elemBytes) e.elemBytes
            ∧ (∀ l ∈ (t.ctx c cmd.ctx).late, l.kind ≠ .engine cmd.serial)
            ∧ ∃ o, t.out = s.out ++ [o] ∧ o.kind = .credit n ∧ o.op.dst = e.peer)))
    ∧ (∀ g z v, u = 13 → cmd.op = .tileDecl g z v →
        let n := v.toNat % 256
        let busy : Prop := (s.tile c n).state = .filling ∨ (s.tile c n).state = .draining
        (busy → exec i s = .next s)
        ∧ (¬ busy → Takes s i c u cmd rest (fun t => (∀ m, m ≠ n → t.tile c m = s.tile c m)
          ∧ (t.tile c n).base = g.extractLsb' 0 23 ∧ (t.tile c n).pitch = g.extractLsb' 32 20
          ∧ (t.tile c n).rows = z.extractLsb' 0 12 ∧ (t.tile c n).rbytes = z.extractLsb' 16 16
          ∧ (t.tile c n).v = true ∧ (t.tile c n).sub = false ∧ (t.tile c n).epoch = 0
          ∧ (t.tile c n).state = if v.getLsbD 8 then .ready else .empty)))
    ∧ (∀ w ix, u = 14 → cmd.op = .fmtWr w ix →
        (s.fmtReader cmd (ix.toNat % 16) = true → exec i s = .next s)
        ∧ (s.fmtReader cmd (ix.toNat % 16) = false → Takes s i c u cmd rest (fun t =>
            ∀ k, tabGet 0 (t.ctx c cmd.ctx).fmt k
              = if k = ix.toNat % 16 then w &&& 0xFFFFFFFF0EFFFF80 else tabGet 0 (s.ctx c cmd.ctx).fmt k)))

/-- R420, R421: a piece of a `copy` within S-space moves the next 4 KiB of it, and nothing else. -/
def Sys2Proof.Claims.CopyPiecesMove : Prop := ∀ (s : State) (die e c ch : Nat) (x : Xfer) (src dst ctl time : Dword),
  s.pickXfer die = some (c, ch, x) → s.xfer c ch x.id = some x → s.logFull (.copyEngine die e) = false →
  x.cmd.op = .copy src dst ctl time → ctlSsp ctl = 0 → ctlDsp ctl = 0 → x.stage = .waiting → x.buffer = [] → x.wrote = 0 →
  x.moved < copyLen ctl →
  let n := min 4096 (copyLen ctl - x.moved)
  let from_ := src.toNat + x.moved
  let onto := dst.toNat + x.moved
  from_ + n ≤ 2 ^ 30 → onto + n ≤ 2 ^ 30 → s.anyTagged onto n = false →
  ∃ t, exec (.copyPiece die e) s = .next t ∧ t.sRead onto n = s.sRead from_ n
    ∧ (∀ b, b < onto ∨ onto + n ≤ b → t.sRead b 1 = s.sRead b 1) ∧ t.hbm = s.hbm
    ∧ ∃ y, t.xfer c ch x.id = some y ∧ y.moved = x.moved + n ∧ y.begun = true
      ∧ (y.stage = .finished ↔ copyLen ctl ≤ x.moved + n)

/-- R105, R138, R157, R160, R161, R200-R202, R252, R253, R400-R413, R420, R432, R433: what the units of a core and the engines of a
die do as they come to it; what acceptance and a piece of a copy leave is said field by field. That an operation of the array or
an epilogue runs past a boundary of R253 while a command waits behind it (in the terms `ceAccept`, `meAccept`, `resumes` and
`canSave`) is the model's reading (log 81). -/
def Obligations.EnginesProceed : Prop :=
  UnitsAccept ∧ CopyPiecesMove ∧
  (∀ (s : State) (c u : Nat),
    exec (.engineCommandAccept c 0) s = .next (s.ceAccept c) ∧ exec (.engineCommandAccept c 1) s = .next (s.meAccept c)
    ∧ exec (.engineCommandAccept c 10) s = .next (s.gaAccept c) ∧ exec (.engineCommandAccept c 11) s = .next (s.coAccept c)
    ∧ exec (.engineCommandAccept c 13) s = .next (s.ttAccept c) ∧ exec (.engineCommandAccept c 14) s = .next (s.ftAccept c)
    ∧ (2 ≤ u → u ≤ 9 → exec (.engineCommandAccept c u) s = .next (match s.nextCmd c u (s.cpReady c (u - 2)) with
        | some cmd => s.cpAccept cmd
        | none => s))
    ∧ (u = 12 ∨ 15 ≤ u → exec (.engineCommandAccept c u) s = .next s)
    ∧ (∀ ok cmd, s.nextCmd c u ok = some cmd → u ∉ (s.core c).accepted ∧ ok cmd = true
        ∧ ∃ x, x < 4 ∧ (tabGet [] (s.core c).queues (4 * u + x)).head? = some cmd))
  ∧ (∀ (s : State) (c ch : Nat) (id : BitVec 32),
    (s.xfer c ch id = none → exec (.copyEligible c ch id) s = .next s ∧ exec (.copyComplete c ch id) s = .next s)
    ∧ ∀ x, s.xfer c ch id = some x →
      let read := s.fetchDescs (dieOf c) x
      let u := read.1.putXfer c ch read.2
      let due : Prop := x.teff.toNat ≤ s.cycle.toNat
        ∧ ∀ y ∈ beforeId (tabGet [] (u.core c).buffers ch) id, x.teff.toNat < y.teff.toNat ∨ y.begun = true ∨ y.stage = .finished
      (due → exec (.copyEligible c ch id) s = .next (u.modXfer c ch id (fun x => { x with eligible := true })))
      ∧ (¬ due → exec (.copyEligible c ch id) s = .next u)
      ∧ (x.stage ≠ .finished → exec (.copyComplete c ch id) s = .next s)
      ∧ (x.stage = .finished → exec (.copyComplete c ch id) s = .next (s.copyComplete c ch x)))
  ∧ (∀ (s : State) (die e : Nat),
    (s.pickXfer die = none → exec (.copyPiece die e) s = .next s)
    ∧ ∀ c ch x, s.pickXfer die = some (c, ch, x) →
      (s.logFull (.copyEngine die e) = false →
        let p := (s.modXfer c ch x.id (fun x => { x with begun := true })).piece die e x
        exec (.copyPiece die e) s = .next (p.1.putXfer c ch p.2))
      ∧ (s.logFull (.copyEngine die e) = true → (∃ n, n < 16 ∧ s.logFull (.copyEngine die n) = false) →
        exec (.copyPiece die e) s = .next s)
      ∧ ((∀ n, n < 16 → s.logFull (.copyEngine die n) = true) → e < 16 →
        exec (.copyPiece die e) s = .next ((s.tellFull x x.nextVa).1.putXfer c ch (s.tellFull x x.nextVa).2)))
  ∧ (∀ (s : State) (c : Nat),
    ((s.core c).ce = none → exec (.arrayPassDue c) s = .next s ∧ exec (.kChunkDrain c) s = .next s ∧ exec (.ceCommandDuePoint c) s = .next s)
    ∧ ((s.core c).me = none → exec (.epilogueComplete c) s = .next s)
    ∧ ∀ r, (s.core c).ce = some r →
      (r.isArray = false ∨ r.stage ≠ .due → exec (.arrayPassDue c) s = .next s)
      ∧ (r.isArray = true → r.stage = .due →
        let o := s.passOut r
        let u := ((s.modCtx c r.cmd.ctx (fun cx => cx.raiseFlags (gridFlags o.grid))).modCore c
          (fun k => { k with cells := cellsOf o.grid })).masWrite c r.cmd.ctx r.geo (r.geo.results o)
        (r.geo.passes ≤ r.pass + 1 → exec (.arrayPassDue c) s = .next (u.ceDone r))
        ∧ (r.pass + 1 < r.geo.passes → (s.core c).saving = none →
            exec (.arrayPassDue c) s = .next (u.beginPass { r with pass := r.pass + 1, done := 0 }))
        ∧ (r.pass + 1 < r.geo.passes → (s.core c).saving ≠ none →
            exec (.arrayPassDue c) s = .next (u.modCore c (fun k => { k with
              ce := none, ceResume := tabSet none k.ceResume r.cmd.ctx (some { r with pass := r.pass + 1, done := 0 }) }))))
      ∧ ((s.core c).saving = none ∨ r.atChunk = false → exec (.kChunkDrain c) s = .next s)
      ∧ ((s.core c).saving ≠ none → r.atChunk = true → ∃ t, exec (.kChunkDrain c) s = .next t ∧ (t.core c).ce = none
        ∧ tabGet none (t.core c).ceResume r.cmd.ctx = some { r with done := r.chunkSteps }
        ∧ (t.core c).cells = cellsOf (r.geo.run r (some (r.chunkSteps - 1)) r.tick 0 { grid := gridOf (s.core c) r, caps := [] }).grid)
      ∧ (r.isArray = true ∨ r.stage ≠ .due → exec (.ceCommandDuePoint c) s = .next s)
      ∧ (r.isArray = false → r.stage = .due →
        (∀ a b, r.cmd.op = .cld a b ∨ r.cmd.op = .cst a b → exec (.ceCommandDuePoint c) s = .next (s.ceDone r))
        ∧ (∀ w, r.cmd.op = .cflow w → exec (.ceCommandDuePoint c) s = .next ((s.setUcode c (cflowWords (s.core c).ucodeWords w)).ceDone r))
        ∧ (∀ w, r.cmd.op = .cskew w → exec (.ceCommandDuePoint c) s = .next ((s.setUcode c (cskewWords (s.core c).ucodeWords w)).ceDone r))
        ∧ (∀ w, r.cmd.op = .mzero w → exec (.ceCommandDuePoint c) s = .next ((s.masZero c r.cmd.ctx w).ceDone r))
        ∧ (∀ a, r.cmd.op = .cprog a → exec (.ceCommandDuePoint c) s
            = .next (((s.consumeReads c r.cmd.ctx [(a.toNat, 256)]).setUcode c
                ((rangeFrom 0 8).map (fun i => BitVec.ofNat 32 (leNat (s.sRead (a.toNat + 4 * i) 4))))).ceDone r))))
  ∧ (∀ (s : State) (c : Nat) (r : MeRun), (s.core c).me = some r →
    (r.row < regM r.cmd.op.region → exec (.epilogueComplete c) s = .next s)
    ∧ (regM r.cmd.op.region ≤ r.row → exec (.epilogueComplete c) s = .next ((s.modCore c (fun k => { k with me := none })).retireRows r.cmd)))
  ∧ (∀ (s : State) (c : Nat),
    let cands := (allCtxs.filterMap (s.gHead c)).filter (fun m => (s.core c).gReady.contains m.serial)
    (cands = [] → exec (.mstartGBegin c) s = .next s)
    ∧ ∀ cmd rest hs, cands = cmd :: rest → s.gangHeads cmd = some hs →
      let all := hs.all (fun h => (s.core h.core).ce.isNone && !(s.core h.core).accepted.contains 0 && (s.core h.core).gReady.contains h.serial)
      exec (.mstartGBegin c) s = .next (if all then hs.foldl State.ceBegin s else s))
  ∧ (∀ (s : State) (c n : Nat),
    let t := s.tile c n
    ((s.core c).rings.find? (fun r => r.ring == n) = none → exec (.loaderFillBegin c n) s = .next s)
    ∧ (∀ r, (s.core c).rings.find? (fun r => r.ring == n) = some r → r.heldVa = none → r.hostWait = none → r.ready = true →
        r.filling = none → r.ended = false → r.fills * r.size < descBytes r.ldDesc →
        (s.tile c r.nextTile).state = .empty → (s.tile c r.nextTile).inRing r = true →
        ∃ u, exec (.loaderFillBegin c n) s = .next u ∧ (u.tile c r.nextTile).state = .filling ∧ { u with cores := s.cores } = s)
    ∧ (∀ r, (s.core c).rings.find? (fun r => r.ring == n) = some r → r.heldVa = none → r.hostWait = none → r.ready = true →
        r.filling = none → r.ended = true ∨ descBytes r.ldDesc ≤ r.fills * r.size →
        ∃ u, exec (.loaderFillBegin c n) s = .next u ∧ { u with cores := s.cores } = s
          ∧ ∀ t, u.tile c t = if t ∈ (rangeFrom r.first r.count).map (· % 256) ∧ (s.tile c t).state = .empty ∧ (s.tile c t).inRing r = true
            then { s.tile c t with sub := false } else s.tile c t)
    ∧ ((s.core c).rings.find? (fun r => r.filling == some n) = none → exec (.tileFillComplete c n) s = .next s)
    ∧ (∀ r, (s.core c).rings.find? (fun r => r.filling == some n) = some r → r.heldVa = none → r.hostWait = none →
        let p := State.fillMove c n (t.bytes + 2) s r
        exec (.tileFillComplete c n) s = .next (if p.2.2 then
          (p.1.modRing c r.ring (fun _ => { p.2.1 with filling := none })).modTile c n (fun t => { t with state := .ready, epoch := t.epoch + 1 })
          else p.1.modRing c r.ring (fun _ => p.2.1)))
    ∧ (t.state ≠ .draining → exec (.storerDrainComplete c n) s = .next s)
    ∧ (t.state = .draining → (s.core c).rings.find? (fun r => r.wb && (tabGet none r.pos n).isSome) = none →
        exec (.storerDrainComplete c n) s = .next ((s.modTile c n (fun t => { t with state := .empty })).sendRecord
          { causeRecord causeTileBounds c 0 0 with aux := BitVec.ofNat 8 n }))
    ∧ (∀ r, t.state = .draining → (s.core c).rings.find? (fun r => r.wb && (tabGet none r.pos n).isSome) = some r →
        (r.heldVa ≠ none ∨ r.hostWait ≠ none → exec (.storerDrainComplete c n) s = .next s)
        ∧ (r.heldVa = none → r.hostWait = none →
          let e := (tabGet none r.pos n).getD 0
          let done := tabGet 0 r.drained n
          let at_ := descByte r.stDesc (e * t.bytes + done)
          let p := State.drainMove c n e (t.bytes + 2) s r
          (p.2.2 = true → exec (.storerDrainComplete c n) s = .next ((p.1.modRing c r.ring (fun _ => { p.2.1 with
              pos := tabSet none p.2.1.pos n none, drained := tabSet 0 p.2.1.drained n 0 })).modTile c n
                (fun t => { t with state := .empty })))
          ∧ (p.2.2 = false → exec (.storerDrainComplete c n) s = .next (p.1.modRing c r.ring (fun _ => p.2.1)))
          ∧ (t.bytes ≤ done ∨ descBytes r.stDesc ≤ e * t.bytes + done → p = (s, r, true))
          ∧ (∀ u, done < t.bytes → e * t.bytes + done < descBytes r.stDesc → t.bytes - done ≤ at_.2 →
              s.writeSide (s.loaderOf c r) true at_.1 (s.readTile c t done (t.bytes - done)) (s.tilePoison c t done (t.bytes - done))
                = .done u → p.1 = u ∧ p.2.2 = true)))
    ∧ ((∀ q ∈ (s.core c).tileRels, q.1 ≠ n) ∨ (s.core c).tileUse.any (fun p => p.1 == n) = true →
        exec (.tileReleaseEffect c n) s = .next s)
    ∧ (∀ before cmd behind, (s.core c).tileRels = before ++ (n, cmd) :: behind → (s.core c).tileUse.any (fun p => p.1 == n) = false →
        (∀ q ∈ before, q.1 = n → 8 * cmd.ctx + cmd.relSlot < 8 * q.2.ctx + q.2.relSlot) →
        (∀ q ∈ behind, q.1 = n → 8 * cmd.ctx + cmd.relSlot ≤ 8 * q.2.ctx + q.2.relSlot) →
        let u := (s.modCore c (fun k => { k with
          tileRels := k.tileRels.filter (fun p => !(p.1 == n && p.2.serial == cmd.serial)) })).retireCmd cmd
        (t.state = .ready → exec (.tileReleaseEffect c n) s = .next (u.modTile c n
            (fun e => { e with state := if e.wb then .draining else .empty })))
        ∧ (t.state ≠ .ready → exec (.tileReleaseEffect c n) s = .next (u.pendCause c cmd.ctx causeTileBounds
            (trapInfoWord (some cmd.relSlot) 6 (c * 0x800000 + t.base.toNat))))))
  ∧ (∀ (s : State) (c : Nat), ((s.core c).saving = none → exec (.imageSaveComplete c) s = .next s)
    ∧ ∀ v, (s.core c).saving = some v →
      let v' : Saving := { v with live := allCtxs.foldl (fun (m : BitVec 4) x =>
        if s.affected c x then m else m &&& ~~~ ((1 : BitVec 4) <<< x)) v.live }
      exec (.imageSaveComplete c) s = .next (if v'.live = 0 then s.leaveCore c v'
        else if s.canSave c v' && !s.rangeHeld v'.area.toNat imageSize then s.saveImage c v' else s))
  ∧ (∀ (s : State) (c : Nat) (areas : List (Nat × BitVec 64)),
    let named (k : Nat) : Dword := tabGet 0 areas k
    (s.session.state ≠ .opened → exec (.sillPreemptionRequest c areas) s = .next s)
    ∧ (∀ st, s.saveStatus none c (some ((rangeFrom 0 128).map named)) = .inl st →
        exec (.sillPreemptionRequest c areas) s = .next s)
    ∧ ∀ cs, s.session.state = .opened → s.saveStatus none c (some ((rangeFrom 0 128).map named)) = .inr cs →
        exec (.sillPreemptionRequest c areas) s = .next (s.requestPreempt cs named))
  ∧ ∀ (s : State) (die : Nat) (va : BitVec 64),
    let mine (w : Walk) : Bool := w.die == die && w.va.toNat / 0x10000 == va.toNat / 0x10000
    (s.walks.find? mine = none → exec (.tlbWalk die va) s = .next s)
    ∧ (∀ w, s.walks.find? mine = some w → s.walkHeld w.va.toNat = true → exec (.tlbWalk die va) s = .next s)
    ∧ ∀ w, s.walks.find? mine = some w → s.walkHeld w.va.toNat = false →
      let v : State := { s with walks := s.walks.filter (fun w => !mine w) }
      let u := match w.core with
        | some c => v.sample c 0x09 (s.cycle - w.asked).toNat
        | none => v
      (∀ level e, u.walk w.va.toNat = some (level, e) → exec (.tlbWalk die va) s
        = .next (if u.walkStale w then u else u.tlbInsert die w.va.toNat level e))
      ∧ (u.walk w.va.toNat = none → exec (.tlbWalk die va) s = .next { u with walkMiss := u.walkMiss ++ [(die, w.va)] })

/-! ## The fabric -/

/-- R142, R145, R168-R170, R216, R269-R280, R420, R424-R427, R439-R441, R463-R469, R474: arrivals of remote operations and of flits, and
flits that leave. -/
def Obligations.FabricOperationsAct : Prop :=
  (∀ (s : State) (n : Nat) (q : RemoteOp), s.inbox[n]? = some q → isStreamOp q = true →
      s.portStalled (if streamDie q = 0 then 0 else 16) = false →
      let d := (q.seq - tabGet 0 s.expected (commitKey q)).toNat
      let gone := without s n
      exec (.streamArrival n) s = .next (s.judgeArrival n q)
      ∧ (q.stream ≠ 0 → 128 ≤ d → d < 2 ^ 23 → s.judgeArrival n q = gone.refuse q)
      ∧ (q.stream ≠ 0 → 0 < d → d ≤ 127 → (∀ h ∈ s.window, ¬ (h.sameStream q = true ∧ h.seq = q.seq)) →
          s.judgeArrival n q = if (s.window.filter (fun h => h.stream == q.stream)).length < 128 then
            { gone with window := s.window ++ [q] } else gone.refuse q)
      ∧ (∀ h, q.stream ≠ 0 → 0 < d → d ≤ 127 → h ∈ s.window → h.sameStream q = true → h.seq = q.seq → s.judgeArrival n q = gone)
      ∧ (q.stream ≠ 0 → 2 ^ 23 ≤ d →
          let open_ : Prop := (∃ e ∈ s.sideLogs, e.arrival = some q) ∨ ∃ r ∈ s.hostPending, r.who.writes q = true
          (open_ → s.judgeArrival n q = gone) ∧ (¬ open_ → s.judgeArrival n q = gone.respond opAck 0 q []))
      ∧ (∀ u, q.stream ≠ 0 → d = 0 → gone.commitOp q = .done u → s.judgeArrival n q = State.commitHeld q 128 (u.raiseExpected q))
      ∧ (∀ u, q.stream = 0 → gone.commitOp q = .done u → s.judgeArrival n q = u))
  ∧ (∀ (s : State) (n : Nat), ((∀ q, s.inbox[n]? = some q → isStreamOp q = false) → exec (.streamArrival n) s = .next s)
    ∧ (s.out[n]? = none → exec (.refusedResend n) s = .next s ∧ exec (.operationUnreachable n) s = .next s)
    ∧ ∀ o, s.out[n]? = some o →
      (∀ t, o.stage = .refused t → s.cycle.toNat < t.toNat → exec (.refusedResend n) s = .next s)
      ∧ (∀ t, o.stage = .refused t → State.behind (s.out.take n) o = true → exec (.refusedResend n) s = .next s)
      ∧ (∀ t, o.stage = .refused t → t.toNat ≤ s.cycle.toNat → State.behind (s.out.take n) o = false →
          exec (.refusedResend n) s = .next (if o.op.dst = s.fabid then
              { s with out := s.out.set n { o with stage := .sent }, inbox := s.inbox ++ [o.op] }
            else { s with out := s.out.set n { o with stage := .port 0 } }))
      ∧ ((∀ t, o.stage ≠ .refused t) → exec (.refusedResend n) s = .next s)
      ∧ (o.firstSent = none → exec (.operationUnreachable n) s = .next s)
      ∧ (∀ t, o.firstSent = some t → o.kind ≠ .response → t.toNat + 150000000 ≤ s.cycle.toNat →
          exec (.operationUnreachable n) s = .next ((s.dropOut o).failOut o))
      ∧ (∀ t, o.firstSent = some t → s.cycle.toNat < t.toNat + 150000000 → exec (.operationUnreachable n) s = .next s))
  ∧ Arrives .commitAcknowledgement (fun q => q.op == opAck) (fun s n q => match (without s n).answered q with
      | none => without s n
      | some o =>
        let u := (without s n).dropOut o
        if q.rop == ropFailed then u.failOut o else match o.kind with
          | .channel ch id => u.commitAcked o ch id q.data q.poison
          | .element _ serial => u.modCtx o.core o.ctx (fun cx =>
              let live := cx.live.filter (fun l => l.1 != serial)
              { cx with live := live, fences := cx.fences.filter (fun f => live.any (fun l => l.1 < f.serial)) })
          | _ => u)
  ∧ Arrives .readData (fun q => q.op == opReadData) (fun s n q => match (without s n).answered q with
      | none => without s n
      | some o =>
        let u := (without s n).dropOut o
        if q.rop == ropFailed then u.failOut o else match o.kind with
          | .read ch id => u.readBack o ch id q.data q.poison
          | _ => u)
  ∧ Arrives .readRequest (fun q => q.op == opReadReq) (fun s n q =>
      if s.hostPending.any (fun r => r.who == .arrival q) then s
      else
        let got : List Byte × List Nat := ((s.readGot.find? (fun g => g.1 == q)).map (·.2)).getD ([], [])
        let kept (w : State) (g : List Byte × List Nat) : State :=
          { w with readGot := w.readGot.filter (fun g => g.1 != q) ++ (if g.1.isEmpty then [] else [(q, g)]) }
        let finished (w : State) : State := { without w n with readGot := w.readGot.filter (fun g => g.1 != q) }
        if 2 ^ 52 < q.vaddr.toNat + q.auxop.toNat then (finished s).failArrival q
        else match s.readPieces q (readRest q got.1.length) got.1 got.2 with
          | (.data u bs p, _, _) => (finished u).respond opReadData 0 q bs p
          | (.fails _ _, _, _) => (finished s).failArrival q
          | (.host w a, g) => (kept s g).sendHost (.arrival q) w.qp (some (BitVec.ofNat 64 (q.vaddr.toNat + g.1.length)))
              (.rdmaRead w.qp w.key a (((readRest q g.1.length).head?.map (·.2)).getD 0))
          | (.waits u, _, _) => u
          | (.held u, g) => { without (kept u g) n with
              heldReads := s.heldReads ++ [(q, BitVec.ofNat 64 (q.vaddr.toNat + g.1.length))] }
          | (.full _, _, _) => s)
  ∧ Arrives .channelElement RemoteOp.isElement (fun s n q =>
      match (without s n).mirror 2 q with
      | some e => ((without s n).elementIn e q).respond opAck 0 q []
      | none => (without s n).refuse q)
  ∧ Arrives .channelCredit (fun q => q.op == opWrite && q.rop == ropCredit && q.stream == 0) (fun s n q =>
      match (without s n).mirror 1 q with
      | some e => ((without s n).creditIn e).respond opAck 0 q []
      | none => (without s n).refuse q)
  ∧ (∀ (s : State) (n : Nat) (q : RemoteOp), s.inbox[n]? = some q → q.op = opCollective →
    let u := without s n
    let j := q.auxop.toNat % 2048
    let e := u.chan j
    let from_ := q.vaddr.toNat % 2048
    let k := bits q.tag.toNat 58 48
    let c := u.chan k
    let again := u.respond opAck 0 q []
    (q.rop = ropSetup → exec (.collectiveContribution n) s = .next s)
    ∧ (q.rop ≠ ropSetup → exec (.setupContribution n) s = .next s)
    ∧ (q.rop = ropSetup → e.kind ≠ 3 ∨ q.src ≠ e.prev → exec (.setupContribution n) s = .next (u.refuse q))
    ∧ (q.rop = ropSetup → e.kind = 3 → q.src = e.prev → from_ = s.fabid.toNat →
        (e.setup = true → exec (.setupContribution n) s
          = .next ((u.modChan j (fun e => { e with ownBack := true, setupTags := e.setupTags ++ [q.tag] }.settle)).respond opAck 0 q []))
        ∧ (e.setup = false → e.ownBack = true ∨ e.broken = true → exec (.setupContribution n) s = .next again)
        ∧ (e.setup = false → e.ownBack = false → e.broken = false → exec (.setupContribution n) s = .next (u.refuse q)))
    ∧ (q.rop = ropSetup → e.kind = 3 → q.src = e.prev → from_ ≠ s.fabid.toNat →
        (from_ ∈ e.origins → e.setup = true ∨ q.tag ∈ e.setupTags → exec (.setupContribution n) s = .next again)
        ∧ (from_ ∉ e.origins ∨ q.tag ∉ e.setupTags → e.setup = false → exec (.setupContribution n) s = .next (u.refuse q))
        ∧ (from_ ∉ e.origins → e.setup = true → exec (.setupContribution n) s
          = .next (((((u.modChan j (fun e => { e with origins := e.origins ++ [from_], setupTags := e.setupTags ++ [q.tag] })).sendSetup j (BitVec.ofNat 11 from_)).modChan j
              Chan.settle).respond opAck 0 q []))))
    ∧ (q.rop ≠ ropSetup → c.kind ≠ 3 ∨ q.src ≠ c.prev ∨ c.setup = true → exec (.collectiveContribution n) s = .next (u.refuse q))
    ∧ (q.rop ≠ ropSetup → c.kind = 3 → q.src = c.prev → c.setup = false →
        let ahead := (q.auxop.extractLsb' 0 24 - c.seq).toNat
        let t := bits q.tag.toNat 47 32
        let i := bits q.tag.toNat 31 0
        let past : Prop := 2 ^ 23 ≤ ahead ∨ (ahead = 0 ∧ (t < c.step.toNat ∨ (t = c.step.toNat ∧ i ∈ c.bitmap)))
        let early : Prop := 0 < ahead ∨ c.step.toNat < t ∨ c.running = none
        let addr := c.chunkAddr ((c.position + c.members * (t + 2) - 1 - t) % c.members) i
        let own := u.sRead addr c.chunk.toNat
        (past → exec (.collectiveContribution n) s = .next again)
        ∧ (¬ past → early → exec (.collectiveContribution n) s = .next (u.refuse q))
        ∧ (¬ past → ¬ early → exec (.collectiveContribution n) s = .next ((((u.sMove c.lcore.toNat addr
            (if t < c.members - 1 then reduceBytes c.op.toNat c.type.toNat own.length q.data own else q.data)
            (if t < c.members - 1 then elemPlaces (elemBytes c.op.toNat c.type.toNat) own.length (q.poison ++ u.poisonMap addr own.length)
              else q.poison)).modChan k
              (fun e => { e with bitmap := i :: e.bitmap })).ringStep k).respond opAck 0 q []))))
  ∧ (∀ e : Chan,
    (e.ownBack = true → e.settle = { e with setup := false, broken := e.broken || (e.members - 1) != e.origins.length })
    ∧ (e.ownBack = false → e.settle = if e.members - 1 < e.origins.length then { e with setup := false, broken := true } else e))
  ∧ Receives .ack kAck (fun n f _ u => u.acked n (hLseq f.header))
  ∧ Receives .idleFlit kIdle (fun n _ _ u => u.modLink n (fun l => { l with
      retryReq := if l.asked.isSome then some l.rxSeq else l.retryReq }))
  ∧ Receives .creditFlit kCredit (fun n f bs u => u.modLink n (fun l => { l with
      spent := tabSet 0 l.spent (hVc f.header).toNat (tabGet 0 l.spent (hVc f.header).toNat - fieldAt bs 0 2) }))
  ∧ Receives .keymark kKeymark (Sequenced (fun n f _ u =>
      u.modLink n (fun l => l.modSlot (!hKs f.header) (fun k => { k with rxOpen := false }))))
  ∧ Receives .drainFlit kDrain (Sequenced (fun n _ _ u => (u.modLink n (fun l => { l with
      peerDrained := true, state := if l.state = .up then .draining else l.state })).judgeDark n))
  ∧ Receives .dataFlit kData (Sequenced (fun n f bs u =>
      let h := f.header
      let o := segRead bs (hSrc h) (hDst h)
      if hDst h = u.fabid then
        let p := u.gatherFlit o
        p.1.oweCredit n (hVc h) p.2
      else
        let p := u.passFlit o
        ({ p.1 with transit := p.1.transit ++ p.1.routed n [{
            kind := BitVec.ofNat 8 kData, vc := if isGlobal n then vcUp (hVc h) else hVc h, dst := hDst h, src := hSrc h, lseq := 0
            hops := hHops h + 1, len := BitVec.ofNat 8 bs.length, payload := bs, resend := false }] } : State).oweCredit n (hVc h) p.2))
  ∧ Receives .retryreq kRetry (fun n f _ u =>
      let v := u.acked n (hLseq f.header - 1)
      let l := v.link n
      let asked := match l.retryBuf with
        | f :: _ => f.sent && !f.resend
        | [] => false
      if l.retryBuf = [] then v
      else if asked = true ∧ 16 ≤ l.rounds then v.linkDown n
      else (rangeFrom 0 l.retryBuf.length).foldl (fun v _ => v.sendDue n) (v.modLink n (fun l => { l with
        rounds := if asked then l.rounds + 1 else l.rounds, retryBuf := l.retryBuf.map (fun f => { f with resend := true }) })))
  ∧ (∀ (s : State) (n : Nat) (f : Flit), s.accepts n f = true →
      let k := (s.link n).slot (hKs f.header)
      k.rxOpen = true ∧ k.rxic.toNat ≤ (hIc f.header).toNat ∧ verifyFlit k f = true
      ∧ ((s.link n).state ≠ .training → ((s.accepted n f).link n).state = (s.link n).state
          ∧ (((s.accepted n f).link n).slot (hKs f.header)).rxic = hIc f.header + 1
          ∧ ((s.accepted n f).link n).flitRx = (s.link n).flitRx + 1)
      ∧ ((s.link n).state = .training → ((s.accepted n f).link n).state = .up))
  ∧ (∀ (s : State) (n : Nat) (f : Flit),
    let hears : Prop := hKind f.header = kHello ∧ (s.link n).state = .training ∧ f.tag = 0
    (hears → exec (.hello n f) s = .next (s.modLink n (fun l => { l with
        peer := hSrc f.header, peerLink := (hLseq f.header).extractLsb' 0 6, flitRx := l.flitRx + 1, lastArrival := s.cycle })))
    ∧ (¬ hears → exec (.hello n f) s = .next s)
    ∧ (8 ≤ hKind f.header → (s.link n).listens = true → exec (.unknownFlit n f) s
        = .next (failedFlit n f s))
    ∧ (hKind f.header < 8 ∨ (s.link n).listens = false → exec (.unknownFlit n f) s = .next s)
    ∧ (carrying s n → exec (.linkLockLoss n) s = .next (s.linkDown n))
    ∧ (¬ carrying s n → exec (.linkLockLoss n) s = .next s ∧ exec (.linkSilenceTimeout n) s = .next s)
    ∧ (carrying s n → exec (.linkSilenceTimeout n) s
        = .next (if (s.link n).lastArrival.toNat + 6000 ≤ s.cycle.toNat then s.linkDown n else s)))
  ∧ (∀ (s : State) (n : Nat),
    let open_ (f : RetryFlit) : Bool := (s.nextHops (linkDie n) f.dst).contains n && s.dataOpen n f.vc
    (∀ f, s.transit.find? open_ = some f → exec (.dataFlitSend n) s
        = .next (({ s with transit := s.transit.erase f } : State).sendData n f))
    ∧ ((∀ f ∈ s.transit, open_ f = false) →
      let goes (i : Nat) : Prop := s.portReady n i = true ∧ s.dataOpen n (s.portVc i) = true
      ((∀ i, i < s.out.length → ¬ goes i) → exec (.dataFlitSend n) s = .next s)
      ∧ ∀ i o k, s.out[i]? = some o → o.stage = .port k → goes i → (∀ j, j < i → ¬ goes j) →
          let o' (st : OutStage) : Out := { o with stage := st, link := some n, firstSent := some (o.firstSent.getD s.cycle) }
          let on (os : List Out) : State := ({ s with out := os } : State).sendData n (opFlit o.op k (vcOf o.op.op))
          (k + 1 < flitCount o.op.data.length → exec (.dataFlitSend n) s = .next (on (s.out.set i (o' (.port (k + 1))))))
          ∧ (flitCount o.op.data.length ≤ k + 1 → o.kind ≠ .response → exec (.dataFlitSend n) s = .next (on (s.out.set i (o' .sent))))
          ∧ (flitCount o.op.data.length ≤ k + 1 → o.kind = .response → exec (.dataFlitSend n) s = .next (on (s.out.eraseIdx i)))))
  ∧ ∀ (s : State) (n : Nat),
    let l := s.link n
    (s.cycle.toNat < l.lastSent.toNat + 1024 → exec (.idleFlitSend n) s = .next s)
    ∧ (l.lastSent.toNat + 1024 ≤ s.cycle.toNat →
      let waits : Prop := 0 < l.dueCount ∨ l.ackDue = true ∨ l.retryReq ≠ none ∨ l.creditDue ≠ [] ∨ l.switchDue = true
        ∨ (∃ f ∈ s.transit, (s.nextHops (linkDie n) f.dst).contains n = true) ∨ ∃ i, i < s.out.length ∧ s.portReady n i = true
      (l.state = .up → waits ∨ l.sendSlot = none → exec (.idleFlitSend n) s = .next s)
      ∧ (l.state = .up → ¬ waits → l.sendSlot ≠ none → exec (.idleFlitSend n) s = .next (s.emit n (ctlFlit kIdle 0 0 [])))
      ∧ (l.state = .training → exec (.idleFlitSend n) s = .next (if ((s.emitHello n).link n).sendSlot.isSome then
          (s.emitHello n).emit n (ctlFlit kIdle 0 0 []) else s.emitHello n))
      ∧ (l.state ≠ .up → l.state ≠ .training → exec (.idleFlitSend n) s = .next s))
end

