-- ==== Sys2Proof/Laws/State.lean ====
section
/-!
SUPPORT. What the named updates of the state leave as it stands: one lemma for each field and update.
-/

namespace Sys2Proof.Machine

/-! ## Cores and contexts -/

@[simp] theorem State.setCore_cycle (s : State) (c : Nat) (k : Core) : (s.setCore c k).cycle = s.cycle := rfl
@[simp] theorem State.setCore_fabid (s : State) (c : Nat) (k : Core) : (s.setCore c k).fabid = s.fabid := rfl
@[simp] theorem State.setCore_codeva (s : State) (c : Nat) (k : Core) : (s.setCore c k).codeva = s.codeva := rfl
@[simp] theorem State.setCore_sspace (s : State) (c : Nat) (k : Core) : (s.setCore c k).sspace = s.sspace := rfl
@[simp] theorem State.setCore_tags (s : State) (c : Nat) (k : Core) : (s.setCore c k).tags = s.tags := rfl
@[simp] theorem State.setCore_dirty (s : State) (c : Nat) (k : Core) : (s.setCore c k).dirty = s.dirty := rfl
@[simp] theorem State.setCore_poison (s : State) (c : Nat) (k : Core) : (s.setCore c k).poison = s.poison := rfl
@[simp] theorem State.setCore_hbm (s : State) (c : Nat) (k : Core) : (s.setCore c k).hbm = s.hbm := rfl
@[simp] theorem State.setCore_hbmPoison (s : State) (c : Nat) (k : Core) : (s.setCore c k).hbmPoison = s.hbmPoison := rfl
@[simp] theorem State.setCore_regions (s : State) (c : Nat) (k : Core) : (s.setCore c k).regions = s.regions := rfl
@[simp] theorem State.setCore_queues (s : State) (c : Nat) (k : Core) : (s.setCore c k).queues = s.queues := rfl
@[simp] theorem State.setCore_pushes (s : State) (c : Nat) (k : Core) : (s.setCore c k).pushes = s.pushes := rfl
@[simp] theorem State.setCore_spills (s : State) (c : Nat) (k : Core) : (s.setCore c k).spills = s.spills := rfl
@[simp] theorem State.setCore_chans (s : State) (c : Nat) (k : Core) : (s.setCore c k).chans = s.chans := rfl
@[simp] theorem State.setCore_tlb (s : State) (c : Nat) (k : Core) : (s.setCore c k).tlb = s.tlb := rfl
@[simp] theorem State.setCore_tlbBig (s : State) (c : Nat) (k : Core) : (s.setCore c k).tlbBig = s.tlbBig := rfl
@[simp] theorem State.setCore_sideLogs (s : State) (c : Nat) (k : Core) : (s.setCore c k).sideLogs = s.sideLogs := rfl
@[simp] theorem State.setCore_faults (s : State) (c : Nat) (k : Core) : (s.setCore c k).faults = s.faults := rfl
@[simp] theorem State.setCore_walks (s : State) (c : Nat) (k : Core) : (s.setCore c k).walks = s.walks := rfl
@[simp] theorem State.setCore_walkMiss (s : State) (c : Nat) (k : Core) : (s.setCore c k).walkMiss = s.walkMiss := rfl
@[simp] theorem State.setCore_routes (s : State) (c : Nat) (k : Core) : (s.setCore c k).routes = s.routes := rfl
@[simp] theorem State.setCore_links (s : State) (c : Nat) (k : Core) : (s.setCore c k).links = s.links := rfl
@[simp] theorem State.setCore_svc (s : State) (c : Nat) (k : Core) : (s.setCore c k).svc = s.svc := rfl
@[simp] theorem State.setCore_out (s : State) (c : Nat) (k : Core) : (s.setCore c k).out = s.out := rfl
@[simp] theorem State.setCore_inbox (s : State) (c : Nat) (k : Core) : (s.setCore c k).inbox = s.inbox := rfl
@[simp] theorem State.setCore_gather (s : State) (c : Nat) (k : Core) : (s.setCore c k).gather = s.gather := rfl
@[simp] theorem State.setCore_passing (s : State) (c : Nat) (k : Core) : (s.setCore c k).passing = s.passing := rfl
@[simp] theorem State.setCore_transit (s : State) (c : Nat) (k : Core) : (s.setCore c k).transit = s.transit := rfl
@[simp] theorem State.setCore_heldReads (s : State) (c : Nat) (k : Core) : (s.setCore c k).heldReads = s.heldReads := rfl
@[simp] theorem State.setCore_readGot (s : State) (c : Nat) (k : Core) : (s.setCore c k).readGot = s.readGot := rfl
@[simp] theorem State.setCore_portParts (s : State) (c : Nat) (k : Core) : (s.setCore c k).portParts = s.portParts := rfl
@[simp] theorem State.setCore_portTold (s : State) (c : Nat) (k : Core) : (s.setCore c k).portTold = s.portTold := rfl
@[simp] theorem State.setCore_window (s : State) (c : Nat) (k : Core) : (s.setCore c k).window = s.window := rfl
@[simp] theorem State.setCore_expected (s : State) (c : Nat) (k : Core) : (s.setCore c k).expected = s.expected := rfl
@[simp] theorem State.setCore_ceHbm (s : State) (c : Nat) (k : Core) : (s.setCore c k).ceHbm = s.ceHbm := rfl
@[simp] theorem State.setCore_ueHbm (s : State) (c : Nat) (k : Core) : (s.setCore c k).ueHbm = s.ueHbm := rfl
@[simp] theorem State.setCore_session (s : State) (c : Nat) (k : Core) : (s.setCore c k).session = s.session := rfl
@[simp] theorem State.setCore_dhseq (s : State) (c : Nat) (k : Core) : (s.setCore c k).dhseq = s.dhseq := rfl
@[simp] theorem State.setCore_kernel (s : State) (c : Nat) (k : Core) : (s.setCore c k).kernel = s.kernel := rfl
@[simp] theorem State.setCore_launching (s : State) (c : Nat) (k : Core) : (s.setCore c k).launching = s.launching := rfl
@[simp] theorem State.setCore_owed (s : State) (c : Nat) (k : Core) : (s.setCore c k).owed = s.owed := rfl
@[simp] theorem State.setCore_tasks (s : State) (c : Nat) (k : Core) : (s.setCore c k).tasks = s.tasks := rfl
@[simp] theorem State.setCore_steps (s : State) (c : Nat) (k : Core) : (s.setCore c k).steps = s.steps := rfl
@[simp] theorem State.setCore_bins (s : State) (c : Nat) (k : Core) : (s.setCore c k).bins = s.bins := rfl
@[simp] theorem State.setCore_binAt (s : State) (c : Nat) (k : Core) : (s.setCore c k).binAt = s.binAt := rfl
@[simp] theorem State.setCore_nextId (s : State) (c : Nat) (k : Core) : (s.setCore c k).nextId = s.nextId := rfl
@[simp] theorem State.setCore_reserved (s : State) (c : Nat) (k : Core) : (s.setCore c k).reserved = s.reserved := rfl
@[simp] theorem State.setCore_placedDies (s : State) (c : Nat) (k : Core) : (s.setCore c k).placedDies = s.placedDies := rfl
@[simp] theorem State.setCore_pollAt (s : State) (c : Nat) (k : Core) : (s.setCore c k).pollAt = s.pollAt := rfl
@[simp] theorem State.setCore_inSamples (s : State) (c : Nat) (k : Core) : (s.setCore c k).inSamples = s.inSamples := rfl
@[simp] theorem State.setCore_sill (s : State) (c : Nat) (k : Core) : (s.setCore c k).sill = s.sill := rfl
@[simp] theorem State.setCore_hostOut (s : State) (c : Nat) (k : Core) : (s.setCore c k).hostOut = s.hostOut := rfl
@[simp] theorem State.setCore_hostPending (s : State) (c : Nat) (k : Core) : (s.setCore c k).hostPending = s.hostPending := rfl
@[simp] theorem State.setCore_hostSeq (s : State) (c : Nat) (k : Core) : (s.setCore c k).hostSeq = s.hostSeq := rfl
@[simp] theorem State.setCore_hostData (s : State) (c : Nat) (k : Core) : (s.setCore c k).hostData = s.hostData := rfl
@[simp] theorem State.setCore_hostIn (s : State) (c : Nat) (k : Core) : (s.setCore c k).hostIn = s.hostIn := rfl
@[simp] theorem State.setCore_heldWrites (s : State) (c : Nat) (k : Core) : (s.setCore c k).heldWrites = s.heldWrites := rfl
@[simp] theorem State.setCore_qpError (s : State) (c : Nat) (k : Core) : (s.setCore c k).qpError = s.qpError := rfl
@[simp] theorem State.setCore_qps (s : State) (c : Nat) (k : Core) : (s.setCore c k).qps = s.qps := rfl
@[simp] theorem State.setCore_mgmtOut (s : State) (c : Nat) (k : Core) : (s.setCore c k).mgmtOut = s.mgmtOut := rfl
@[simp] theorem State.setCore_wireOut (s : State) (c : Nat) (k : Core) : (s.setCore c k).wireOut = s.wireOut := rfl
@[simp] theorem State.setCore_turn (s : State) (c : Nat) (k : Core) : (s.setCore c k).turn = s.turn := rfl
@[simp] theorem State.setCore_agenda (s : State) (c : Nat) (k : Core) : (s.setCore c k).agenda = s.agenda := rfl
@[simp] theorem State.setCore_fresh (s : State) (c : Nat) (k : Core) : (s.setCore c k).fresh = s.fresh := rfl

@[simp] theorem State.modCore_cycle (s : State) (c : Nat) (f : Core → Core) : (s.modCore c f).cycle = s.cycle := rfl
@[simp] theorem State.modCore_fabid (s : State) (c : Nat) (f : Core → Core) : (s.modCore c f).fabid = s.fabid := rfl
@[simp] theorem State.modCore_codeva (s : State) (c : Nat) (f : Core → Core) : (s.modCore c f).codeva = s.codeva := rfl
@[simp] theorem State.modCore_sspace (s : State) (c : Nat) (f : Core → Core) : (s.modCore c f).sspace = s.sspace := rfl
@[simp] theorem State.modCore_tags (s : State) (c : Nat) (f : Core → Core) : (s.modCore c f).tags = s.tags := rfl
@[simp] theorem State.modCore_dirty (s : State) (c : Nat) (f : Core → Core) : (s.modCore c f).dirty = s.dirty := rfl
@[simp] theorem State.modCore_poison (s : State) (c : Nat) (f : Core → Core) : (s.modCore c f).poison = s.poison := rfl
@[simp] theorem State.modCore_hbm (s : State) (c : Nat) (f : Core → Core) : (s.modCore c f).hbm = s.hbm := rfl
@[simp] theorem State.modCore_hbmPoison (s : State) (c : Nat) (f : Core → Core) : (s.modCore c f).hbmPoison = s.hbmPoison := rfl
@[simp] theorem State.modCore_regions (s : State) (c : Nat) (f : Core → Core) : (s.modCore c f).regions = s.regions := rfl
@[simp] theorem State.modCore_queues (s : State) (c : Nat) (f : Core → Core) : (s.modCore c f).queues = s.queues := rfl
@[simp] theorem State.modCore_pushes (s : State) (c : Nat) (f : Core → Core) : (s.modCore c f).pushes = s.pushes := rfl
@[simp] theorem State.modCore_spills (s : State) (c : Nat) (f : Core → Core) : (s.modCore c f).spills = s.spills := rfl
@[simp] theorem State.modCore_chans (s : State) (c : Nat) (f : Core → Core) : (s.modCore c f).chans = s.chans := rfl
@[simp] theorem State.modCore_tlb (s : State) (c : Nat) (f : Core → Core) : (s.modCore c f).tlb = s.tlb := rfl
@[simp] theorem State.modCore_tlbBig (s : State) (c : Nat) (f : Core → Core) : (s.modCore c f).tlbBig = s.tlbBig := rfl
@[simp] theorem State.modCore_sideLogs (s : State) (c : Nat) (f : Core → Core) : (s.modCore c f).sideLogs = s.sideLogs := rfl
@[simp] theorem State.modCore_faults (s : State) (c : Nat) (f : Core → Core) : (s.modCore c f).faults = s.faults := rfl
@[simp] theorem State.modCore_walks (s : State) (c : Nat) (f : Core → Core) : (s.modCore c f).walks = s.walks := rfl
@[simp] theorem State.modCore_walkMiss (s : State) (c : Nat) (f : Core → Core) : (s.modCore c f).walkMiss = s.walkMiss := rfl
@[simp] theorem State.modCore_routes (s : State) (c : Nat) (f : Core → Core) : (s.modCore c f).routes = s.routes := rfl
@[simp] theorem State.modCore_links (s : State) (c : Nat) (f : Core → Core) : (s.modCore c f).links = s.links := rfl
@[simp] theorem State.modCore_svc (s : State) (c : Nat) (f : Core → Core) : (s.modCore c f).svc = s.svc := rfl
@[simp] theorem State.modCore_out (s : State) (c : Nat) (f : Core → Core) : (s.modCore c f).out = s.out := rfl
@[simp] theorem State.modCore_inbox (s : State) (c : Nat) (f : Core → Core) : (s.modCore c f).inbox = s.inbox := rfl
@[simp] theorem State.modCore_gather (s : State) (c : Nat) (f : Core → Core) : (s.modCore c f).gather = s.gather := rfl
@[simp] theorem State.modCore_passing (s : State) (c : Nat) (f : Core → Core) : (s.modCore c f).passing = s.passing := rfl
@[simp] theorem State.modCore_transit (s : State) (c : Nat) (f : Core → Core) : (s.modCore c f).transit = s.transit := rfl
@[simp] theorem State.modCore_heldReads (s : State) (c : Nat) (f : Core → Core) : (s.modCore c f).heldReads = s.heldReads := rfl
@[simp] theorem State.modCore_readGot (s : State) (c : Nat) (f : Core → Core) : (s.modCore c f).readGot = s.readGot := rfl
@[simp] theorem State.modCore_portParts (s : State) (c : Nat) (f : Core → Core) : (s.modCore c f).portParts = s.portParts := rfl
@[simp] theorem State.modCore_portTold (s : State) (c : Nat) (f : Core → Core) : (s.modCore c f).portTold = s.portTold := rfl
@[simp] theorem State.modCore_window (s : State) (c : Nat) (f : Core → Core) : (s.modCore c f).window = s.window := rfl
@[simp] theorem State.modCore_expected (s : State) (c : Nat) (f : Core → Core) : (s.modCore c f).expected = s.expected := rfl
@[simp] theorem State.modCore_ceHbm (s : State) (c : Nat) (f : Core → Core) : (s.modCore c f).ceHbm = s.ceHbm := rfl
@[simp] theorem State.modCore_ueHbm (s : State) (c : Nat) (f : Core → Core) : (s.modCore c f).ueHbm = s.ueHbm := rfl
@[simp] theorem State.modCore_session (s : State) (c : Nat) (f : Core → Core) : (s.modCore c f).session = s.session := rfl
@[simp] theorem State.modCore_dhseq (s : State) (c : Nat) (f : Core → Core) : (s.modCore c f).dhseq = s.dhseq := rfl
@[simp] theorem State.modCore_kernel (s : State) (c : Nat) (f : Core → Core) : (s.modCore c f).kernel = s.kernel := rfl
@[simp] theorem State.modCore_launching (s : State) (c : Nat) (f : Core → Core) : (s.modCore c f).launching = s.launching := rfl
@[simp] theorem State.modCore_owed (s : State) (c : Nat) (f : Core → Core) : (s.modCore c f).owed = s.owed := rfl
@[simp] theorem State.modCore_tasks (s : State) (c : Nat) (f : Core → Core) : (s.modCore c f).tasks = s.tasks := rfl
@[simp] theorem State.modCore_steps (s : State) (c : Nat) (f : Core → Core) : (s.modCore c f).steps = s.steps := rfl
@[simp] theorem State.modCore_bins (s : State) (c : Nat) (f : Core → Core) : (s.modCore c f).bins = s.bins := rfl
@[simp] theorem State.modCore_binAt (s : State) (c : Nat) (f : Core → Core) : (s.modCore c f).binAt = s.binAt := rfl
@[simp] theorem State.modCore_nextId (s : State) (c : Nat) (f : Core → Core) : (s.modCore c f).nextId = s.nextId := rfl
@[simp] theorem State.modCore_reserved (s : State) (c : Nat) (f : Core → Core) : (s.modCore c f).reserved = s.reserved := rfl
@[simp] theorem State.modCore_placedDies (s : State) (c : Nat) (f : Core → Core) : (s.modCore c f).placedDies = s.placedDies := rfl
@[simp] theorem State.modCore_pollAt (s : State) (c : Nat) (f : Core → Core) : (s.modCore c f).pollAt = s.pollAt := rfl
@[simp] theorem State.modCore_inSamples (s : State) (c : Nat) (f : Core → Core) : (s.modCore c f).inSamples = s.inSamples := rfl
@[simp] theorem State.modCore_sill (s : State) (c : Nat) (f : Core → Core) : (s.modCore c f).sill = s.sill := rfl
@[simp] theorem State.modCore_hostOut (s : State) (c : Nat) (f : Core → Core) : (s.modCore c f).hostOut = s.hostOut := rfl
@[simp] theorem State.modCore_hostPending (s : State) (c : Nat) (f : Core → Core) : (s.modCore c f).hostPending = s.hostPending := rfl
@[simp] theorem State.modCore_hostSeq (s : State) (c : Nat) (f : Core → Core) : (s.modCore c f).hostSeq = s.hostSeq := rfl
@[simp] theorem State.modCore_hostData (s : State) (c : Nat) (f : Core → Core) : (s.modCore c f).hostData = s.hostData := rfl
@[simp] theorem State.modCore_hostIn (s : State) (c : Nat) (f : Core → Core) : (s.modCore c f).hostIn = s.hostIn := rfl
@[simp] theorem State.modCore_heldWrites (s : State) (c : Nat) (f : Core → Core) : (s.modCore c f).heldWrites = s.heldWrites := rfl
@[simp] theorem State.modCore_qpError (s : State) (c : Nat) (f : Core → Core) : (s.modCore c f).qpError = s.qpError := rfl
@[simp] theorem State.modCore_qps (s : State) (c : Nat) (f : Core → Core) : (s.modCore c f).qps = s.qps := rfl
@[simp] theorem State.modCore_mgmtOut (s : State) (c : Nat) (f : Core → Core) : (s.modCore c f).mgmtOut = s.mgmtOut := rfl
@[simp] theorem State.modCore_wireOut (s : State) (c : Nat) (f : Core → Core) : (s.modCore c f).wireOut = s.wireOut := rfl
@[simp] theorem State.modCore_turn (s : State) (c : Nat) (f : Core → Core) : (s.modCore c f).turn = s.turn := rfl
@[simp] theorem State.modCore_agenda (s : State) (c : Nat) (f : Core → Core) : (s.modCore c f).agenda = s.agenda := rfl
@[simp] theorem State.modCore_fresh (s : State) (c : Nat) (f : Core → Core) : (s.modCore c f).fresh = s.fresh := rfl

@[simp] theorem State.modCtx_cycle (s : State) (c x : Nat) (f : Ctx → Ctx) : (s.modCtx c x f).cycle = s.cycle := rfl
@[simp] theorem State.modCtx_fabid (s : State) (c x : Nat) (f : Ctx → Ctx) : (s.modCtx c x f).fabid = s.fabid := rfl
@[simp] theorem State.modCtx_codeva (s : State) (c x : Nat) (f : Ctx → Ctx) : (s.modCtx c x f).codeva = s.codeva := rfl
@[simp] theorem State.modCtx_sspace (s : State) (c x : Nat) (f : Ctx → Ctx) : (s.modCtx c x f).sspace = s.sspace := rfl
@[simp] theorem State.modCtx_tags (s : State) (c x : Nat) (f : Ctx → Ctx) : (s.modCtx c x f).tags = s.tags := rfl
@[simp] theorem State.modCtx_dirty (s : State) (c x : Nat) (f : Ctx → Ctx) : (s.modCtx c x f).dirty = s.dirty := rfl
@[simp] theorem State.modCtx_poison (s : State) (c x : Nat) (f : Ctx → Ctx) : (s.modCtx c x f).poison = s.poison := rfl
@[simp] theorem State.modCtx_hbm (s : State) (c x : Nat) (f : Ctx → Ctx) : (s.modCtx c x f).hbm = s.hbm := rfl
@[simp] theorem State.modCtx_hbmPoison (s : State) (c x : Nat) (f : Ctx → Ctx) : (s.modCtx c x f).hbmPoison = s.hbmPoison := rfl
@[simp] theorem State.modCtx_regions (s : State) (c x : Nat) (f : Ctx → Ctx) : (s.modCtx c x f).regions = s.regions := rfl
@[simp] theorem State.modCtx_queues (s : State) (c x : Nat) (f : Ctx → Ctx) : (s.modCtx c x f).queues = s.queues := rfl
@[simp] theorem State.modCtx_pushes (s : State) (c x : Nat) (f : Ctx → Ctx) : (s.modCtx c x f).pushes = s.pushes := rfl
@[simp] theorem State.modCtx_spills (s : State) (c x : Nat) (f : Ctx → Ctx) : (s.modCtx c x f).spills = s.spills := rfl
@[simp] theorem State.modCtx_chans (s : State) (c x : Nat) (f : Ctx → Ctx) : (s.modCtx c x f).chans = s.chans := rfl
@[simp] theorem State.modCtx_tlb (s : State) (c x : Nat) (f : Ctx → Ctx) : (s.modCtx c x f).tlb = s.tlb := rfl
@[simp] theorem State.modCtx_tlbBig (s : State) (c x : Nat) (f : Ctx → Ctx) : (s.modCtx c x f).tlbBig = s.tlbBig := rfl
@[simp] theorem State.modCtx_sideLogs (s : State) (c x : Nat) (f : Ctx → Ctx) : (s.modCtx c x f).sideLogs = s.sideLogs := rfl
@[simp] theorem State.modCtx_faults (s : State) (c x : Nat) (f : Ctx → Ctx) : (s.modCtx c x f).faults = s.faults := rfl
@[simp] theorem State.modCtx_walks (s : State) (c x : Nat) (f : Ctx → Ctx) : (s.modCtx c x f).walks = s.walks := rfl
@[simp] theorem State.modCtx_walkMiss (s : State) (c x : Nat) (f : Ctx → Ctx) : (s.modCtx c x f).walkMiss = s.walkMiss := rfl
@[simp] theorem State.modCtx_routes (s : State) (c x : Nat) (f : Ctx → Ctx) : (s.modCtx c x f).routes = s.routes := rfl
@[simp] theorem State.modCtx_links (s : State) (c x : Nat) (f : Ctx → Ctx) : (s.modCtx c x f).links = s.links := rfl
@[simp] theorem State.modCtx_svc (s : State) (c x : Nat) (f : Ctx → Ctx) : (s.modCtx c x f).svc = s.svc := rfl
@[simp] theorem State.modCtx_out (s : State) (c x : Nat) (f : Ctx → Ctx) : (s.modCtx c x f).out = s.out := rfl
@[simp] theorem State.modCtx_inbox (s : State) (c x : Nat) (f : Ctx → Ctx) : (s.modCtx c x f).inbox = s.inbox := rfl
@[simp] theorem State.modCtx_gather (s : State) (c x : Nat) (f : Ctx → Ctx) : (s.modCtx c x f).gather = s.gather := rfl
@[simp] theorem State.modCtx_passing (s : State) (c x : Nat) (f : Ctx → Ctx) : (s.modCtx c x f).passing = s.passing := rfl
@[simp] theorem State.modCtx_transit (s : State) (c x : Nat) (f : Ctx → Ctx) : (s.modCtx c x f).transit = s.transit := rfl
@[simp] theorem State.modCtx_heldReads (s : State) (c x : Nat) (f : Ctx → Ctx) : (s.modCtx c x f).heldReads = s.heldReads := rfl
@[simp] theorem State.modCtx_readGot (s : State) (c x : Nat) (f : Ctx → Ctx) : (s.modCtx c x f).readGot = s.readGot := rfl
@[simp] theorem State.modCtx_portParts (s : State) (c x : Nat) (f : Ctx → Ctx) : (s.modCtx c x f).portParts = s.portParts := rfl
@[simp] theorem State.modCtx_portTold (s : State) (c x : Nat) (f : Ctx → Ctx) : (s.modCtx c x f).portTold = s.portTold := rfl
@[simp] theorem State.modCtx_window (s : State) (c x : Nat) (f : Ctx → Ctx) : (s.modCtx c x f).window = s.window := rfl
@[simp] theorem State.modCtx_expected (s : State) (c x : Nat) (f : Ctx → Ctx) : (s.modCtx c x f).expected = s.expected := rfl
@[simp] theorem State.modCtx_ceHbm (s : State) (c x : Nat) (f : Ctx → Ctx) : (s.modCtx c x f).ceHbm = s.ceHbm := rfl
@[simp] theorem State.modCtx_ueHbm (s : State) (c x : Nat) (f : Ctx → Ctx) : (s.modCtx c x f).ueHbm = s.ueHbm := rfl
@[simp] theorem State.modCtx_session (s : State) (c x : Nat) (f : Ctx → Ctx) : (s.modCtx c x f).session = s.session := rfl
@[simp] theorem State.modCtx_dhseq (s : State) (c x : Nat) (f : Ctx → Ctx) : (s.modCtx c x f).dhseq = s.dhseq := rfl
@[simp] theorem State.modCtx_kernel (s : State) (c x : Nat) (f : Ctx → Ctx) : (s.modCtx c x f).kernel = s.kernel := rfl
@[simp] theorem State.modCtx_launching (s : State) (c x : Nat) (f : Ctx → Ctx) : (s.modCtx c x f).launching = s.launching := rfl
@[simp] theorem State.modCtx_owed (s : State) (c x : Nat) (f : Ctx → Ctx) : (s.modCtx c x f).owed = s.owed := rfl
@[simp] theorem State.modCtx_tasks (s : State) (c x : Nat) (f : Ctx → Ctx) : (s.modCtx c x f).tasks = s.tasks := rfl
@[simp] theorem State.modCtx_steps (s : State) (c x : Nat) (f : Ctx → Ctx) : (s.modCtx c x f).steps = s.steps := rfl
@[simp] theorem State.modCtx_bins (s : State) (c x : Nat) (f : Ctx → Ctx) : (s.modCtx c x f).bins = s.bins := rfl
@[simp] theorem State.modCtx_binAt (s : State) (c x : Nat) (f : Ctx → Ctx) : (s.modCtx c x f).binAt = s.binAt := rfl
@[simp] theorem State.modCtx_nextId (s : State) (c x : Nat) (f : Ctx → Ctx) : (s.modCtx c x f).nextId = s.nextId := rfl
@[simp] theorem State.modCtx_reserved (s : State) (c x : Nat) (f : Ctx → Ctx) : (s.modCtx c x f).reserved = s.reserved := rfl
@[simp] theorem State.modCtx_placedDies (s : State) (c x : Nat) (f : Ctx → Ctx) : (s.modCtx c x f).placedDies = s.placedDies := rfl
@[simp] theorem State.modCtx_pollAt (s : State) (c x : Nat) (f : Ctx → Ctx) : (s.modCtx c x f).pollAt = s.pollAt := rfl
@[simp] theorem State.modCtx_inSamples (s : State) (c x : Nat) (f : Ctx → Ctx) : (s.modCtx c x f).inSamples = s.inSamples := rfl
@[simp] theorem State.modCtx_sill (s : State) (c x : Nat) (f : Ctx → Ctx) : (s.modCtx c x f).sill = s.sill := rfl
@[simp] theorem State.modCtx_hostOut (s : State) (c x : Nat) (f : Ctx → Ctx) : (s.modCtx c x f).hostOut = s.hostOut := rfl
@[simp] theorem State.modCtx_hostPending (s : State) (c x : Nat) (f : Ctx → Ctx) : (s.modCtx c x f).hostPending = s.hostPending := rfl
@[simp] theorem State.modCtx_hostSeq (s : State) (c x : Nat) (f : Ctx → Ctx) : (s.modCtx c x f).hostSeq = s.hostSeq := rfl
@[simp] theorem State.modCtx_hostData (s : State) (c x : Nat) (f : Ctx → Ctx) : (s.modCtx c x f).hostData = s.hostData := rfl
@[simp] theorem State.modCtx_hostIn (s : State) (c x : Nat) (f : Ctx → Ctx) : (s.modCtx c x f).hostIn = s.hostIn := rfl
@[simp] theorem State.modCtx_heldWrites (s : State) (c x : Nat) (f : Ctx → Ctx) : (s.modCtx c x f).heldWrites = s.heldWrites := rfl
@[simp] theorem State.modCtx_qpError (s : State) (c x : Nat) (f : Ctx → Ctx) : (s.modCtx c x f).qpError = s.qpError := rfl
@[simp] theorem State.modCtx_qps (s : State) (c x : Nat) (f : Ctx → Ctx) : (s.modCtx c x f).qps = s.qps := rfl
@[simp] theorem State.modCtx_mgmtOut (s : State) (c x : Nat) (f : Ctx → Ctx) : (s.modCtx c x f).mgmtOut = s.mgmtOut := rfl
@[simp] theorem State.modCtx_wireOut (s : State) (c x : Nat) (f : Ctx → Ctx) : (s.modCtx c x f).wireOut = s.wireOut := rfl
@[simp] theorem State.modCtx_turn (s : State) (c x : Nat) (f : Ctx → Ctx) : (s.modCtx c x f).turn = s.turn := rfl
@[simp] theorem State.modCtx_agenda (s : State) (c x : Nat) (f : Ctx → Ctx) : (s.modCtx c x f).agenda = s.agenda := rfl
@[simp] theorem State.modCtx_fresh (s : State) (c x : Nat) (f : Ctx → Ctx) : (s.modCtx c x f).fresh = s.fresh := rfl

@[simp] theorem State.event_cycle (s : State) (c code n : Nat) : (s.event c code n).cycle = s.cycle := rfl
@[simp] theorem State.event_fabid (s : State) (c code n : Nat) : (s.event c code n).fabid = s.fabid := rfl
@[simp] theorem State.event_codeva (s : State) (c code n : Nat) : (s.event c code n).codeva = s.codeva := rfl
@[simp] theorem State.event_sspace (s : State) (c code n : Nat) : (s.event c code n).sspace = s.sspace := rfl
@[simp] theorem State.event_tags (s : State) (c code n : Nat) : (s.event c code n).tags = s.tags := rfl
@[simp] theorem State.event_dirty (s : State) (c code n : Nat) : (s.event c code n).dirty = s.dirty := rfl
@[simp] theorem State.event_poison (s : State) (c code n : Nat) : (s.event c code n).poison = s.poison := rfl
@[simp] theorem State.event_hbm (s : State) (c code n : Nat) : (s.event c code n).hbm = s.hbm := rfl
@[simp] theorem State.event_hbmPoison (s : State) (c code n : Nat) : (s.event c code n).hbmPoison = s.hbmPoison := rfl
@[simp] theorem State.event_regions (s : State) (c code n : Nat) : (s.event c code n).regions = s.regions := rfl
@[simp] theorem State.event_queues (s : State) (c code n : Nat) : (s.event c code n).queues = s.queues := rfl
@[simp] theorem State.event_pushes (s : State) (c code n : Nat) : (s.event c code n).pushes = s.pushes := rfl
@[simp] theorem State.event_spills (s : State) (c code n : Nat) : (s.event c code n).spills = s.spills := rfl
@[simp] theorem State.event_chans (s : State) (c code n : Nat) : (s.event c code n).chans = s.chans := rfl
@[simp] theorem State.event_tlb (s : State) (c code n : Nat) : (s.event c code n).tlb = s.tlb := rfl
@[simp] theorem State.event_tlbBig (s : State) (c code n : Nat) : (s.event c code n).tlbBig = s.tlbBig := rfl
@[simp] theorem State.event_sideLogs (s : State) (c code n : Nat) : (s.event c code n).sideLogs = s.sideLogs := rfl
@[simp] theorem State.event_faults (s : State) (c code n : Nat) : (s.event c code n).faults = s.faults := rfl
@[simp] theorem State.event_walks (s : State) (c code n : Nat) : (s.event c code n).walks = s.walks := rfl
@[simp] theorem State.event_walkMiss (s : State) (c code n : Nat) : (s.event c code n).walkMiss = s.walkMiss := rfl
@[simp] theorem State.event_routes (s : State) (c code n : Nat) : (s.event c code n).routes = s.routes := rfl
@[simp] theorem State.event_links (s : State) (c code n : Nat) : (s.event c code n).links = s.links := rfl
@[simp] theorem State.event_svc (s : State) (c code n : Nat) : (s.event c code n).svc = s.svc := rfl
@[simp] theorem State.event_out (s : State) (c code n : Nat) : (s.event c code n).out = s.out := rfl
@[simp] theorem State.event_inbox (s : State) (c code n : Nat) : (s.event c code n).inbox = s.inbox := rfl
@[simp] theorem State.event_gather (s : State) (c code n : Nat) : (s.event c code n).gather = s.gather := rfl
@[simp] theorem State.event_passing (s : State) (c code n : Nat) : (s.event c code n).passing = s.passing := rfl
@[simp] theorem State.event_transit (s : State) (c code n : Nat) : (s.event c code n).transit = s.transit := rfl
@[simp] theorem State.event_heldReads (s : State) (c code n : Nat) : (s.event c code n).heldReads = s.heldReads := rfl
@[simp] theorem State.event_readGot (s : State) (c code n : Nat) : (s.event c code n).readGot = s.readGot := rfl
@[simp] theorem State.event_portParts (s : State) (c code n : Nat) : (s.event c code n).portParts = s.portParts := rfl
@[simp] theorem State.event_portTold (s : State) (c code n : Nat) : (s.event c code n).portTold = s.portTold := rfl
@[simp] theorem State.event_window (s : State) (c code n : Nat) : (s.event c code n).window = s.window := rfl
@[simp] theorem State.event_expected (s : State) (c code n : Nat) : (s.event c code n).expected = s.expected := rfl
@[simp] theorem State.event_ceHbm (s : State) (c code n : Nat) : (s.event c code n).ceHbm = s.ceHbm := rfl
@[simp] theorem State.event_ueHbm (s : State) (c code n : Nat) : (s.event c code n).ueHbm = s.ueHbm := rfl
@[simp] theorem State.event_session (s : State) (c code n : Nat) : (s.event c code n).session = s.session := rfl
@[simp] theorem State.event_dhseq (s : State) (c code n : Nat) : (s.event c code n).dhseq = s.dhseq := rfl
@[simp] theorem State.event_kernel (s : State) (c code n : Nat) : (s.event c code n).kernel = s.kernel := rfl
@[simp] theorem State.event_launching (s : State) (c code n : Nat) : (s.event c code n).launching = s.launching := rfl
@[simp] theorem State.event_owed (s : State) (c code n : Nat) : (s.event c code n).owed = s.owed := rfl
@[simp] theorem State.event_tasks (s : State) (c code n : Nat) : (s.event c code n).tasks = s.tasks := rfl
@[simp] theorem State.event_steps (s : State) (c code n : Nat) : (s.event c code n).steps = s.steps := rfl
@[simp] theorem State.event_bins (s : State) (c code n : Nat) : (s.event c code n).bins = s.bins := rfl
@[simp] theorem State.event_binAt (s : State) (c code n : Nat) : (s.event c code n).binAt = s.binAt := rfl
@[simp] theorem State.event_nextId (s : State) (c code n : Nat) : (s.event c code n).nextId = s.nextId := rfl
@[simp] theorem State.event_reserved (s : State) (c code n : Nat) : (s.event c code n).reserved = s.reserved := rfl
@[simp] theorem State.event_placedDies (s : State) (c code n : Nat) : (s.event c code n).placedDies = s.placedDies := rfl
@[simp] theorem State.event_pollAt (s : State) (c code n : Nat) : (s.event c code n).pollAt = s.pollAt := rfl
@[simp] theorem State.event_inSamples (s : State) (c code n : Nat) : (s.event c code n).inSamples = s.inSamples := rfl
@[simp] theorem State.event_sill (s : State) (c code n : Nat) : (s.event c code n).sill = s.sill := rfl
@[simp] theorem State.event_hostOut (s : State) (c code n : Nat) : (s.event c code n).hostOut = s.hostOut := rfl
@[simp] theorem State.event_hostPending (s : State) (c code n : Nat) : (s.event c code n).hostPending = s.hostPending := rfl
@[simp] theorem State.event_hostSeq (s : State) (c code n : Nat) : (s.event c code n).hostSeq = s.hostSeq := rfl
@[simp] theorem State.event_hostData (s : State) (c code n : Nat) : (s.event c code n).hostData = s.hostData := rfl
@[simp] theorem State.event_hostIn (s : State) (c code n : Nat) : (s.event c code n).hostIn = s.hostIn := rfl
@[simp] theorem State.event_heldWrites (s : State) (c code n : Nat) : (s.event c code n).heldWrites = s.heldWrites := rfl
@[simp] theorem State.event_qpError (s : State) (c code n : Nat) : (s.event c code n).qpError = s.qpError := rfl
@[simp] theorem State.event_qps (s : State) (c code n : Nat) : (s.event c code n).qps = s.qps := rfl
@[simp] theorem State.event_mgmtOut (s : State) (c code n : Nat) : (s.event c code n).mgmtOut = s.mgmtOut := rfl
@[simp] theorem State.event_wireOut (s : State) (c code n : Nat) : (s.event c code n).wireOut = s.wireOut := rfl
@[simp] theorem State.event_turn (s : State) (c code n : Nat) : (s.event c code n).turn = s.turn := rfl
@[simp] theorem State.event_agenda (s : State) (c code n : Nat) : (s.event c code n).agenda = s.agenda := rfl
@[simp] theorem State.event_fresh (s : State) (c code n : Nat) : (s.event c code n).fresh = s.fresh := rfl

@[simp] theorem State.modStep_cycle (s : State) (i : Nat) (f : TileStep → TileStep) : (s.modStep i f).cycle = s.cycle := rfl
@[simp] theorem State.modStep_fabid (s : State) (i : Nat) (f : TileStep → TileStep) : (s.modStep i f).fabid = s.fabid := rfl
@[simp] theorem State.modStep_codeva (s : State) (i : Nat) (f : TileStep → TileStep) : (s.modStep i f).codeva = s.codeva := rfl
@[simp] theorem State.modStep_cores (s : State) (i : Nat) (f : TileStep → TileStep) : (s.modStep i f).cores = s.cores := rfl
@[simp] theorem State.modStep_sspace (s : State) (i : Nat) (f : TileStep → TileStep) : (s.modStep i f).sspace = s.sspace := rfl
@[simp] theorem State.modStep_tags (s : State) (i : Nat) (f : TileStep → TileStep) : (s.modStep i f).tags = s.tags := rfl
@[simp] theorem State.modStep_dirty (s : State) (i : Nat) (f : TileStep → TileStep) : (s.modStep i f).dirty = s.dirty := rfl
@[simp] theorem State.modStep_poison (s : State) (i : Nat) (f : TileStep → TileStep) : (s.modStep i f).poison = s.poison := rfl
@[simp] theorem State.modStep_hbm (s : State) (i : Nat) (f : TileStep → TileStep) : (s.modStep i f).hbm = s.hbm := rfl
@[simp] theorem State.modStep_hbmPoison (s : State) (i : Nat) (f : TileStep → TileStep) : (s.modStep i f).hbmPoison = s.hbmPoison := rfl
@[simp] theorem State.modStep_regions (s : State) (i : Nat) (f : TileStep → TileStep) : (s.modStep i f).regions = s.regions := rfl
@[simp] theorem State.modStep_queues (s : State) (i : Nat) (f : TileStep → TileStep) : (s.modStep i f).queues = s.queues := rfl
@[simp] theorem State.modStep_pushes (s : State) (i : Nat) (f : TileStep → TileStep) : (s.modStep i f).pushes = s.pushes := rfl
@[simp] theorem State.modStep_spills (s : State) (i : Nat) (f : TileStep → TileStep) : (s.modStep i f).spills = s.spills := rfl
@[simp] theorem State.modStep_chans (s : State) (i : Nat) (f : TileStep → TileStep) : (s.modStep i f).chans = s.chans := rfl
@[simp] theorem State.modStep_tlb (s : State) (i : Nat) (f : TileStep → TileStep) : (s.modStep i f).tlb = s.tlb := rfl
@[simp] theorem State.modStep_tlbBig (s : State) (i : Nat) (f : TileStep → TileStep) : (s.modStep i f).tlbBig = s.tlbBig := rfl
@[simp] theorem State.modStep_sideLogs (s : State) (i : Nat) (f : TileStep → TileStep) : (s.modStep i f).sideLogs = s.sideLogs := rfl
@[simp] theorem State.modStep_faults (s : State) (i : Nat) (f : TileStep → TileStep) : (s.modStep i f).faults = s.faults := rfl
@[simp] theorem State.modStep_walks (s : State) (i : Nat) (f : TileStep → TileStep) : (s.modStep i f).walks = s.walks := rfl
@[simp] theorem State.modStep_walkMiss (s : State) (i : Nat) (f : TileStep → TileStep) : (s.modStep i f).walkMiss = s.walkMiss := rfl
@[simp] theorem State.modStep_routes (s : State) (i : Nat) (f : TileStep → TileStep) : (s.modStep i f).routes = s.routes := rfl
@[simp] theorem State.modStep_links (s : State) (i : Nat) (f : TileStep → TileStep) : (s.modStep i f).links = s.links := rfl
@[simp] theorem State.modStep_svc (s : State) (i : Nat) (f : TileStep → TileStep) : (s.modStep i f).svc = s.svc := rfl
@[simp] theorem State.modStep_out (s : State) (i : Nat) (f : TileStep → TileStep) : (s.modStep i f).out = s.out := rfl
@[simp] theorem State.modStep_inbox (s : State) (i : Nat) (f : TileStep → TileStep) : (s.modStep i f).inbox = s.inbox := rfl
@[simp] theorem State.modStep_gather (s : State) (i : Nat) (f : TileStep → TileStep) : (s.modStep i f).gather = s.gather := rfl
@[simp] theorem State.modStep_passing (s : State) (i : Nat) (f : TileStep → TileStep) : (s.modStep i f).passing = s.passing := rfl
@[simp] theorem State.modStep_transit (s : State) (i : Nat) (f : TileStep → TileStep) : (s.modStep i f).transit = s.transit := rfl
@[simp] theorem State.modStep_heldReads (s : State) (i : Nat) (f : TileStep → TileStep) : (s.modStep i f).heldReads = s.heldReads := rfl
@[simp] theorem State.modStep_readGot (s : State) (i : Nat) (f : TileStep → TileStep) : (s.modStep i f).readGot = s.readGot := rfl
@[simp] theorem State.modStep_portParts (s : State) (i : Nat) (f : TileStep → TileStep) : (s.modStep i f).portParts = s.portParts := rfl
@[simp] theorem State.modStep_portTold (s : State) (i : Nat) (f : TileStep → TileStep) : (s.modStep i f).portTold = s.portTold := rfl
@[simp] theorem State.modStep_window (s : State) (i : Nat) (f : TileStep → TileStep) : (s.modStep i f).window = s.window := rfl
@[simp] theorem State.modStep_expected (s : State) (i : Nat) (f : TileStep → TileStep) : (s.modStep i f).expected = s.expected := rfl
@[simp] theorem State.modStep_ceHbm (s : State) (i : Nat) (f : TileStep → TileStep) : (s.modStep i f).ceHbm = s.ceHbm := rfl
@[simp] theorem State.modStep_ueHbm (s : State) (i : Nat) (f : TileStep → TileStep) : (s.modStep i f).ueHbm = s.ueHbm := rfl
@[simp] theorem State.modStep_session (s : State) (i : Nat) (f : TileStep → TileStep) : (s.modStep i f).session = s.session := rfl
@[simp] theorem State.modStep_dhseq (s : State) (i : Nat) (f : TileStep → TileStep) : (s.modStep i f).dhseq = s.dhseq := rfl
@[simp] theorem State.modStep_kernel (s : State) (i : Nat) (f : TileStep → TileStep) : (s.modStep i f).kernel = s.kernel := rfl
@[simp] theorem State.modStep_launching (s : State) (i : Nat) (f : TileStep → TileStep) : (s.modStep i f).launching = s.launching := rfl
@[simp] theorem State.modStep_owed (s : State) (i : Nat) (f : TileStep → TileStep) : (s.modStep i f).owed = s.owed := rfl
@[simp] theorem State.modStep_tasks (s : State) (i : Nat) (f : TileStep → TileStep) : (s.modStep i f).tasks = s.tasks := rfl
@[simp] theorem State.modStep_bins (s : State) (i : Nat) (f : TileStep → TileStep) : (s.modStep i f).bins = s.bins := rfl
@[simp] theorem State.modStep_binAt (s : State) (i : Nat) (f : TileStep → TileStep) : (s.modStep i f).binAt = s.binAt := rfl
@[simp] theorem State.modStep_nextId (s : State) (i : Nat) (f : TileStep → TileStep) : (s.modStep i f).nextId = s.nextId := rfl
@[simp] theorem State.modStep_reserved (s : State) (i : Nat) (f : TileStep → TileStep) : (s.modStep i f).reserved = s.reserved := rfl
@[simp] theorem State.modStep_placedDies (s : State) (i : Nat) (f : TileStep → TileStep) : (s.modStep i f).placedDies = s.placedDies := rfl
@[simp] theorem State.modStep_pollAt (s : State) (i : Nat) (f : TileStep → TileStep) : (s.modStep i f).pollAt = s.pollAt := rfl
@[simp] theorem State.modStep_inSamples (s : State) (i : Nat) (f : TileStep → TileStep) : (s.modStep i f).inSamples = s.inSamples := rfl
@[simp] theorem State.modStep_sill (s : State) (i : Nat) (f : TileStep → TileStep) : (s.modStep i f).sill = s.sill := rfl
@[simp] theorem State.modStep_hostOut (s : State) (i : Nat) (f : TileStep → TileStep) : (s.modStep i f).hostOut = s.hostOut := rfl
@[simp] theorem State.modStep_hostPending (s : State) (i : Nat) (f : TileStep → TileStep) : (s.modStep i f).hostPending = s.hostPending := rfl
@[simp] theorem State.modStep_hostSeq (s : State) (i : Nat) (f : TileStep → TileStep) : (s.modStep i f).hostSeq = s.hostSeq := rfl
@[simp] theorem State.modStep_hostData (s : State) (i : Nat) (f : TileStep → TileStep) : (s.modStep i f).hostData = s.hostData := rfl
@[simp] theorem State.modStep_hostIn (s : State) (i : Nat) (f : TileStep → TileStep) : (s.modStep i f).hostIn = s.hostIn := rfl
@[simp] theorem State.modStep_heldWrites (s : State) (i : Nat) (f : TileStep → TileStep) : (s.modStep i f).heldWrites = s.heldWrites := rfl
@[simp] theorem State.modStep_qpError (s : State) (i : Nat) (f : TileStep → TileStep) : (s.modStep i f).qpError = s.qpError := rfl
@[simp] theorem State.modStep_qps (s : State) (i : Nat) (f : TileStep → TileStep) : (s.modStep i f).qps = s.qps := rfl
@[simp] theorem State.modStep_mgmtOut (s : State) (i : Nat) (f : TileStep → TileStep) : (s.modStep i f).mgmtOut = s.mgmtOut := rfl
@[simp] theorem State.modStep_wireOut (s : State) (i : Nat) (f : TileStep → TileStep) : (s.modStep i f).wireOut = s.wireOut := rfl
@[simp] theorem State.modStep_turn (s : State) (i : Nat) (f : TileStep → TileStep) : (s.modStep i f).turn = s.turn := rfl
@[simp] theorem State.modStep_agenda (s : State) (i : Nat) (f : TileStep → TileStep) : (s.modStep i f).agenda = s.agenda := rfl
@[simp] theorem State.modStep_fresh (s : State) (i : Nat) (f : TileStep → TileStep) : (s.modStep i f).fresh = s.fresh := rfl

/-! ## Contexts -/

@[simp] theorem Core.setCtx_stage (k : Core) (x : Nat) (cx : Ctx) : (k.setCtx x cx).stage = k.stage := rfl
@[simp] theorem Core.setCtx_move (k : Core) (x : Nat) (cx : Ctx) : (k.setCtx x cx).move = k.move := rfl
@[simp] theorem Core.setCtx_inService (k : Core) (x : Nat) (cx : Ctx) : (k.setCtx x cx).inService = k.inService := rfl
@[simp] theorem Core.setCtx_drained (k : Core) (x : Nat) (cx : Ctx) : (k.setCtx x cx).drained = k.drained := rfl
@[simp] theorem Core.setCtx_frzcnt (k : Core) (x : Nat) (cx : Ctx) : (k.setCtx x cx).frzcnt = k.frzcnt := rfl
@[simp] theorem Core.setCtx_pwrlim (k : Core) (x : Nat) (cx : Ctx) : (k.setCtx x cx).pwrlim = k.pwrlim := rfl
@[simp] theorem Core.setCtx_weights (k : Core) (x : Nat) (cx : Ctx) : (k.setCtx x cx).weights = k.weights := rfl
@[simp] theorem Core.setCtx_weightNow (k : Core) (x : Nat) (cx : Ctx) : (k.setCtx x cx).weightNow = k.weightNow := rfl
@[simp] theorem Core.setCtx_frozen (k : Core) (x : Nat) (cx : Ctx) : (k.setCtx x cx).frozen = k.frozen := rfl
@[simp] theorem Core.setCtx_tnext (k : Core) (x : Nat) (cx : Ctx) : (k.setCtx x cx).tnext = k.tnext := rfl
@[simp] theorem Core.setCtx_tdone (k : Core) (x : Nat) (cx : Ctx) : (k.setCtx x cx).tdone = k.tdone := rfl
@[simp] theorem Core.setCtx_phaseGroup (k : Core) (x : Nat) (cx : Ctx) : (k.setCtx x cx).phaseGroup = k.phaseGroup := rfl
@[simp] theorem Core.setCtx_phase (k : Core) (x : Nat) (cx : Ctx) : (k.setCtx x cx).phase = k.phase := rfl
@[simp] theorem Core.setCtx_occPeak (k : Core) (x : Nat) (cx : Ctx) : (k.setCtx x cx).occPeak = k.occPeak := rfl
@[simp] theorem Core.setCtx_pwb (k : Core) (x : Nat) (cx : Ctx) : (k.setCtx x cx).pwb = k.pwb := rfl
@[simp] theorem Core.setCtx_perfFrz (k : Core) (x : Nat) (cx : Ctx) : (k.setCtx x cx).perfFrz = k.perfFrz := rfl
@[simp] theorem Core.setCtx_perfHen (k : Core) (x : Nat) (cx : Ctx) : (k.setCtx x cx).perfHen = k.perfHen := rfl
@[simp] theorem Core.setCtx_perfEn (k : Core) (x : Nat) (cx : Ctx) : (k.setCtx x cx).perfEn = k.perfEn := rfl
@[simp] theorem Core.setCtx_perfSel (k : Core) (x : Nat) (cx : Ctx) : (k.setCtx x cx).perfSel = k.perfSel := rfl
@[simp] theorem Core.setCtx_pmc (k : Core) (x : Nat) (cx : Ctx) : (k.setCtx x cx).pmc = k.pmc := rfl
@[simp] theorem Core.setCtx_pmcSet (k : Core) (x : Nat) (cx : Ctx) : (k.setCtx x cx).pmcSet = k.pmcSet := rfl
@[simp] theorem Core.setCtx_capW1c (k : Core) (x : Nat) (cx : Ctx) : (k.setCtx x cx).capW1c = k.capW1c := rfl
@[simp] theorem Core.setCtx_events (k : Core) (x : Nat) (cx : Ctx) : (k.setCtx x cx).events = k.events := rfl
@[simp] theorem Core.setCtx_hcapsel (k : Core) (x : Nat) (cx : Ctx) : (k.setCtx x cx).hcapsel = k.hcapsel := rfl
@[simp] theorem Core.setCtx_hcapmin (k : Core) (x : Nat) (cx : Ctx) : (k.setCtx x cx).hcapmin = k.hcapmin := rfl
@[simp] theorem Core.setCtx_hcapmax (k : Core) (x : Nat) (cx : Ctx) : (k.setCtx x cx).hcapmax = k.hcapmax := rfl
@[simp] theorem Core.setCtx_hbin (k : Core) (x : Nat) (cx : Ctx) : (k.setCtx x cx).hbin = k.hbin := rfl
@[simp] theorem Core.setCtx_ceSram (k : Core) (x : Nat) (cx : Ctx) : (k.setCtx x cx).ceSram = k.ceSram := rfl
@[simp] theorem Core.setCtx_ceIstore (k : Core) (x : Nat) (cx : Ctx) : (k.setCtx x cx).ceIstore = k.ceIstore := rfl
@[simp] theorem Core.setCtx_ueCore (k : Core) (x : Nat) (cx : Ctx) : (k.setCtx x cx).ueCore = k.ueCore := rfl
@[simp] theorem Core.setCtx_tiles (k : Core) (x : Nat) (cx : Ctx) : (k.setCtx x cx).tiles = k.tiles := rfl
@[simp] theorem Core.setCtx_tileUse (k : Core) (x : Nat) (cx : Ctx) : (k.setCtx x cx).tileUse = k.tileUse := rfl
@[simp] theorem Core.setCtx_tileRels (k : Core) (x : Nat) (cx : Ctx) : (k.setCtx x cx).tileRels = k.tileRels := rfl
@[simp] theorem Core.setCtx_rings (k : Core) (x : Nat) (cx : Ctx) : (k.setCtx x cx).rings = k.rings := rfl
@[simp] theorem Core.setCtx_queues (k : Core) (x : Nat) (cx : Ctx) : (k.setCtx x cx).queues = k.queues := rfl
@[simp] theorem Core.setCtx_served (k : Core) (x : Nat) (cx : Ctx) : (k.setCtx x cx).served = k.served := rfl
@[simp] theorem Core.setCtx_accepted (k : Core) (x : Nat) (cx : Ctx) : (k.setCtx x cx).accepted = k.accepted := rfl
@[simp] theorem Core.setCtx_buffers (k : Core) (x : Nat) (cx : Ctx) : (k.setCtx x cx).buffers = k.buffers := rfl
@[simp] theorem Core.setCtx_ce (k : Core) (x : Nat) (cx : Ctx) : (k.setCtx x cx).ce = k.ce := rfl
@[simp] theorem Core.setCtx_ceResume (k : Core) (x : Nat) (cx : Ctx) : (k.setCtx x cx).ceResume = k.ceResume := rfl
@[simp] theorem Core.setCtx_meResume (k : Core) (x : Nat) (cx : Ctx) : (k.setCtx x cx).meResume = k.meResume := rfl
@[simp] theorem Core.setCtx_gReady (k : Core) (x : Nat) (cx : Ctx) : (k.setCtx x cx).gReady = k.gReady := rfl
@[simp] theorem Core.setCtx_me (k : Core) (x : Nat) (cx : Ctx) : (k.setCtx x cx).me = k.me := rfl
@[simp] theorem Core.setCtx_ucode (k : Core) (x : Nat) (cx : Ctx) : (k.setCtx x cx).ucode = k.ucode := rfl
@[simp] theorem Core.setCtx_cells (k : Core) (x : Nat) (cx : Ctx) : (k.setCtx x cx).cells = k.cells := rfl
@[simp] theorem Core.setCtx_mas (k : Core) (x : Nat) (cx : Ctx) : (k.setCtx x cx).mas = k.mas := rfl
@[simp] theorem Core.setCtx_masP (k : Core) (x : Nat) (cx : Ctx) : (k.setCtx x cx).masP = k.masP := rfl
@[simp] theorem Core.setCtx_masCtx (k : Core) (x : Nat) (cx : Ctx) : (k.setCtx x cx).masCtx = k.masCtx := rfl
@[simp] theorem Core.setCtx_masPoison (k : Core) (x : Nat) (cx : Ctx) : (k.setCtx x cx).masPoison = k.masPoison := rfl
@[simp] theorem Core.setCtx_shuffle (k : Core) (x : Nat) (cx : Ctx) : (k.setCtx x cx).shuffle = k.shuffle := rfl
@[simp] theorem Core.setCtx_shufBank (k : Core) (x : Nat) (cx : Ctx) : (k.setCtx x cx).shufBank = k.shufBank := rfl
@[simp] theorem Core.setCtx_shufSwap (k : Core) (x : Nat) (cx : Ctx) : (k.setCtx x cx).shufSwap = k.shufSwap := rfl
@[simp] theorem Core.setCtx_refusals (k : Core) (x : Nat) (cx : Ctx) : (k.setCtx x cx).refusals = k.refusals := rfl
@[simp] theorem Core.setCtx_secondary (k : Core) (x : Nat) (cx : Ctx) : (k.setCtx x cx).secondary = k.secondary := rfl
@[simp] theorem Core.setCtx_refusedSince (k : Core) (x : Nat) (cx : Ctx) : (k.setCtx x cx).refusedSince = k.refusedSince := rfl
@[simp] theorem Core.setCtx_swapRoles (k : Core) (x : Nat) (cx : Ctx) : (k.setCtx x cx).swapRoles = k.swapRoles := rfl
@[simp] theorem Core.setCtx_fetchBanks (k : Core) (x : Nat) (cx : Ctx) : (k.setCtx x cx).fetchBanks = k.fetchBanks := rfl
@[simp] theorem Core.setCtx_loopBuf (k : Core) (x : Nat) (cx : Ctx) : (k.setCtx x cx).loopBuf = k.loopBuf := rfl
@[simp] theorem Core.setCtx_loopHolder (k : Core) (x : Nat) (cx : Ctx) : (k.setCtx x cx).loopHolder = k.loopHolder := rfl
@[simp] theorem Core.setCtx_arrived (k : Core) (x : Nat) (cx : Ctx) : (k.setCtx x cx).arrived = k.arrived := rfl
@[simp] theorem Core.setCtx_rotate (k : Core) (x : Nat) (cx : Ctx) : (k.setCtx x cx).rotate = k.rotate := rfl
@[simp] theorem Core.setCtx_resumeAddr (k : Core) (x : Nat) (cx : Ctx) : (k.setCtx x cx).resumeAddr = k.resumeAddr := rfl
@[simp] theorem Core.setCtx_saving (k : Core) (x : Nat) (cx : Ctx) : (k.setCtx x cx).saving = k.saving := rfl
@[simp] theorem Core.setCtx_saveFailed (k : Core) (x : Nat) (cx : Ctx) : (k.setCtx x cx).saveFailed = k.saveFailed := rfl
@[simp] theorem Core.setCtx_istore (k : Core) (x : Nat) (cx : Ctx) : (k.setCtx x cx).istore = k.istore := rfl
@[simp] theorem Core.setCtx_untagged (k : Core) (x : Nat) (cx : Ctx) : (k.setCtx x cx).untagged = k.untagged := rfl

@[simp] theorem Ctx.dirty_sreg (cx : Ctx) (b : Nat) : (cx.dirty b).sreg = cx.sreg := rfl
@[simp] theorem Ctx.dirty_vreg (cx : Ctx) (b : Nat) : (cx.dirty b).vreg = cx.vreg := rfl
@[simp] theorem Ctx.dirty_empty (cx : Ctx) (b : Nat) : (cx.dirty b).empty = cx.empty := rfl
@[simp] theorem Ctx.dirty_g (cx : Ctx) (b : Nat) : (cx.dirty b).g = cx.g := rfl
@[simp] theorem Ctx.dirty_q (cx : Ctx) (b : Nat) : (cx.dirty b).q = cx.q := rfl
@[simp] theorem Ctx.dirty_user (cx : Ctx) (b : Nat) : (cx.dirty b).user = cx.user := rfl
@[simp] theorem Ctx.dirty_sys (cx : Ctx) (b : Nat) : (cx.dirty b).sys = cx.sys := rfl
@[simp] theorem Ctx.dirty_modeSys (cx : Ctx) (b : Nat) : (cx.dirty b).modeSys = cx.modeSys := rfl
@[simp] theorem Ctx.dirty_trapCause (cx : Ctx) (b : Nat) : (cx.dirty b).trapCause = cx.trapCause := rfl
@[simp] theorem Ctx.dirty_trapPc (cx : Ctx) (b : Nat) : (cx.dirty b).trapPc = cx.trapPc := rfl
@[simp] theorem Ctx.dirty_trapInfo (cx : Ctx) (b : Nat) : (cx.dirty b).trapInfo = cx.trapInfo := rfl
@[simp] theorem Ctx.dirty_acflags (cx : Ctx) (b : Nat) : (cx.dirty b).acflags = cx.acflags := rfl
@[simp] theorem Ctx.dirty_loopctr (cx : Ctx) (b : Nat) : (cx.dirty b).loopctr = cx.loopctr := rfl
@[simp] theorem Ctx.dirty_stalls (cx : Ctx) (b : Nat) : (cx.dirty b).stalls = cx.stalls := rfl
@[simp] theorem Ctx.dirty_fmtFix (cx : Ctx) (b : Nat) : (cx.dirty b).fmtFix = cx.fmtFix := rfl
@[simp] theorem Ctx.dirty_fmtLevel (cx : Ctx) (b : Nat) : (cx.dirty b).fmtLevel = cx.fmtLevel := rfl
@[simp] theorem Ctx.dirty_qstall (cx : Ctx) (b : Nat) : (cx.dirty b).qstall = cx.qstall := rfl
@[simp] theorem Ctx.dirty_qmode (cx : Ctx) (b : Nat) : (cx.dirty b).qmode = cx.qmode := rfl
@[simp] theorem Ctx.dirty_strStream (cx : Ctx) (b : Nat) : (cx.dirty b).strStream = cx.strStream := rfl
@[simp] theorem Ctx.dirty_strDest (cx : Ctx) (b : Nat) : (cx.dirty b).strDest = cx.strDest := rfl
@[simp] theorem Ctx.dirty_strNext (cx : Ctx) (b : Nat) : (cx.dirty b).strNext = cx.strNext := rfl
@[simp] theorem Ctx.dirty_strFence (cx : Ctx) (b : Nat) : (cx.dirty b).strFence = cx.strFence := rfl
@[simp] theorem Ctx.dirty_uncommitted (cx : Ctx) (b : Nat) : (cx.dirty b).uncommitted = cx.uncommitted := rfl
@[simp] theorem Ctx.dirty_loops (cx : Ctx) (b : Nat) : (cx.dirty b).loops = cx.loops := rfl
@[simp] theorem Ctx.dirty_fmt (cx : Ctx) (b : Nat) : (cx.dirty b).fmt = cx.fmt := rfl
@[simp] theorem Ctx.dirty_state (cx : Ctx) (b : Nat) : (cx.dirty b).state = cx.state := rfl
@[simp] theorem Ctx.dirty_block (cx : Ctx) (b : Nat) : (cx.dirty b).block = cx.block := rfl
@[simp] theorem Ctx.dirty_seatedNow (cx : Ctx) (b : Nat) : (cx.dirty b).seatedNow = cx.seatedNow := rfl
@[simp] theorem Ctx.dirty_readySince (cx : Ctx) (b : Nat) : (cx.dirty b).readySince = cx.readySince := rfl
@[simp] theorem Ctx.dirty_seatedSince (cx : Ctx) (b : Nat) : (cx.dirty b).seatedSince = cx.seatedSince := rfl
@[simp] theorem Ctx.dirty_completing (cx : Ctx) (b : Nat) : (cx.dirty b).completing = cx.completing := rfl
@[simp] theorem Ctx.dirty_grants (cx : Ctx) (b : Nat) : (cx.dirty b).grants = cx.grants := rfl
@[simp] theorem Ctx.dirty_bankLost (cx : Ctx) (b : Nat) : (cx.dirty b).bankLost = cx.bankLost := rfl
@[simp] theorem Ctx.dirty_sysHalted (cx : Ctx) (b : Nat) : (cx.dirty b).sysHalted = cx.sysHalted := rfl
@[simp] theorem Ctx.dirty_userHalted (cx : Ctx) (b : Nat) : (cx.dirty b).userHalted = cx.userHalted := rfl
@[simp] theorem Ctx.dirty_pend (cx : Ctx) (b : Nat) : (cx.dirty b).pend = cx.pend := rfl
@[simp] theorem Ctx.dirty_preempt (cx : Ctx) (b : Nat) : (cx.dirty b).preempt = cx.preempt := rfl
@[simp] theorem Ctx.dirty_stopped (cx : Ctx) (b : Nat) : (cx.dirty b).stopped = cx.stopped := rfl
@[simp] theorem Ctx.dirty_timer (cx : Ctx) (b : Nat) : (cx.dirty b).timer = cx.timer := rfl
@[simp] theorem Ctx.dirty_late (cx : Ctx) (b : Nat) : (cx.dirty b).late = cx.late := rfl
@[simp] theorem Ctx.dirty_step (cx : Ctx) (b : Nat) : (cx.dirty b).step = cx.step := rfl
@[simp] theorem Ctx.dirty_saveReq (cx : Ctx) (b : Nat) : (cx.dirty b).saveReq = cx.saveReq := rfl
@[simp] theorem Ctx.dirty_doneIssued (cx : Ctx) (b : Nat) : (cx.dirty b).doneIssued = cx.doneIssued := rfl
@[simp] theorem Ctx.dirty_fences (cx : Ctx) (b : Nat) : (cx.dirty b).fences = cx.fences := rfl
@[simp] theorem Ctx.dirty_live (cx : Ctx) (b : Nat) : (cx.dirty b).live = cx.live := rfl
@[simp] theorem Ctx.dirty_acquireHold (cx : Ctx) (b : Nat) : (cx.dirty b).acquireHold = cx.acquireHold := rfl
@[simp] theorem Ctx.dirty_posted (cx : Ctx) (b : Nat) : (cx.dirty b).posted = cx.posted := rfl
@[simp] theorem Ctx.dirty_blockedSince (cx : Ctx) (b : Nat) : (cx.dirty b).blockedSince = cx.blockedSince := rfl

@[simp] theorem Ctx.raiseFlags_sreg (cx : Ctx) (b : BitVec 6) : (cx.raiseFlags b).sreg = cx.sreg := rfl
@[simp] theorem Ctx.raiseFlags_vreg (cx : Ctx) (b : BitVec 6) : (cx.raiseFlags b).vreg = cx.vreg := rfl
@[simp] theorem Ctx.raiseFlags_empty (cx : Ctx) (b : BitVec 6) : (cx.raiseFlags b).empty = cx.empty := rfl
@[simp] theorem Ctx.raiseFlags_g (cx : Ctx) (b : BitVec 6) : (cx.raiseFlags b).g = cx.g := rfl
@[simp] theorem Ctx.raiseFlags_q (cx : Ctx) (b : BitVec 6) : (cx.raiseFlags b).q = cx.q := rfl
@[simp] theorem Ctx.raiseFlags_user (cx : Ctx) (b : BitVec 6) : (cx.raiseFlags b).user = cx.user := rfl
@[simp] theorem Ctx.raiseFlags_sys (cx : Ctx) (b : BitVec 6) : (cx.raiseFlags b).sys = cx.sys := rfl
@[simp] theorem Ctx.raiseFlags_modeSys (cx : Ctx) (b : BitVec 6) : (cx.raiseFlags b).modeSys = cx.modeSys := rfl
@[simp] theorem Ctx.raiseFlags_trapCause (cx : Ctx) (b : BitVec 6) : (cx.raiseFlags b).trapCause = cx.trapCause := rfl
@[simp] theorem Ctx.raiseFlags_trapPc (cx : Ctx) (b : BitVec 6) : (cx.raiseFlags b).trapPc = cx.trapPc := rfl
@[simp] theorem Ctx.raiseFlags_trapInfo (cx : Ctx) (b : BitVec 6) : (cx.raiseFlags b).trapInfo = cx.trapInfo := rfl
@[simp] theorem Ctx.raiseFlags_loopctr (cx : Ctx) (b : BitVec 6) : (cx.raiseFlags b).loopctr = cx.loopctr := rfl
@[simp] theorem Ctx.raiseFlags_stalls (cx : Ctx) (b : BitVec 6) : (cx.raiseFlags b).stalls = cx.stalls := rfl
@[simp] theorem Ctx.raiseFlags_fmtFix (cx : Ctx) (b : BitVec 6) : (cx.raiseFlags b).fmtFix = cx.fmtFix := rfl
@[simp] theorem Ctx.raiseFlags_fmtLevel (cx : Ctx) (b : BitVec 6) : (cx.raiseFlags b).fmtLevel = cx.fmtLevel := rfl
@[simp] theorem Ctx.raiseFlags_qstall (cx : Ctx) (b : BitVec 6) : (cx.raiseFlags b).qstall = cx.qstall := rfl
@[simp] theorem Ctx.raiseFlags_qmode (cx : Ctx) (b : BitVec 6) : (cx.raiseFlags b).qmode = cx.qmode := rfl
@[simp] theorem Ctx.raiseFlags_strStream (cx : Ctx) (b : BitVec 6) : (cx.raiseFlags b).strStream = cx.strStream := rfl
@[simp] theorem Ctx.raiseFlags_strDest (cx : Ctx) (b : BitVec 6) : (cx.raiseFlags b).strDest = cx.strDest := rfl
@[simp] theorem Ctx.raiseFlags_strNext (cx : Ctx) (b : BitVec 6) : (cx.raiseFlags b).strNext = cx.strNext := rfl
@[simp] theorem Ctx.raiseFlags_strFence (cx : Ctx) (b : BitVec 6) : (cx.raiseFlags b).strFence = cx.strFence := rfl
@[simp] theorem Ctx.raiseFlags_uncommitted (cx : Ctx) (b : BitVec 6) : (cx.raiseFlags b).uncommitted = cx.uncommitted := rfl
@[simp] theorem Ctx.raiseFlags_dirtymap (cx : Ctx) (b : BitVec 6) : (cx.raiseFlags b).dirtymap = cx.dirtymap := rfl
@[simp] theorem Ctx.raiseFlags_loops (cx : Ctx) (b : BitVec 6) : (cx.raiseFlags b).loops = cx.loops := rfl
@[simp] theorem Ctx.raiseFlags_fmt (cx : Ctx) (b : BitVec 6) : (cx.raiseFlags b).fmt = cx.fmt := rfl
@[simp] theorem Ctx.raiseFlags_state (cx : Ctx) (b : BitVec 6) : (cx.raiseFlags b).state = cx.state := rfl
@[simp] theorem Ctx.raiseFlags_block (cx : Ctx) (b : BitVec 6) : (cx.raiseFlags b).block = cx.block := rfl
@[simp] theorem Ctx.raiseFlags_seatedNow (cx : Ctx) (b : BitVec 6) : (cx.raiseFlags b).seatedNow = cx.seatedNow := rfl
@[simp] theorem Ctx.raiseFlags_readySince (cx : Ctx) (b : BitVec 6) : (cx.raiseFlags b).readySince = cx.readySince := rfl
@[simp] theorem Ctx.raiseFlags_seatedSince (cx : Ctx) (b : BitVec 6) : (cx.raiseFlags b).seatedSince = cx.seatedSince := rfl
@[simp] theorem Ctx.raiseFlags_completing (cx : Ctx) (b : BitVec 6) : (cx.raiseFlags b).completing = cx.completing := rfl
@[simp] theorem Ctx.raiseFlags_grants (cx : Ctx) (b : BitVec 6) : (cx.raiseFlags b).grants = cx.grants := rfl
@[simp] theorem Ctx.raiseFlags_bankLost (cx : Ctx) (b : BitVec 6) : (cx.raiseFlags b).bankLost = cx.bankLost := rfl
@[simp] theorem Ctx.raiseFlags_sysHalted (cx : Ctx) (b : BitVec 6) : (cx.raiseFlags b).sysHalted = cx.sysHalted := rfl
@[simp] theorem Ctx.raiseFlags_userHalted (cx : Ctx) (b : BitVec 6) : (cx.raiseFlags b).userHalted = cx.userHalted := rfl
@[simp] theorem Ctx.raiseFlags_pend (cx : Ctx) (b : BitVec 6) : (cx.raiseFlags b).pend = cx.pend := rfl
@[simp] theorem Ctx.raiseFlags_preempt (cx : Ctx) (b : BitVec 6) : (cx.raiseFlags b).preempt = cx.preempt := rfl
@[simp] theorem Ctx.raiseFlags_stopped (cx : Ctx) (b : BitVec 6) : (cx.raiseFlags b).stopped = cx.stopped := rfl
@[simp] theorem Ctx.raiseFlags_timer (cx : Ctx) (b : BitVec 6) : (cx.raiseFlags b).timer = cx.timer := rfl
@[simp] theorem Ctx.raiseFlags_late (cx : Ctx) (b : BitVec 6) : (cx.raiseFlags b).late = cx.late := rfl
@[simp] theorem Ctx.raiseFlags_step (cx : Ctx) (b : BitVec 6) : (cx.raiseFlags b).step = cx.step := rfl
@[simp] theorem Ctx.raiseFlags_saveReq (cx : Ctx) (b : BitVec 6) : (cx.raiseFlags b).saveReq = cx.saveReq := rfl
@[simp] theorem Ctx.raiseFlags_doneIssued (cx : Ctx) (b : BitVec 6) : (cx.raiseFlags b).doneIssued = cx.doneIssued := rfl
@[simp] theorem Ctx.raiseFlags_fences (cx : Ctx) (b : BitVec 6) : (cx.raiseFlags b).fences = cx.fences := rfl
@[simp] theorem Ctx.raiseFlags_live (cx : Ctx) (b : BitVec 6) : (cx.raiseFlags b).live = cx.live := rfl
@[simp] theorem Ctx.raiseFlags_acquireHold (cx : Ctx) (b : BitVec 6) : (cx.raiseFlags b).acquireHold = cx.acquireHold := rfl
@[simp] theorem Ctx.raiseFlags_posted (cx : Ctx) (b : BitVec 6) : (cx.raiseFlags b).posted = cx.posted := rfl
@[simp] theorem Ctx.raiseFlags_blockedSince (cx : Ctx) (b : BitVec 6) : (cx.raiseFlags b).blockedSince = cx.blockedSince := rfl

@[simp] theorem Ctx.modPlane_sreg (cx : Ctx) (sys : Bool) (f : Plane → Plane) : (cx.modPlane sys f).sreg = cx.sreg := by cases sys <;> rfl
@[simp] theorem Ctx.modPlane_vreg (cx : Ctx) (sys : Bool) (f : Plane → Plane) : (cx.modPlane sys f).vreg = cx.vreg := by cases sys <;> rfl
@[simp] theorem Ctx.modPlane_empty (cx : Ctx) (sys : Bool) (f : Plane → Plane) : (cx.modPlane sys f).empty = cx.empty := by cases sys <;> rfl
@[simp] theorem Ctx.modPlane_g (cx : Ctx) (sys : Bool) (f : Plane → Plane) : (cx.modPlane sys f).g = cx.g := by cases sys <;> rfl
@[simp] theorem Ctx.modPlane_q (cx : Ctx) (sys : Bool) (f : Plane → Plane) : (cx.modPlane sys f).q = cx.q := by cases sys <;> rfl
@[simp] theorem Ctx.modPlane_modeSys (cx : Ctx) (sys : Bool) (f : Plane → Plane) : (cx.modPlane sys f).modeSys = cx.modeSys := by cases sys <;> rfl
@[simp] theorem Ctx.modPlane_trapCause (cx : Ctx) (sys : Bool) (f : Plane → Plane) : (cx.modPlane sys f).trapCause = cx.trapCause := by cases sys <;> rfl
@[simp] theorem Ctx.modPlane_trapPc (cx : Ctx) (sys : Bool) (f : Plane → Plane) : (cx.modPlane sys f).trapPc = cx.trapPc := by cases sys <;> rfl
@[simp] theorem Ctx.modPlane_trapInfo (cx : Ctx) (sys : Bool) (f : Plane → Plane) : (cx.modPlane sys f).trapInfo = cx.trapInfo := by cases sys <;> rfl
@[simp] theorem Ctx.modPlane_acflags (cx : Ctx) (sys : Bool) (f : Plane → Plane) : (cx.modPlane sys f).acflags = cx.acflags := by cases sys <;> rfl
@[simp] theorem Ctx.modPlane_loopctr (cx : Ctx) (sys : Bool) (f : Plane → Plane) : (cx.modPlane sys f).loopctr = cx.loopctr := by cases sys <;> rfl
@[simp] theorem Ctx.modPlane_stalls (cx : Ctx) (sys : Bool) (f : Plane → Plane) : (cx.modPlane sys f).stalls = cx.stalls := by cases sys <;> rfl
@[simp] theorem Ctx.modPlane_fmtFix (cx : Ctx) (sys : Bool) (f : Plane → Plane) : (cx.modPlane sys f).fmtFix = cx.fmtFix := by cases sys <;> rfl
@[simp] theorem Ctx.modPlane_fmtLevel (cx : Ctx) (sys : Bool) (f : Plane → Plane) : (cx.modPlane sys f).fmtLevel = cx.fmtLevel := by cases sys <;> rfl
@[simp] theorem Ctx.modPlane_qstall (cx : Ctx) (sys : Bool) (f : Plane → Plane) : (cx.modPlane sys f).qstall = cx.qstall := by cases sys <;> rfl
@[simp] theorem Ctx.modPlane_qmode (cx : Ctx) (sys : Bool) (f : Plane → Plane) : (cx.modPlane sys f).qmode = cx.qmode := by cases sys <;> rfl
@[simp] theorem Ctx.modPlane_strStream (cx : Ctx) (sys : Bool) (f : Plane → Plane) : (cx.modPlane sys f).strStream = cx.strStream := by cases sys <;> rfl
@[simp] theorem Ctx.modPlane_strDest (cx : Ctx) (sys : Bool) (f : Plane → Plane) : (cx.modPlane sys f).strDest = cx.strDest := by cases sys <;> rfl
@[simp] theorem Ctx.modPlane_strNext (cx : Ctx) (sys : Bool) (f : Plane → Plane) : (cx.modPlane sys f).strNext = cx.strNext := by cases sys <;> rfl
@[simp] theorem Ctx.modPlane_strFence (cx : Ctx) (sys : Bool) (f : Plane → Plane) : (cx.modPlane sys f).strFence = cx.strFence := by cases sys <;> rfl
@[simp] theorem Ctx.modPlane_uncommitted (cx : Ctx) (sys : Bool) (f : Plane → Plane) : (cx.modPlane sys f).uncommitted = cx.uncommitted := by cases sys <;> rfl
@[simp] theorem Ctx.modPlane_dirtymap (cx : Ctx) (sys : Bool) (f : Plane → Plane) : (cx.modPlane sys f).dirtymap = cx.dirtymap := by cases sys <;> rfl
@[simp] theorem Ctx.modPlane_loops (cx : Ctx) (sys : Bool) (f : Plane → Plane) : (cx.modPlane sys f).loops = cx.loops := by cases sys <;> rfl
@[simp] theorem Ctx.modPlane_fmt (cx : Ctx) (sys : Bool) (f : Plane → Plane) : (cx.modPlane sys f).fmt = cx.fmt := by cases sys <;> rfl
@[simp] theorem Ctx.modPlane_state (cx : Ctx) (sys : Bool) (f : Plane → Plane) : (cx.modPlane sys f).state = cx.state := by cases sys <;> rfl
@[simp] theorem Ctx.modPlane_block (cx : Ctx) (sys : Bool) (f : Plane → Plane) : (cx.modPlane sys f).block = cx.block := by cases sys <;> rfl
@[simp] theorem Ctx.modPlane_seatedNow (cx : Ctx) (sys : Bool) (f : Plane → Plane) : (cx.modPlane sys f).seatedNow = cx.seatedNow := by cases sys <;> rfl
@[simp] theorem Ctx.modPlane_readySince (cx : Ctx) (sys : Bool) (f : Plane → Plane) : (cx.modPlane sys f).readySince = cx.readySince := by cases sys <;> rfl
@[simp] theorem Ctx.modPlane_seatedSince (cx : Ctx) (sys : Bool) (f : Plane → Plane) : (cx.modPlane sys f).seatedSince = cx.seatedSince := by cases sys <;> rfl
@[simp] theorem Ctx.modPlane_completing (cx : Ctx) (sys : Bool) (f : Plane → Plane) : (cx.modPlane sys f).completing = cx.completing := by cases sys <;> rfl
@[simp] theorem Ctx.modPlane_grants (cx : Ctx) (sys : Bool) (f : Plane → Plane) : (cx.modPlane sys f).grants = cx.grants := by cases sys <;> rfl
@[simp] theorem Ctx.modPlane_bankLost (cx : Ctx) (sys : Bool) (f : Plane → Plane) : (cx.modPlane sys f).bankLost = cx.bankLost := by cases sys <;> rfl
@[simp] theorem Ctx.modPlane_sysHalted (cx : Ctx) (sys : Bool) (f : Plane → Plane) : (cx.modPlane sys f).sysHalted = cx.sysHalted := by cases sys <;> rfl
@[simp] theorem Ctx.modPlane_userHalted (cx : Ctx) (sys : Bool) (f : Plane → Plane) : (cx.modPlane sys f).userHalted = cx.userHalted := by cases sys <;> rfl
@[simp] theorem Ctx.modPlane_pend (cx : Ctx) (sys : Bool) (f : Plane → Plane) : (cx.modPlane sys f).pend = cx.pend := by cases sys <;> rfl
@[simp] theorem Ctx.modPlane_preempt (cx : Ctx) (sys : Bool) (f : Plane → Plane) : (cx.modPlane sys f).preempt = cx.preempt := by cases sys <;> rfl
@[simp] theorem Ctx.modPlane_stopped (cx : Ctx) (sys : Bool) (f : Plane → Plane) : (cx.modPlane sys f).stopped = cx.stopped := by cases sys <;> rfl
@[simp] theorem Ctx.modPlane_timer (cx : Ctx) (sys : Bool) (f : Plane → Plane) : (cx.modPlane sys f).timer = cx.timer := by cases sys <;> rfl
@[simp] theorem Ctx.modPlane_late (cx : Ctx) (sys : Bool) (f : Plane → Plane) : (cx.modPlane sys f).late = cx.late := by cases sys <;> rfl
@[simp] theorem Ctx.modPlane_step (cx : Ctx) (sys : Bool) (f : Plane → Plane) : (cx.modPlane sys f).step = cx.step := by cases sys <;> rfl
@[simp] theorem Ctx.modPlane_saveReq (cx : Ctx) (sys : Bool) (f : Plane → Plane) : (cx.modPlane sys f).saveReq = cx.saveReq := by cases sys <;> rfl
@[simp] theorem Ctx.modPlane_doneIssued (cx : Ctx) (sys : Bool) (f : Plane → Plane) : (cx.modPlane sys f).doneIssued = cx.doneIssued := by cases sys <;> rfl
@[simp] theorem Ctx.modPlane_fences (cx : Ctx) (sys : Bool) (f : Plane → Plane) : (cx.modPlane sys f).fences = cx.fences := by cases sys <;> rfl
@[simp] theorem Ctx.modPlane_live (cx : Ctx) (sys : Bool) (f : Plane → Plane) : (cx.modPlane sys f).live = cx.live := by cases sys <;> rfl
@[simp] theorem Ctx.modPlane_acquireHold (cx : Ctx) (sys : Bool) (f : Plane → Plane) : (cx.modPlane sys f).acquireHold = cx.acquireHold := by cases sys <;> rfl
@[simp] theorem Ctx.modPlane_posted (cx : Ctx) (sys : Bool) (f : Plane → Plane) : (cx.modPlane sys f).posted = cx.posted := by cases sys <;> rfl
@[simp] theorem Ctx.modPlane_blockedSince (cx : Ctx) (sys : Bool) (f : Plane → Plane) : (cx.modPlane sys f).blockedSince = cx.blockedSince := by cases sys <;> rfl

@[simp] theorem Ctx.addDue_sreg (cx : Ctx) (sys : Bool) (r : DueRec) : (cx.addDue sys r).sreg = cx.sreg := by cases sys <;> rfl
@[simp] theorem Ctx.addDue_vreg (cx : Ctx) (sys : Bool) (r : DueRec) : (cx.addDue sys r).vreg = cx.vreg := by cases sys <;> rfl
@[simp] theorem Ctx.addDue_empty (cx : Ctx) (sys : Bool) (r : DueRec) : (cx.addDue sys r).empty = cx.empty := by cases sys <;> rfl
@[simp] theorem Ctx.addDue_g (cx : Ctx) (sys : Bool) (r : DueRec) : (cx.addDue sys r).g = cx.g := by cases sys <;> rfl
@[simp] theorem Ctx.addDue_q (cx : Ctx) (sys : Bool) (r : DueRec) : (cx.addDue sys r).q = cx.q := by cases sys <;> rfl
@[simp] theorem Ctx.addDue_modeSys (cx : Ctx) (sys : Bool) (r : DueRec) : (cx.addDue sys r).modeSys = cx.modeSys := by cases sys <;> rfl
@[simp] theorem Ctx.addDue_trapCause (cx : Ctx) (sys : Bool) (r : DueRec) : (cx.addDue sys r).trapCause = cx.trapCause := by cases sys <;> rfl
@[simp] theorem Ctx.addDue_trapPc (cx : Ctx) (sys : Bool) (r : DueRec) : (cx.addDue sys r).trapPc = cx.trapPc := by cases sys <;> rfl
@[simp] theorem Ctx.addDue_trapInfo (cx : Ctx) (sys : Bool) (r : DueRec) : (cx.addDue sys r).trapInfo = cx.trapInfo := by cases sys <;> rfl
@[simp] theorem Ctx.addDue_acflags (cx : Ctx) (sys : Bool) (r : DueRec) : (cx.addDue sys r).acflags = cx.acflags := by cases sys <;> rfl
@[simp] theorem Ctx.addDue_loopctr (cx : Ctx) (sys : Bool) (r : DueRec) : (cx.addDue sys r).loopctr = cx.loopctr := by cases sys <;> rfl
@[simp] theorem Ctx.addDue_stalls (cx : Ctx) (sys : Bool) (r : DueRec) : (cx.addDue sys r).stalls = cx.stalls := by cases sys <;> rfl
@[simp] theorem Ctx.addDue_fmtFix (cx : Ctx) (sys : Bool) (r : DueRec) : (cx.addDue sys r).fmtFix = cx.fmtFix := by cases sys <;> rfl
@[simp] theorem Ctx.addDue_fmtLevel (cx : Ctx) (sys : Bool) (r : DueRec) : (cx.addDue sys r).fmtLevel = cx.fmtLevel := by cases sys <;> rfl
@[simp] theorem Ctx.addDue_qstall (cx : Ctx) (sys : Bool) (r : DueRec) : (cx.addDue sys r).qstall = cx.qstall := by cases sys <;> rfl
@[simp] theorem Ctx.addDue_qmode (cx : Ctx) (sys : Bool) (r : DueRec) : (cx.addDue sys r).qmode = cx.qmode := by cases sys <;> rfl
@[simp] theorem Ctx.addDue_strStream (cx : Ctx) (sys : Bool) (r : DueRec) : (cx.addDue sys r).strStream = cx.strStream := by cases sys <;> rfl
@[simp] theorem Ctx.addDue_strDest (cx : Ctx) (sys : Bool) (r : DueRec) : (cx.addDue sys r).strDest = cx.strDest := by cases sys <;> rfl
@[simp] theorem Ctx.addDue_strNext (cx : Ctx) (sys : Bool) (r : DueRec) : (cx.addDue sys r).strNext = cx.strNext := by cases sys <;> rfl
@[simp] theorem Ctx.addDue_strFence (cx : Ctx) (sys : Bool) (r : DueRec) : (cx.addDue sys r).strFence = cx.strFence := by cases sys <;> rfl
@[simp] theorem Ctx.addDue_uncommitted (cx : Ctx) (sys : Bool) (r : DueRec) : (cx.addDue sys r).uncommitted = cx.uncommitted := by cases sys <;> rfl
@[simp] theorem Ctx.addDue_dirtymap (cx : Ctx) (sys : Bool) (r : DueRec) : (cx.addDue sys r).dirtymap = cx.dirtymap := by cases sys <;> rfl
@[simp] theorem Ctx.addDue_loops (cx : Ctx) (sys : Bool) (r : DueRec) : (cx.addDue sys r).loops = cx.loops := by cases sys <;> rfl
@[simp] theorem Ctx.addDue_fmt (cx : Ctx) (sys : Bool) (r : DueRec) : (cx.addDue sys r).fmt = cx.fmt := by cases sys <;> rfl
@[simp] theorem Ctx.addDue_state (cx : Ctx) (sys : Bool) (r : DueRec) : (cx.addDue sys r).state = cx.state := by cases sys <;> rfl
@[simp] theorem Ctx.addDue_block (cx : Ctx) (sys : Bool) (r : DueRec) : (cx.addDue sys r).block = cx.block := by cases sys <;> rfl
@[simp] theorem Ctx.addDue_seatedNow (cx : Ctx) (sys : Bool) (r : DueRec) : (cx.addDue sys r).seatedNow = cx.seatedNow := by cases sys <;> rfl
@[simp] theorem Ctx.addDue_readySince (cx : Ctx) (sys : Bool) (r : DueRec) : (cx.addDue sys r).readySince = cx.readySince := by cases sys <;> rfl
@[simp] theorem Ctx.addDue_seatedSince (cx : Ctx) (sys : Bool) (r : DueRec) : (cx.addDue sys r).seatedSince = cx.seatedSince := by cases sys <;> rfl
@[simp] theorem Ctx.addDue_completing (cx : Ctx) (sys : Bool) (r : DueRec) : (cx.addDue sys r).completing = cx.completing := by cases sys <;> rfl
@[simp] theorem Ctx.addDue_grants (cx : Ctx) (sys : Bool) (r : DueRec) : (cx.addDue sys r).grants = cx.grants := by cases sys <;> rfl
@[simp] theorem Ctx.addDue_bankLost (cx : Ctx) (sys : Bool) (r : DueRec) : (cx.addDue sys r).bankLost = cx.bankLost := by cases sys <;> rfl
@[simp] theorem Ctx.addDue_sysHalted (cx : Ctx) (sys : Bool) (r : DueRec) : (cx.addDue sys r).sysHalted = cx.sysHalted := by cases sys <;> rfl
@[simp] theorem Ctx.addDue_userHalted (cx : Ctx) (sys : Bool) (r : DueRec) : (cx.addDue sys r).userHalted = cx.userHalted := by cases sys <;> rfl
@[simp] theorem Ctx.addDue_pend (cx : Ctx) (sys : Bool) (r : DueRec) : (cx.addDue sys r).pend = cx.pend := by cases sys <;> rfl
@[simp] theorem Ctx.addDue_preempt (cx : Ctx) (sys : Bool) (r : DueRec) : (cx.addDue sys r).preempt = cx.preempt := by cases sys <;> rfl
@[simp] theorem Ctx.addDue_stopped (cx : Ctx) (sys : Bool) (r : DueRec) : (cx.addDue sys r).stopped = cx.stopped := by cases sys <;> rfl
@[simp] theorem Ctx.addDue_timer (cx : Ctx) (sys : Bool) (r : DueRec) : (cx.addDue sys r).timer = cx.timer := by cases sys <;> rfl
@[simp] theorem Ctx.addDue_late (cx : Ctx) (sys : Bool) (r : DueRec) : (cx.addDue sys r).late = cx.late := by cases sys <;> rfl
@[simp] theorem Ctx.addDue_step (cx : Ctx) (sys : Bool) (r : DueRec) : (cx.addDue sys r).step = cx.step := by cases sys <;> rfl
@[simp] theorem Ctx.addDue_saveReq (cx : Ctx) (sys : Bool) (r : DueRec) : (cx.addDue sys r).saveReq = cx.saveReq := by cases sys <;> rfl
@[simp] theorem Ctx.addDue_doneIssued (cx : Ctx) (sys : Bool) (r : DueRec) : (cx.addDue sys r).doneIssued = cx.doneIssued := by cases sys <;> rfl
@[simp] theorem Ctx.addDue_fences (cx : Ctx) (sys : Bool) (r : DueRec) : (cx.addDue sys r).fences = cx.fences := by cases sys <;> rfl
@[simp] theorem Ctx.addDue_live (cx : Ctx) (sys : Bool) (r : DueRec) : (cx.addDue sys r).live = cx.live := by cases sys <;> rfl
@[simp] theorem Ctx.addDue_acquireHold (cx : Ctx) (sys : Bool) (r : DueRec) : (cx.addDue sys r).acquireHold = cx.acquireHold := by cases sys <;> rfl
@[simp] theorem Ctx.addDue_posted (cx : Ctx) (sys : Bool) (r : DueRec) : (cx.addDue sys r).posted = cx.posted := by cases sys <;> rfl
@[simp] theorem Ctx.addDue_blockedSince (cx : Ctx) (sys : Bool) (r : DueRec) : (cx.addDue sys r).blockedSince = cx.blockedSince := by cases sys <;> rfl

@[simp] theorem Ctx.setLatch_sreg (cx : Ctx) (sys : Bool) (key : Nat) (l : Latch) : (cx.setLatch sys key l).sreg = cx.sreg := by cases sys <;> rfl
@[simp] theorem Ctx.setLatch_vreg (cx : Ctx) (sys : Bool) (key : Nat) (l : Latch) : (cx.setLatch sys key l).vreg = cx.vreg := by cases sys <;> rfl
@[simp] theorem Ctx.setLatch_empty (cx : Ctx) (sys : Bool) (key : Nat) (l : Latch) : (cx.setLatch sys key l).empty = cx.empty := by cases sys <;> rfl
@[simp] theorem Ctx.setLatch_g (cx : Ctx) (sys : Bool) (key : Nat) (l : Latch) : (cx.setLatch sys key l).g = cx.g := by cases sys <;> rfl
@[simp] theorem Ctx.setLatch_q (cx : Ctx) (sys : Bool) (key : Nat) (l : Latch) : (cx.setLatch sys key l).q = cx.q := by cases sys <;> rfl
@[simp] theorem Ctx.setLatch_modeSys (cx : Ctx) (sys : Bool) (key : Nat) (l : Latch) : (cx.setLatch sys key l).modeSys = cx.modeSys := by cases sys <;> rfl
@[simp] theorem Ctx.setLatch_trapCause (cx : Ctx) (sys : Bool) (key : Nat) (l : Latch) : (cx.setLatch sys key l).trapCause = cx.trapCause := by cases sys <;> rfl
@[simp] theorem Ctx.setLatch_trapPc (cx : Ctx) (sys : Bool) (key : Nat) (l : Latch) : (cx.setLatch sys key l).trapPc = cx.trapPc := by cases sys <;> rfl
@[simp] theorem Ctx.setLatch_trapInfo (cx : Ctx) (sys : Bool) (key : Nat) (l : Latch) : (cx.setLatch sys key l).trapInfo = cx.trapInfo := by cases sys <;> rfl
@[simp] theorem Ctx.setLatch_acflags (cx : Ctx) (sys : Bool) (key : Nat) (l : Latch) : (cx.setLatch sys key l).acflags = cx.acflags := by cases sys <;> rfl
@[simp] theorem Ctx.setLatch_loopctr (cx : Ctx) (sys : Bool) (key : Nat) (l : Latch) : (cx.setLatch sys key l).loopctr = cx.loopctr := by cases sys <;> rfl
@[simp] theorem Ctx.setLatch_stalls (cx : Ctx) (sys : Bool) (key : Nat) (l : Latch) : (cx.setLatch sys key l).stalls = cx.stalls := by cases sys <;> rfl
@[simp] theorem Ctx.setLatch_fmtFix (cx : Ctx) (sys : Bool) (key : Nat) (l : Latch) : (cx.setLatch sys key l).fmtFix = cx.fmtFix := by cases sys <;> rfl
@[simp] theorem Ctx.setLatch_fmtLevel (cx : Ctx) (sys : Bool) (key : Nat) (l : Latch) : (cx.setLatch sys key l).fmtLevel = cx.fmtLevel := by cases sys <;> rfl
@[simp] theorem Ctx.setLatch_qstall (cx : Ctx) (sys : Bool) (key : Nat) (l : Latch) : (cx.setLatch sys key l).qstall = cx.qstall := by cases sys <;> rfl
@[simp] theorem Ctx.setLatch_qmode (cx : Ctx) (sys : Bool) (key : Nat) (l : Latch) : (cx.setLatch sys key l).qmode = cx.qmode := by cases sys <;> rfl
@[simp] theorem Ctx.setLatch_strStream (cx : Ctx) (sys : Bool) (key : Nat) (l : Latch) : (cx.setLatch sys key l).strStream = cx.strStream := by cases sys <;> rfl
@[simp] theorem Ctx.setLatch_strDest (cx : Ctx) (sys : Bool) (key : Nat) (l : Latch) : (cx.setLatch sys key l).strDest = cx.strDest := by cases sys <;> rfl
@[simp] theorem Ctx.setLatch_strNext (cx : Ctx) (sys : Bool) (key : Nat) (l : Latch) : (cx.setLatch sys key l).strNext = cx.strNext := by cases sys <;> rfl
@[simp] theorem Ctx.setLatch_strFence (cx : Ctx) (sys : Bool) (key : Nat) (l : Latch) : (cx.setLatch sys key l).strFence = cx.strFence := by cases sys <;> rfl
@[simp] theorem Ctx.setLatch_uncommitted (cx : Ctx) (sys : Bool) (key : Nat) (l : Latch) : (cx.setLatch sys key l).uncommitted = cx.uncommitted := by cases sys <;> rfl
@[simp] theorem Ctx.setLatch_loops (cx : Ctx) (sys : Bool) (key : Nat) (l : Latch) : (cx.setLatch sys key l).loops = cx.loops := by cases sys <;> rfl
@[simp] theorem Ctx.setLatch_fmt (cx : Ctx) (sys : Bool) (key : Nat) (l : Latch) : (cx.setLatch sys key l).fmt = cx.fmt := by cases sys <;> rfl
@[simp] theorem Ctx.setLatch_state (cx : Ctx) (sys : Bool) (key : Nat) (l : Latch) : (cx.setLatch sys key l).state = cx.state := by cases sys <;> rfl
@[simp] theorem Ctx.setLatch_block (cx : Ctx) (sys : Bool) (key : Nat) (l : Latch) : (cx.setLatch sys key l).block = cx.block := by cases sys <;> rfl
@[simp] theorem Ctx.setLatch_seatedNow (cx : Ctx) (sys : Bool) (key : Nat) (l : Latch) : (cx.setLatch sys key l).seatedNow = cx.seatedNow := by cases sys <;> rfl
@[simp] theorem Ctx.setLatch_readySince (cx : Ctx) (sys : Bool) (key : Nat) (l : Latch) : (cx.setLatch sys key l).readySince = cx.readySince := by cases sys <;> rfl
@[simp] theorem Ctx.setLatch_seatedSince (cx : Ctx) (sys : Bool) (key : Nat) (l : Latch) : (cx.setLatch sys key l).seatedSince = cx.seatedSince := by cases sys <;> rfl
@[simp] theorem Ctx.setLatch_completing (cx : Ctx) (sys : Bool) (key : Nat) (l : Latch) : (cx.setLatch sys key l).completing = cx.completing := by cases sys <;> rfl
@[simp] theorem Ctx.setLatch_grants (cx : Ctx) (sys : Bool) (key : Nat) (l : Latch) : (cx.setLatch sys key l).grants = cx.grants := by cases sys <;> rfl
@[simp] theorem Ctx.setLatch_bankLost (cx : Ctx) (sys : Bool) (key : Nat) (l : Latch) : (cx.setLatch sys key l).bankLost = cx.bankLost := by cases sys <;> rfl
@[simp] theorem Ctx.setLatch_sysHalted (cx : Ctx) (sys : Bool) (key : Nat) (l : Latch) : (cx.setLatch sys key l).sysHalted = cx.sysHalted := by cases sys <;> rfl
@[simp] theorem Ctx.setLatch_userHalted (cx : Ctx) (sys : Bool) (key : Nat) (l : Latch) : (cx.setLatch sys key l).userHalted = cx.userHalted := by cases sys <;> rfl
@[simp] theorem Ctx.setLatch_pend (cx : Ctx) (sys : Bool) (key : Nat) (l : Latch) : (cx.setLatch sys key l).pend = cx.pend := by cases sys <;> rfl
@[simp] theorem Ctx.setLatch_preempt (cx : Ctx) (sys : Bool) (key : Nat) (l : Latch) : (cx.setLatch sys key l).preempt = cx.preempt := by cases sys <;> rfl
@[simp] theorem Ctx.setLatch_stopped (cx : Ctx) (sys : Bool) (key : Nat) (l : Latch) : (cx.setLatch sys key l).stopped = cx.stopped := by cases sys <;> rfl
@[simp] theorem Ctx.setLatch_timer (cx : Ctx) (sys : Bool) (key : Nat) (l : Latch) : (cx.setLatch sys key l).timer = cx.timer := by cases sys <;> rfl
@[simp] theorem Ctx.setLatch_late (cx : Ctx) (sys : Bool) (key : Nat) (l : Latch) : (cx.setLatch sys key l).late = cx.late := by cases sys <;> rfl
@[simp] theorem Ctx.setLatch_step (cx : Ctx) (sys : Bool) (key : Nat) (l : Latch) : (cx.setLatch sys key l).step = cx.step := by cases sys <;> rfl
@[simp] theorem Ctx.setLatch_saveReq (cx : Ctx) (sys : Bool) (key : Nat) (l : Latch) : (cx.setLatch sys key l).saveReq = cx.saveReq := by cases sys <;> rfl
@[simp] theorem Ctx.setLatch_doneIssued (cx : Ctx) (sys : Bool) (key : Nat) (l : Latch) : (cx.setLatch sys key l).doneIssued = cx.doneIssued := by cases sys <;> rfl
@[simp] theorem Ctx.setLatch_fences (cx : Ctx) (sys : Bool) (key : Nat) (l : Latch) : (cx.setLatch sys key l).fences = cx.fences := by cases sys <;> rfl
@[simp] theorem Ctx.setLatch_live (cx : Ctx) (sys : Bool) (key : Nat) (l : Latch) : (cx.setLatch sys key l).live = cx.live := by cases sys <;> rfl
@[simp] theorem Ctx.setLatch_acquireHold (cx : Ctx) (sys : Bool) (key : Nat) (l : Latch) : (cx.setLatch sys key l).acquireHold = cx.acquireHold := by cases sys <;> rfl
@[simp] theorem Ctx.setLatch_posted (cx : Ctx) (sys : Bool) (key : Nat) (l : Latch) : (cx.setLatch sys key l).posted = cx.posted := by cases sys <;> rfl
@[simp] theorem Ctx.setLatch_blockedSince (cx : Ctx) (sys : Bool) (key : Nat) (l : Latch) : (cx.setLatch sys key l).blockedSince = cx.blockedSince := by cases sys <;> rfl

@[simp] theorem Ctx.writeV_sreg (cx : Ctx) (cl n : Nat) (m : BitVec 16) (v : Line) : (cx.writeV cl n m v).sreg = cx.sreg := rfl
@[simp] theorem Ctx.writeV_empty (cx : Ctx) (cl n : Nat) (m : BitVec 16) (v : Line) : (cx.writeV cl n m v).empty = cx.empty := rfl
@[simp] theorem Ctx.writeV_g (cx : Ctx) (cl n : Nat) (m : BitVec 16) (v : Line) : (cx.writeV cl n m v).g = cx.g := rfl
@[simp] theorem Ctx.writeV_q (cx : Ctx) (cl n : Nat) (m : BitVec 16) (v : Line) : (cx.writeV cl n m v).q = cx.q := rfl
@[simp] theorem Ctx.writeV_user (cx : Ctx) (cl n : Nat) (m : BitVec 16) (v : Line) : (cx.writeV cl n m v).user = cx.user := rfl
@[simp] theorem Ctx.writeV_sys (cx : Ctx) (cl n : Nat) (m : BitVec 16) (v : Line) : (cx.writeV cl n m v).sys = cx.sys := rfl
@[simp] theorem Ctx.writeV_modeSys (cx : Ctx) (cl n : Nat) (m : BitVec 16) (v : Line) : (cx.writeV cl n m v).modeSys = cx.modeSys := rfl
@[simp] theorem Ctx.writeV_trapCause (cx : Ctx) (cl n : Nat) (m : BitVec 16) (v : Line) : (cx.writeV cl n m v).trapCause = cx.trapCause := rfl
@[simp] theorem Ctx.writeV_trapPc (cx : Ctx) (cl n : Nat) (m : BitVec 16) (v : Line) : (cx.writeV cl n m v).trapPc = cx.trapPc := rfl
@[simp] theorem Ctx.writeV_trapInfo (cx : Ctx) (cl n : Nat) (m : BitVec 16) (v : Line) : (cx.writeV cl n m v).trapInfo = cx.trapInfo := rfl
@[simp] theorem Ctx.writeV_acflags (cx : Ctx) (cl n : Nat) (m : BitVec 16) (v : Line) : (cx.writeV cl n m v).acflags = cx.acflags := rfl
@[simp] theorem Ctx.writeV_loopctr (cx : Ctx) (cl n : Nat) (m : BitVec 16) (v : Line) : (cx.writeV cl n m v).loopctr = cx.loopctr := rfl
@[simp] theorem Ctx.writeV_stalls (cx : Ctx) (cl n : Nat) (m : BitVec 16) (v : Line) : (cx.writeV cl n m v).stalls = cx.stalls := rfl
@[simp] theorem Ctx.writeV_fmtFix (cx : Ctx) (cl n : Nat) (m : BitVec 16) (v : Line) : (cx.writeV cl n m v).fmtFix = cx.fmtFix := rfl
@[simp] theorem Ctx.writeV_fmtLevel (cx : Ctx) (cl n : Nat) (m : BitVec 16) (v : Line) : (cx.writeV cl n m v).fmtLevel = cx.fmtLevel := rfl
@[simp] theorem Ctx.writeV_qstall (cx : Ctx) (cl n : Nat) (m : BitVec 16) (v : Line) : (cx.writeV cl n m v).qstall = cx.qstall := rfl
@[simp] theorem Ctx.writeV_qmode (cx : Ctx) (cl n : Nat) (m : BitVec 16) (v : Line) : (cx.writeV cl n m v).qmode = cx.qmode := rfl
@[simp] theorem Ctx.writeV_strStream (cx : Ctx) (cl n : Nat) (m : BitVec 16) (v : Line) : (cx.writeV cl n m v).strStream = cx.strStream := rfl
@[simp] theorem Ctx.writeV_strDest (cx : Ctx) (cl n : Nat) (m : BitVec 16) (v : Line) : (cx.writeV cl n m v).strDest = cx.strDest := rfl
@[simp] theorem Ctx.writeV_strNext (cx : Ctx) (cl n : Nat) (m : BitVec 16) (v : Line) : (cx.writeV cl n m v).strNext = cx.strNext := rfl
@[simp] theorem Ctx.writeV_strFence (cx : Ctx) (cl n : Nat) (m : BitVec 16) (v : Line) : (cx.writeV cl n m v).strFence = cx.strFence := rfl
@[simp] theorem Ctx.writeV_uncommitted (cx : Ctx) (cl n : Nat) (m : BitVec 16) (v : Line) : (cx.writeV cl n m v).uncommitted = cx.uncommitted := rfl
@[simp] theorem Ctx.writeV_loops (cx : Ctx) (cl n : Nat) (m : BitVec 16) (v : Line) : (cx.writeV cl n m v).loops = cx.loops := rfl
@[simp] theorem Ctx.writeV_fmt (cx : Ctx) (cl n : Nat) (m : BitVec 16) (v : Line) : (cx.writeV cl n m v).fmt = cx.fmt := rfl
@[simp] theorem Ctx.writeV_state (cx : Ctx) (cl n : Nat) (m : BitVec 16) (v : Line) : (cx.writeV cl n m v).state = cx.state := rfl
@[simp] theorem Ctx.writeV_block (cx : Ctx) (cl n : Nat) (m : BitVec 16) (v : Line) : (cx.writeV cl n m v).block = cx.block := rfl
@[simp] theorem Ctx.writeV_seatedNow (cx : Ctx) (cl n : Nat) (m : BitVec 16) (v : Line) : (cx.writeV cl n m v).seatedNow = cx.seatedNow := rfl
@[simp] theorem Ctx.writeV_readySince (cx : Ctx) (cl n : Nat) (m : BitVec 16) (v : Line) : (cx.writeV cl n m v).readySince = cx.readySince := rfl
@[simp] theorem Ctx.writeV_seatedSince (cx : Ctx) (cl n : Nat) (m : BitVec 16) (v : Line) : (cx.writeV cl n m v).seatedSince = cx.seatedSince := rfl
@[simp] theorem Ctx.writeV_completing (cx : Ctx) (cl n : Nat) (m : BitVec 16) (v : Line) : (cx.writeV cl n m v).completing = cx.completing := rfl
@[simp] theorem Ctx.writeV_grants (cx : Ctx) (cl n : Nat) (m : BitVec 16) (v : Line) : (cx.writeV cl n m v).grants = cx.grants := rfl
@[simp] theorem Ctx.writeV_bankLost (cx : Ctx) (cl n : Nat) (m : BitVec 16) (v : Line) : (cx.writeV cl n m v).bankLost = cx.bankLost := rfl
@[simp] theorem Ctx.writeV_sysHalted (cx : Ctx) (cl n : Nat) (m : BitVec 16) (v : Line) : (cx.writeV cl n m v).sysHalted = cx.sysHalted := rfl
@[simp] theorem Ctx.writeV_userHalted (cx : Ctx) (cl n : Nat) (m : BitVec 16) (v : Line) : (cx.writeV cl n m v).userHalted = cx.userHalted := rfl
@[simp] theorem Ctx.writeV_pend (cx : Ctx) (cl n : Nat) (m : BitVec 16) (v : Line) : (cx.writeV cl n m v).pend = cx.pend := rfl
@[simp] theorem Ctx.writeV_preempt (cx : Ctx) (cl n : Nat) (m : BitVec 16) (v : Line) : (cx.writeV cl n m v).preempt = cx.preempt := rfl
@[simp] theorem Ctx.writeV_stopped (cx : Ctx) (cl n : Nat) (m : BitVec 16) (v : Line) : (cx.writeV cl n m v).stopped = cx.stopped := rfl
@[simp] theorem Ctx.writeV_timer (cx : Ctx) (cl n : Nat) (m : BitVec 16) (v : Line) : (cx.writeV cl n m v).timer = cx.timer := rfl
@[simp] theorem Ctx.writeV_late (cx : Ctx) (cl n : Nat) (m : BitVec 16) (v : Line) : (cx.writeV cl n m v).late = cx.late := rfl
@[simp] theorem Ctx.writeV_step (cx : Ctx) (cl n : Nat) (m : BitVec 16) (v : Line) : (cx.writeV cl n m v).step = cx.step := rfl
@[simp] theorem Ctx.writeV_saveReq (cx : Ctx) (cl n : Nat) (m : BitVec 16) (v : Line) : (cx.writeV cl n m v).saveReq = cx.saveReq := rfl
@[simp] theorem Ctx.writeV_doneIssued (cx : Ctx) (cl n : Nat) (m : BitVec 16) (v : Line) : (cx.writeV cl n m v).doneIssued = cx.doneIssued := rfl
@[simp] theorem Ctx.writeV_fences (cx : Ctx) (cl n : Nat) (m : BitVec 16) (v : Line) : (cx.writeV cl n m v).fences = cx.fences := rfl
@[simp] theorem Ctx.writeV_live (cx : Ctx) (cl n : Nat) (m : BitVec 16) (v : Line) : (cx.writeV cl n m v).live = cx.live := rfl
@[simp] theorem Ctx.writeV_acquireHold (cx : Ctx) (cl n : Nat) (m : BitVec 16) (v : Line) : (cx.writeV cl n m v).acquireHold = cx.acquireHold := rfl
@[simp] theorem Ctx.writeV_posted (cx : Ctx) (cl n : Nat) (m : BitVec 16) (v : Line) : (cx.writeV cl n m v).posted = cx.posted := rfl
@[simp] theorem Ctx.writeV_blockedSince (cx : Ctx) (cl n : Nat) (m : BitVec 16) (v : Line) : (cx.writeV cl n m v).blockedSince = cx.blockedSince := rfl

@[simp] theorem Ctx.writeG_sreg (cx : Ctx) (cl n : Nat) (m v : BitVec 16) : (cx.writeG cl n m v).sreg = cx.sreg := rfl
@[simp] theorem Ctx.writeG_vreg (cx : Ctx) (cl n : Nat) (m v : BitVec 16) : (cx.writeG cl n m v).vreg = cx.vreg := rfl
@[simp] theorem Ctx.writeG_empty (cx : Ctx) (cl n : Nat) (m v : BitVec 16) : (cx.writeG cl n m v).empty = cx.empty := rfl
@[simp] theorem Ctx.writeG_q (cx : Ctx) (cl n : Nat) (m v : BitVec 16) : (cx.writeG cl n m v).q = cx.q := rfl
@[simp] theorem Ctx.writeG_user (cx : Ctx) (cl n : Nat) (m v : BitVec 16) : (cx.writeG cl n m v).user = cx.user := rfl
@[simp] theorem Ctx.writeG_sys (cx : Ctx) (cl n : Nat) (m v : BitVec 16) : (cx.writeG cl n m v).sys = cx.sys := rfl
@[simp] theorem Ctx.writeG_modeSys (cx : Ctx) (cl n : Nat) (m v : BitVec 16) : (cx.writeG cl n m v).modeSys = cx.modeSys := rfl
@[simp] theorem Ctx.writeG_trapCause (cx : Ctx) (cl n : Nat) (m v : BitVec 16) : (cx.writeG cl n m v).trapCause = cx.trapCause := rfl
@[simp] theorem Ctx.writeG_trapPc (cx : Ctx) (cl n : Nat) (m v : BitVec 16) : (cx.writeG cl n m v).trapPc = cx.trapPc := rfl
@[simp] theorem Ctx.writeG_trapInfo (cx : Ctx) (cl n : Nat) (m v : BitVec 16) : (cx.writeG cl n m v).trapInfo = cx.trapInfo := rfl
@[simp] theorem Ctx.writeG_acflags (cx : Ctx) (cl n : Nat) (m v : BitVec 16) : (cx.writeG cl n m v).acflags = cx.acflags := rfl
@[simp] theorem Ctx.writeG_loopctr (cx : Ctx) (cl n : Nat) (m v : BitVec 16) : (cx.writeG cl n m v).loopctr = cx.loopctr := rfl
@[simp] theorem Ctx.writeG_stalls (cx : Ctx) (cl n : Nat) (m v : BitVec 16) : (cx.writeG cl n m v).stalls = cx.stalls := rfl
@[simp] theorem Ctx.writeG_fmtFix (cx : Ctx) (cl n : Nat) (m v : BitVec 16) : (cx.writeG cl n m v).fmtFix = cx.fmtFix := rfl
@[simp] theorem Ctx.writeG_fmtLevel (cx : Ctx) (cl n : Nat) (m v : BitVec 16) : (cx.writeG cl n m v).fmtLevel = cx.fmtLevel := rfl
@[simp] theorem Ctx.writeG_qstall (cx : Ctx) (cl n : Nat) (m v : BitVec 16) : (cx.writeG cl n m v).qstall = cx.qstall := rfl
@[simp] theorem Ctx.writeG_qmode (cx : Ctx) (cl n : Nat) (m v : BitVec 16) : (cx.writeG cl n m v).qmode = cx.qmode := rfl
@[simp] theorem Ctx.writeG_strStream (cx : Ctx) (cl n : Nat) (m v : BitVec 16) : (cx.writeG cl n m v).strStream = cx.strStream := rfl
@[simp] theorem Ctx.writeG_strDest (cx : Ctx) (cl n : Nat) (m v : BitVec 16) : (cx.writeG cl n m v).strDest = cx.strDest := rfl
@[simp] theorem Ctx.writeG_strNext (cx : Ctx) (cl n : Nat) (m v : BitVec 16) : (cx.writeG cl n m v).strNext = cx.strNext := rfl
@[simp] theorem Ctx.writeG_strFence (cx : Ctx) (cl n : Nat) (m v : BitVec 16) : (cx.writeG cl n m v).strFence = cx.strFence := rfl
@[simp] theorem Ctx.writeG_uncommitted (cx : Ctx) (cl n : Nat) (m v : BitVec 16) : (cx.writeG cl n m v).uncommitted = cx.uncommitted := rfl
@[simp] theorem Ctx.writeG_loops (cx : Ctx) (cl n : Nat) (m v : BitVec 16) : (cx.writeG cl n m v).loops = cx.loops := rfl
@[simp] theorem Ctx.writeG_fmt (cx : Ctx) (cl n : Nat) (m v : BitVec 16) : (cx.writeG cl n m v).fmt = cx.fmt := rfl
@[simp] theorem Ctx.writeG_state (cx : Ctx) (cl n : Nat) (m v : BitVec 16) : (cx.writeG cl n m v).state = cx.state := rfl
@[simp] theorem Ctx.writeG_block (cx : Ctx) (cl n : Nat) (m v : BitVec 16) : (cx.writeG cl n m v).block = cx.block := rfl
@[simp] theorem Ctx.writeG_seatedNow (cx : Ctx) (cl n : Nat) (m v : BitVec 16) : (cx.writeG cl n m v).seatedNow = cx.seatedNow := rfl
@[simp] theorem Ctx.writeG_readySince (cx : Ctx) (cl n : Nat) (m v : BitVec 16) : (cx.writeG cl n m v).readySince = cx.readySince := rfl
@[simp] theorem Ctx.writeG_seatedSince (cx : Ctx) (cl n : Nat) (m v : BitVec 16) : (cx.writeG cl n m v).seatedSince = cx.seatedSince := rfl
@[simp] theorem Ctx.writeG_completing (cx : Ctx) (cl n : Nat) (m v : BitVec 16) : (cx.writeG cl n m v).completing = cx.completing := rfl
@[simp] theorem Ctx.writeG_grants (cx : Ctx) (cl n : Nat) (m v : BitVec 16) : (cx.writeG cl n m v).grants = cx.grants := rfl
@[simp] theorem Ctx.writeG_bankLost (cx : Ctx) (cl n : Nat) (m v : BitVec 16) : (cx.writeG cl n m v).bankLost = cx.bankLost := rfl
@[simp] theorem Ctx.writeG_sysHalted (cx : Ctx) (cl n : Nat) (m v : BitVec 16) : (cx.writeG cl n m v).sysHalted = cx.sysHalted := rfl
@[simp] theorem Ctx.writeG_userHalted (cx : Ctx) (cl n : Nat) (m v : BitVec 16) : (cx.writeG cl n m v).userHalted = cx.userHalted := rfl
@[simp] theorem Ctx.writeG_pend (cx : Ctx) (cl n : Nat) (m v : BitVec 16) : (cx.writeG cl n m v).pend = cx.pend := rfl
@[simp] theorem Ctx.writeG_preempt (cx : Ctx) (cl n : Nat) (m v : BitVec 16) : (cx.writeG cl n m v).preempt = cx.preempt := rfl
@[simp] theorem Ctx.writeG_stopped (cx : Ctx) (cl n : Nat) (m v : BitVec 16) : (cx.writeG cl n m v).stopped = cx.stopped := rfl
@[simp] theorem Ctx.writeG_timer (cx : Ctx) (cl n : Nat) (m v : BitVec 16) : (cx.writeG cl n m v).timer = cx.timer := rfl
@[simp] theorem Ctx.writeG_late (cx : Ctx) (cl n : Nat) (m v : BitVec 16) : (cx.writeG cl n m v).late = cx.late := rfl
@[simp] theorem Ctx.writeG_step (cx : Ctx) (cl n : Nat) (m v : BitVec 16) : (cx.writeG cl n m v).step = cx.step := rfl
@[simp] theorem Ctx.writeG_saveReq (cx : Ctx) (cl n : Nat) (m v : BitVec 16) : (cx.writeG cl n m v).saveReq = cx.saveReq := rfl
@[simp] theorem Ctx.writeG_doneIssued (cx : Ctx) (cl n : Nat) (m v : BitVec 16) : (cx.writeG cl n m v).doneIssued = cx.doneIssued := rfl
@[simp] theorem Ctx.writeG_fences (cx : Ctx) (cl n : Nat) (m v : BitVec 16) : (cx.writeG cl n m v).fences = cx.fences := rfl
@[simp] theorem Ctx.writeG_live (cx : Ctx) (cl n : Nat) (m v : BitVec 16) : (cx.writeG cl n m v).live = cx.live := rfl
@[simp] theorem Ctx.writeG_acquireHold (cx : Ctx) (cl n : Nat) (m v : BitVec 16) : (cx.writeG cl n m v).acquireHold = cx.acquireHold := rfl
@[simp] theorem Ctx.writeG_posted (cx : Ctx) (cl n : Nat) (m v : BitVec 16) : (cx.writeG cl n m v).posted = cx.posted := rfl
@[simp] theorem Ctx.writeG_blockedSince (cx : Ctx) (cl n : Nat) (m v : BitVec 16) : (cx.writeG cl n m v).blockedSince = cx.blockedSince := rfl

@[simp] theorem Ctx.writeQ_sreg (cx : Ctx) (n : Nat) (b : Bool) : (cx.writeQ n b).sreg = cx.sreg := rfl
@[simp] theorem Ctx.writeQ_vreg (cx : Ctx) (n : Nat) (b : Bool) : (cx.writeQ n b).vreg = cx.vreg := rfl
@[simp] theorem Ctx.writeQ_empty (cx : Ctx) (n : Nat) (b : Bool) : (cx.writeQ n b).empty = cx.empty := rfl
@[simp] theorem Ctx.writeQ_g (cx : Ctx) (n : Nat) (b : Bool) : (cx.writeQ n b).g = cx.g := rfl
@[simp] theorem Ctx.writeQ_user (cx : Ctx) (n : Nat) (b : Bool) : (cx.writeQ n b).user = cx.user := rfl
@[simp] theorem Ctx.writeQ_sys (cx : Ctx) (n : Nat) (b : Bool) : (cx.writeQ n b).sys = cx.sys := rfl
@[simp] theorem Ctx.writeQ_modeSys (cx : Ctx) (n : Nat) (b : Bool) : (cx.writeQ n b).modeSys = cx.modeSys := rfl
@[simp] theorem Ctx.writeQ_trapCause (cx : Ctx) (n : Nat) (b : Bool) : (cx.writeQ n b).trapCause = cx.trapCause := rfl
@[simp] theorem Ctx.writeQ_trapPc (cx : Ctx) (n : Nat) (b : Bool) : (cx.writeQ n b).trapPc = cx.trapPc := rfl
@[simp] theorem Ctx.writeQ_trapInfo (cx : Ctx) (n : Nat) (b : Bool) : (cx.writeQ n b).trapInfo = cx.trapInfo := rfl
@[simp] theorem Ctx.writeQ_acflags (cx : Ctx) (n : Nat) (b : Bool) : (cx.writeQ n b).acflags = cx.acflags := rfl
@[simp] theorem Ctx.writeQ_loopctr (cx : Ctx) (n : Nat) (b : Bool) : (cx.writeQ n b).loopctr = cx.loopctr := rfl
@[simp] theorem Ctx.writeQ_stalls (cx : Ctx) (n : Nat) (b : Bool) : (cx.writeQ n b).stalls = cx.stalls := rfl
@[simp] theorem Ctx.writeQ_fmtFix (cx : Ctx) (n : Nat) (b : Bool) : (cx.writeQ n b).fmtFix = cx.fmtFix := rfl
@[simp] theorem Ctx.writeQ_fmtLevel (cx : Ctx) (n : Nat) (b : Bool) : (cx.writeQ n b).fmtLevel = cx.fmtLevel := rfl
@[simp] theorem Ctx.writeQ_qstall (cx : Ctx) (n : Nat) (b : Bool) : (cx.writeQ n b).qstall = cx.qstall := rfl
@[simp] theorem Ctx.writeQ_qmode (cx : Ctx) (n : Nat) (b : Bool) : (cx.writeQ n b).qmode = cx.qmode := rfl
@[simp] theorem Ctx.writeQ_strStream (cx : Ctx) (n : Nat) (b : Bool) : (cx.writeQ n b).strStream = cx.strStream := rfl
@[simp] theorem Ctx.writeQ_strDest (cx : Ctx) (n : Nat) (b : Bool) : (cx.writeQ n b).strDest = cx.strDest := rfl
@[simp] theorem Ctx.writeQ_strNext (cx : Ctx) (n : Nat) (b : Bool) : (cx.writeQ n b).strNext = cx.strNext := rfl
@[simp] theorem Ctx.writeQ_strFence (cx : Ctx) (n : Nat) (b : Bool) : (cx.writeQ n b).strFence = cx.strFence := rfl
@[simp] theorem Ctx.writeQ_uncommitted (cx : Ctx) (n : Nat) (b : Bool) : (cx.writeQ n b).uncommitted = cx.uncommitted := rfl
@[simp] theorem Ctx.writeQ_loops (cx : Ctx) (n : Nat) (b : Bool) : (cx.writeQ n b).loops = cx.loops := rfl
@[simp] theorem Ctx.writeQ_fmt (cx : Ctx) (n : Nat) (b : Bool) : (cx.writeQ n b).fmt = cx.fmt := rfl
@[simp] theorem Ctx.writeQ_state (cx : Ctx) (n : Nat) (b : Bool) : (cx.writeQ n b).state = cx.state := rfl
@[simp] theorem Ctx.writeQ_block (cx : Ctx) (n : Nat) (b : Bool) : (cx.writeQ n b).block = cx.block := rfl
@[simp] theorem Ctx.writeQ_seatedNow (cx : Ctx) (n : Nat) (b : Bool) : (cx.writeQ n b).seatedNow = cx.seatedNow := rfl
@[simp] theorem Ctx.writeQ_readySince (cx : Ctx) (n : Nat) (b : Bool) : (cx.writeQ n b).readySince = cx.readySince := rfl
@[simp] theorem Ctx.writeQ_seatedSince (cx : Ctx) (n : Nat) (b : Bool) : (cx.writeQ n b).seatedSince = cx.seatedSince := rfl
@[simp] theorem Ctx.writeQ_completing (cx : Ctx) (n : Nat) (b : Bool) : (cx.writeQ n b).completing = cx.completing := rfl
@[simp] theorem Ctx.writeQ_grants (cx : Ctx) (n : Nat) (b : Bool) : (cx.writeQ n b).grants = cx.grants := rfl
@[simp] theorem Ctx.writeQ_bankLost (cx : Ctx) (n : Nat) (b : Bool) : (cx.writeQ n b).bankLost = cx.bankLost := rfl
@[simp] theorem Ctx.writeQ_sysHalted (cx : Ctx) (n : Nat) (b : Bool) : (cx.writeQ n b).sysHalted = cx.sysHalted := rfl
@[simp] theorem Ctx.writeQ_userHalted (cx : Ctx) (n : Nat) (b : Bool) : (cx.writeQ n b).userHalted = cx.userHalted := rfl
@[simp] theorem Ctx.writeQ_pend (cx : Ctx) (n : Nat) (b : Bool) : (cx.writeQ n b).pend = cx.pend := rfl
@[simp] theorem Ctx.writeQ_preempt (cx : Ctx) (n : Nat) (b : Bool) : (cx.writeQ n b).preempt = cx.preempt := rfl
@[simp] theorem Ctx.writeQ_stopped (cx : Ctx) (n : Nat) (b : Bool) : (cx.writeQ n b).stopped = cx.stopped := rfl
@[simp] theorem Ctx.writeQ_timer (cx : Ctx) (n : Nat) (b : Bool) : (cx.writeQ n b).timer = cx.timer := rfl
@[simp] theorem Ctx.writeQ_late (cx : Ctx) (n : Nat) (b : Bool) : (cx.writeQ n b).late = cx.late := rfl
@[simp] theorem Ctx.writeQ_step (cx : Ctx) (n : Nat) (b : Bool) : (cx.writeQ n b).step = cx.step := rfl
@[simp] theorem Ctx.writeQ_saveReq (cx : Ctx) (n : Nat) (b : Bool) : (cx.writeQ n b).saveReq = cx.saveReq := rfl
@[simp] theorem Ctx.writeQ_doneIssued (cx : Ctx) (n : Nat) (b : Bool) : (cx.writeQ n b).doneIssued = cx.doneIssued := rfl
@[simp] theorem Ctx.writeQ_fences (cx : Ctx) (n : Nat) (b : Bool) : (cx.writeQ n b).fences = cx.fences := rfl
@[simp] theorem Ctx.writeQ_live (cx : Ctx) (n : Nat) (b : Bool) : (cx.writeQ n b).live = cx.live := rfl
@[simp] theorem Ctx.writeQ_acquireHold (cx : Ctx) (n : Nat) (b : Bool) : (cx.writeQ n b).acquireHold = cx.acquireHold := rfl
@[simp] theorem Ctx.writeQ_posted (cx : Ctx) (n : Nat) (b : Bool) : (cx.writeQ n b).posted = cx.posted := rfl
@[simp] theorem Ctx.writeQ_blockedSince (cx : Ctx) (n : Nat) (b : Bool) : (cx.writeQ n b).blockedSince = cx.blockedSince := rfl

@[simp] theorem Ctx.putS_vreg (cx : Ctx) (key : Nat) (v : Dword) : (cx.putS key v).vreg = cx.vreg := by
  unfold Ctx.putS; split; · rfl
  simp only []; split <;> rfl
@[simp] theorem Ctx.putS_empty (cx : Ctx) (key : Nat) (v : Dword) : (cx.putS key v).empty = cx.empty := by
  unfold Ctx.putS; split; · rfl
  simp only []; split <;> rfl
@[simp] theorem Ctx.putS_g (cx : Ctx) (key : Nat) (v : Dword) : (cx.putS key v).g = cx.g := by
  unfold Ctx.putS; split; · rfl
  simp only []; split <;> rfl
@[simp] theorem Ctx.putS_q (cx : Ctx) (key : Nat) (v : Dword) : (cx.putS key v).q = cx.q := by
  unfold Ctx.putS; split; · rfl
  simp only []; split <;> rfl
@[simp] theorem Ctx.putS_user (cx : Ctx) (key : Nat) (v : Dword) : (cx.putS key v).user = cx.user := by
  unfold Ctx.putS; split; · rfl
  simp only []; split <;> rfl
@[simp] theorem Ctx.putS_sys (cx : Ctx) (key : Nat) (v : Dword) : (cx.putS key v).sys = cx.sys := by
  unfold Ctx.putS; split; · rfl
  simp only []; split <;> rfl
@[simp] theorem Ctx.putS_modeSys (cx : Ctx) (key : Nat) (v : Dword) : (cx.putS key v).modeSys = cx.modeSys := by
  unfold Ctx.putS; split; · rfl
  simp only []; split <;> rfl
@[simp] theorem Ctx.putS_trapCause (cx : Ctx) (key : Nat) (v : Dword) : (cx.putS key v).trapCause = cx.trapCause := by
  unfold Ctx.putS; split; · rfl
  simp only []; split <;> rfl
@[simp] theorem Ctx.putS_trapPc (cx : Ctx) (key : Nat) (v : Dword) : (cx.putS key v).trapPc = cx.trapPc := by
  unfold Ctx.putS; split; · rfl
  simp only []; split <;> rfl
@[simp] theorem Ctx.putS_trapInfo (cx : Ctx) (key : Nat) (v : Dword) : (cx.putS key v).trapInfo = cx.trapInfo := by
  unfold Ctx.putS; split; · rfl
  simp only []; split <;> rfl
@[simp] theorem Ctx.putS_acflags (cx : Ctx) (key : Nat) (v : Dword) : (cx.putS key v).acflags = cx.acflags := by
  unfold Ctx.putS; split; · rfl
  simp only []; split <;> rfl
@[simp] theorem Ctx.putS_loopctr (cx : Ctx) (key : Nat) (v : Dword) : (cx.putS key v).loopctr = cx.loopctr := by
  unfold Ctx.putS; split; · rfl
  simp only []; split <;> rfl
@[simp] theorem Ctx.putS_stalls (cx : Ctx) (key : Nat) (v : Dword) : (cx.putS key v).stalls = cx.stalls := by
  unfold Ctx.putS; split; · rfl
  simp only []; split <;> rfl
@[simp] theorem Ctx.putS_fmtFix (cx : Ctx) (key : Nat) (v : Dword) : (cx.putS key v).fmtFix = cx.fmtFix := by
  unfold Ctx.putS; split; · rfl
  simp only []; split <;> rfl
@[simp] theorem Ctx.putS_fmtLevel (cx : Ctx) (key : Nat) (v : Dword) : (cx.putS key v).fmtLevel = cx.fmtLevel := by
  unfold Ctx.putS; split; · rfl
  simp only []; split <;> rfl
@[simp] theorem Ctx.putS_qstall (cx : Ctx) (key : Nat) (v : Dword) : (cx.putS key v).qstall = cx.qstall := by
  unfold Ctx.putS; split; · rfl
  simp only []; split <;> rfl
@[simp] theorem Ctx.putS_qmode (cx : Ctx) (key : Nat) (v : Dword) : (cx.putS key v).qmode = cx.qmode := by
  unfold Ctx.putS; split; · rfl
  simp only []; split <;> rfl
@[simp] theorem Ctx.putS_strStream (cx : Ctx) (key : Nat) (v : Dword) : (cx.putS key v).strStream = cx.strStream := by
  unfold Ctx.putS; split; · rfl
  simp only []; split <;> rfl
@[simp] theorem Ctx.putS_strDest (cx : Ctx) (key : Nat) (v : Dword) : (cx.putS key v).strDest = cx.strDest := by
  unfold Ctx.putS; split; · rfl
  simp only []; split <;> rfl
@[simp] theorem Ctx.putS_strNext (cx : Ctx) (key : Nat) (v : Dword) : (cx.putS key v).strNext = cx.strNext := by
  unfold Ctx.putS; split; · rfl
  simp only []; split <;> rfl
@[simp] theorem Ctx.putS_strFence (cx : Ctx) (key : Nat) (v : Dword) : (cx.putS key v).strFence = cx.strFence := by
  unfold Ctx.putS; split; · rfl
  simp only []; split <;> rfl
@[simp] theorem Ctx.putS_uncommitted (cx : Ctx) (key : Nat) (v : Dword) : (cx.putS key v).uncommitted = cx.uncommitted := by
  unfold Ctx.putS; split; · rfl
  simp only []; split <;> rfl
@[simp] theorem Ctx.putS_loops (cx : Ctx) (key : Nat) (v : Dword) : (cx.putS key v).loops = cx.loops := by
  unfold Ctx.putS; split; · rfl
  simp only []; split <;> rfl
@[simp] theorem Ctx.putS_fmt (cx : Ctx) (key : Nat) (v : Dword) : (cx.putS key v).fmt = cx.fmt := by
  unfold Ctx.putS; split; · rfl
  simp only []; split <;> rfl
@[simp] theorem Ctx.putS_state (cx : Ctx) (key : Nat) (v : Dword) : (cx.putS key v).state = cx.state := by
  unfold Ctx.putS; split; · rfl
  simp only []; split <;> rfl
@[simp] theorem Ctx.putS_block (cx : Ctx) (key : Nat) (v : Dword) : (cx.putS key v).block = cx.block := by
  unfold Ctx.putS; split; · rfl
  simp only []; split <;> rfl
@[simp] theorem Ctx.putS_seatedNow (cx : Ctx) (key : Nat) (v : Dword) : (cx.putS key v).seatedNow = cx.seatedNow := by
  unfold Ctx.putS; split; · rfl
  simp only []; split <;> rfl
@[simp] theorem Ctx.putS_readySince (cx : Ctx) (key : Nat) (v : Dword) : (cx.putS key v).readySince = cx.readySince := by
  unfold Ctx.putS; split; · rfl
  simp only []; split <;> rfl
@[simp] theorem Ctx.putS_seatedSince (cx : Ctx) (key : Nat) (v : Dword) : (cx.putS key v).seatedSince = cx.seatedSince := by
  unfold Ctx.putS; split; · rfl
  simp only []; split <;> rfl
@[simp] theorem Ctx.putS_completing (cx : Ctx) (key : Nat) (v : Dword) : (cx.putS key v).completing = cx.completing := by
  unfold Ctx.putS; split; · rfl
  simp only []; split <;> rfl
@[simp] theorem Ctx.putS_grants (cx : Ctx) (key : Nat) (v : Dword) : (cx.putS key v).grants = cx.grants := by
  unfold Ctx.putS; split; · rfl
  simp only []; split <;> rfl
@[simp] theorem Ctx.putS_bankLost (cx : Ctx) (key : Nat) (v : Dword) : (cx.putS key v).bankLost = cx.bankLost := by
  unfold Ctx.putS; split; · rfl
  simp only []; split <;> rfl
@[simp] theorem Ctx.putS_sysHalted (cx : Ctx) (key : Nat) (v : Dword) : (cx.putS key v).sysHalted = cx.sysHalted := by
  unfold Ctx.putS; split; · rfl
  simp only []; split <;> rfl
@[simp] theorem Ctx.putS_userHalted (cx : Ctx) (key : Nat) (v : Dword) : (cx.putS key v).userHalted = cx.userHalted := by
  unfold Ctx.putS; split; · rfl
  simp only []; split <;> rfl
@[simp] theorem Ctx.putS_pend (cx : Ctx) (key : Nat) (v : Dword) : (cx.putS key v).pend = cx.pend := by
  unfold Ctx.putS; split; · rfl
  simp only []; split <;> rfl
@[simp] theorem Ctx.putS_preempt (cx : Ctx) (key : Nat) (v : Dword) : (cx.putS key v).preempt = cx.preempt := by
  unfold Ctx.putS; split; · rfl
  simp only []; split <;> rfl
@[simp] theorem Ctx.putS_stopped (cx : Ctx) (key : Nat) (v : Dword) : (cx.putS key v).stopped = cx.stopped := by
  unfold Ctx.putS; split; · rfl
  simp only []; split <;> rfl
@[simp] theorem Ctx.putS_timer (cx : Ctx) (key : Nat) (v : Dword) : (cx.putS key v).timer = cx.timer := by
  unfold Ctx.putS; split; · rfl
  simp only []; split <;> rfl
@[simp] theorem Ctx.putS_late (cx : Ctx) (key : Nat) (v : Dword) : (cx.putS key v).late = cx.late := by
  unfold Ctx.putS; split; · rfl
  simp only []; split <;> rfl
@[simp] theorem Ctx.putS_step (cx : Ctx) (key : Nat) (v : Dword) : (cx.putS key v).step = cx.step := by
  unfold Ctx.putS; split; · rfl
  simp only []; split <;> rfl
@[simp] theorem Ctx.putS_saveReq (cx : Ctx) (key : Nat) (v : Dword) : (cx.putS key v).saveReq = cx.saveReq := by
  unfold Ctx.putS; split; · rfl
  simp only []; split <;> rfl
@[simp] theorem Ctx.putS_doneIssued (cx : Ctx) (key : Nat) (v : Dword) : (cx.putS key v).doneIssued = cx.doneIssued := by
  unfold Ctx.putS; split; · rfl
  simp only []; split <;> rfl
@[simp] theorem Ctx.putS_fences (cx : Ctx) (key : Nat) (v : Dword) : (cx.putS key v).fences = cx.fences := by
  unfold Ctx.putS; split; · rfl
  simp only []; split <;> rfl
@[simp] theorem Ctx.putS_live (cx : Ctx) (key : Nat) (v : Dword) : (cx.putS key v).live = cx.live := by
  unfold Ctx.putS; split; · rfl
  simp only []; split <;> rfl
@[simp] theorem Ctx.putS_acquireHold (cx : Ctx) (key : Nat) (v : Dword) : (cx.putS key v).acquireHold = cx.acquireHold := by
  unfold Ctx.putS; split; · rfl
  simp only []; split <;> rfl
@[simp] theorem Ctx.putS_posted (cx : Ctx) (key : Nat) (v : Dword) : (cx.putS key v).posted = cx.posted := by
  unfold Ctx.putS; split; · rfl
  simp only []; split <;> rfl
@[simp] theorem Ctx.putS_blockedSince (cx : Ctx) (key : Nat) (v : Dword) : (cx.putS key v).blockedSince = cx.blockedSince := by
  unfold Ctx.putS; split; · rfl
  simp only []; split <;> rfl

@[simp] theorem Ctx.setEmpty_sreg (cx : Ctx) (key : Nat) (b : Bool) : (cx.setEmpty key b).sreg = cx.sreg := by
  unfold Ctx.setEmpty; split <;> rfl
@[simp] theorem Ctx.setEmpty_vreg (cx : Ctx) (key : Nat) (b : Bool) : (cx.setEmpty key b).vreg = cx.vreg := by
  unfold Ctx.setEmpty; split <;> rfl
@[simp] theorem Ctx.setEmpty_g (cx : Ctx) (key : Nat) (b : Bool) : (cx.setEmpty key b).g = cx.g := by
  unfold Ctx.setEmpty; split <;> rfl
@[simp] theorem Ctx.setEmpty_q (cx : Ctx) (key : Nat) (b : Bool) : (cx.setEmpty key b).q = cx.q := by
  unfold Ctx.setEmpty; split <;> rfl
@[simp] theorem Ctx.setEmpty_user (cx : Ctx) (key : Nat) (b : Bool) : (cx.setEmpty key b).user = cx.user := by
  unfold Ctx.setEmpty; split <;> rfl
@[simp] theorem Ctx.setEmpty_sys (cx : Ctx) (key : Nat) (b : Bool) : (cx.setEmpty key b).sys = cx.sys := by
  unfold Ctx.setEmpty; split <;> rfl
@[simp] theorem Ctx.setEmpty_modeSys (cx : Ctx) (key : Nat) (b : Bool) : (cx.setEmpty key b).modeSys = cx.modeSys := by
  unfold Ctx.setEmpty; split <;> rfl
@[simp] theorem Ctx.setEmpty_trapCause (cx : Ctx) (key : Nat) (b : Bool) : (cx.setEmpty key b).trapCause = cx.trapCause := by
  unfold Ctx.setEmpty; split <;> rfl
@[simp] theorem Ctx.setEmpty_trapPc (cx : Ctx) (key : Nat) (b : Bool) : (cx.setEmpty key b).trapPc = cx.trapPc := by
  unfold Ctx.setEmpty; split <;> rfl
@[simp] theorem Ctx.setEmpty_trapInfo (cx : Ctx) (key : Nat) (b : Bool) : (cx.setEmpty key b).trapInfo = cx.trapInfo := by
  unfold Ctx.setEmpty; split <;> rfl
@[simp] theorem Ctx.setEmpty_acflags (cx : Ctx) (key : Nat) (b : Bool) : (cx.setEmpty key b).acflags = cx.acflags := by
  unfold Ctx.setEmpty; split <;> rfl
@[simp] theorem Ctx.setEmpty_loopctr (cx : Ctx) (key : Nat) (b : Bool) : (cx.setEmpty key b).loopctr = cx.loopctr := by
  unfold Ctx.setEmpty; split <;> rfl
@[simp] theorem Ctx.setEmpty_stalls (cx : Ctx) (key : Nat) (b : Bool) : (cx.setEmpty key b).stalls = cx.stalls := by
  unfold Ctx.setEmpty; split <;> rfl
@[simp] theorem Ctx.setEmpty_fmtFix (cx : Ctx) (key : Nat) (b : Bool) : (cx.setEmpty key b).fmtFix = cx.fmtFix := by
  unfold Ctx.setEmpty; split <;> rfl
@[simp] theorem Ctx.setEmpty_fmtLevel (cx : Ctx) (key : Nat) (b : Bool) : (cx.setEmpty key b).fmtLevel = cx.fmtLevel := by
  unfold Ctx.setEmpty; split <;> rfl
@[simp] theorem Ctx.setEmpty_qstall (cx : Ctx) (key : Nat) (b : Bool) : (cx.setEmpty key b).qstall = cx.qstall := by
  unfold Ctx.setEmpty; split <;> rfl
@[simp] theorem Ctx.setEmpty_qmode (cx : Ctx) (key : Nat) (b : Bool) : (cx.setEmpty key b).qmode = cx.qmode := by
  unfold Ctx.setEmpty; split <;> rfl
@[simp] theorem Ctx.setEmpty_strStream (cx : Ctx) (key : Nat) (b : Bool) : (cx.setEmpty key b).strStream = cx.strStream := by
  unfold Ctx.setEmpty; split <;> rfl
@[simp] theorem Ctx.setEmpty_strDest (cx : Ctx) (key : Nat) (b : Bool) : (cx.setEmpty key b).strDest = cx.strDest := by
  unfold Ctx.setEmpty; split <;> rfl
@[simp] theorem Ctx.setEmpty_strNext (cx : Ctx) (key : Nat) (b : Bool) : (cx.setEmpty key b).strNext = cx.strNext := by
  unfold Ctx.setEmpty; split <;> rfl
@[simp] theorem Ctx.setEmpty_strFence (cx : Ctx) (key : Nat) (b : Bool) : (cx.setEmpty key b).strFence = cx.strFence := by
  unfold Ctx.setEmpty; split <;> rfl
@[simp] theorem Ctx.setEmpty_uncommitted (cx : Ctx) (key : Nat) (b : Bool) : (cx.setEmpty key b).uncommitted = cx.uncommitted := by
  unfold Ctx.setEmpty; split <;> rfl
@[simp] theorem Ctx.setEmpty_dirtymap (cx : Ctx) (key : Nat) (b : Bool) : (cx.setEmpty key b).dirtymap = cx.dirtymap := by
  unfold Ctx.setEmpty; split <;> rfl
@[simp] theorem Ctx.setEmpty_loops (cx : Ctx) (key : Nat) (b : Bool) : (cx.setEmpty key b).loops = cx.loops := by
  unfold Ctx.setEmpty; split <;> rfl
@[simp] theorem Ctx.setEmpty_fmt (cx : Ctx) (key : Nat) (b : Bool) : (cx.setEmpty key b).fmt = cx.fmt := by
  unfold Ctx.setEmpty; split <;> rfl
@[simp] theorem Ctx.setEmpty_state (cx : Ctx) (key : Nat) (b : Bool) : (cx.setEmpty key b).state = cx.state := by
  unfold Ctx.setEmpty; split <;> rfl
@[simp] theorem Ctx.setEmpty_block (cx : Ctx) (key : Nat) (b : Bool) : (cx.setEmpty key b).block = cx.block := by
  unfold Ctx.setEmpty; split <;> rfl
@[simp] theorem Ctx.setEmpty_seatedNow (cx : Ctx) (key : Nat) (b : Bool) : (cx.setEmpty key b).seatedNow = cx.seatedNow := by
  unfold Ctx.setEmpty; split <;> rfl
@[simp] theorem Ctx.setEmpty_readySince (cx : Ctx) (key : Nat) (b : Bool) : (cx.setEmpty key b).readySince = cx.readySince := by
  unfold Ctx.setEmpty; split <;> rfl
@[simp] theorem Ctx.setEmpty_seatedSince (cx : Ctx) (key : Nat) (b : Bool) : (cx.setEmpty key b).seatedSince = cx.seatedSince := by
  unfold Ctx.setEmpty; split <;> rfl
@[simp] theorem Ctx.setEmpty_completing (cx : Ctx) (key : Nat) (b : Bool) : (cx.setEmpty key b).completing = cx.completing := by
  unfold Ctx.setEmpty; split <;> rfl
@[simp] theorem Ctx.setEmpty_grants (cx : Ctx) (key : Nat) (b : Bool) : (cx.setEmpty key b).grants = cx.grants := by
  unfold Ctx.setEmpty; split <;> rfl
@[simp] theorem Ctx.setEmpty_bankLost (cx : Ctx) (key : Nat) (b : Bool) : (cx.setEmpty key b).bankLost = cx.bankLost := by
  unfold Ctx.setEmpty; split <;> rfl
@[simp] theorem Ctx.setEmpty_sysHalted (cx : Ctx) (key : Nat) (b : Bool) : (cx.setEmpty key b).sysHalted = cx.sysHalted := by
  unfold Ctx.setEmpty; split <;> rfl
@[simp] theorem Ctx.setEmpty_userHalted (cx : Ctx) (key : Nat) (b : Bool) : (cx.setEmpty key b).userHalted = cx.userHalted := by
  unfold Ctx.setEmpty; split <;> rfl
@[simp] theorem Ctx.setEmpty_pend (cx : Ctx) (key : Nat) (b : Bool) : (cx.setEmpty key b).pend = cx.pend := by
  unfold Ctx.setEmpty; split <;> rfl
@[simp] theorem Ctx.setEmpty_preempt (cx : Ctx) (key : Nat) (b : Bool) : (cx.setEmpty key b).preempt = cx.preempt := by
  unfold Ctx.setEmpty; split <;> rfl
@[simp] theorem Ctx.setEmpty_stopped (cx : Ctx) (key : Nat) (b : Bool) : (cx.setEmpty key b).stopped = cx.stopped := by
  unfold Ctx.setEmpty; split <;> rfl
@[simp] theorem Ctx.setEmpty_timer (cx : Ctx) (key : Nat) (b : Bool) : (cx.setEmpty key b).timer = cx.timer := by
  unfold Ctx.setEmpty; split <;> rfl
@[simp] theorem Ctx.setEmpty_late (cx : Ctx) (key : Nat) (b : Bool) : (cx.setEmpty key b).late = cx.late := by
  unfold Ctx.setEmpty; split <;> rfl
@[simp] theorem Ctx.setEmpty_step (cx : Ctx) (key : Nat) (b : Bool) : (cx.setEmpty key b).step = cx.step := by
  unfold Ctx.setEmpty; split <;> rfl
@[simp] theorem Ctx.setEmpty_saveReq (cx : Ctx) (key : Nat) (b : Bool) : (cx.setEmpty key b).saveReq = cx.saveReq := by
  unfold Ctx.setEmpty; split <;> rfl
@[simp] theorem Ctx.setEmpty_doneIssued (cx : Ctx) (key : Nat) (b : Bool) : (cx.setEmpty key b).doneIssued = cx.doneIssued := by
  unfold Ctx.setEmpty; split <;> rfl
@[simp] theorem Ctx.setEmpty_fences (cx : Ctx) (key : Nat) (b : Bool) : (cx.setEmpty key b).fences = cx.fences := by
  unfold Ctx.setEmpty; split <;> rfl
@[simp] theorem Ctx.setEmpty_live (cx : Ctx) (key : Nat) (b : Bool) : (cx.setEmpty key b).live = cx.live := by
  unfold Ctx.setEmpty; split <;> rfl
@[simp] theorem Ctx.setEmpty_acquireHold (cx : Ctx) (key : Nat) (b : Bool) : (cx.setEmpty key b).acquireHold = cx.acquireHold := by
  unfold Ctx.setEmpty; split <;> rfl
@[simp] theorem Ctx.setEmpty_posted (cx : Ctx) (key : Nat) (b : Bool) : (cx.setEmpty key b).posted = cx.posted := by
  unfold Ctx.setEmpty; split <;> rfl
@[simp] theorem Ctx.setEmpty_blockedSince (cx : Ctx) (key : Nat) (b : Bool) : (cx.setEmpty key b).blockedSince = cx.blockedSince := by
  unfold Ctx.setEmpty; split <;> rfl

end Sys2Proof.Machine
end

