-- ==== Sys2Proof/Laws/Issue.lean ====
section
/-!
SUPPORT. What an attempt to issue a bundle of one occupied slot does.
-/

namespace Sys2Proof.Machine

/-! ## One slot -/

theorem vreads_one (k : Nat) (m : Mv) (d : BitVec 10) : (vReadsOf k m d).any
    (fun c => decide (2 < tabGet 0 ((vReadsOf k m d).foldl (fun t c => tabSet 0 t c (tabGet 0 t c + 1)) []) c)) = false := by
  unfold vReadsOf
  by_cases a : 0x040 ≤ m.s.toNat ∧ m.s.toNat ≤ 0x07F <;> by_cases b : 0x0B0 ≤ d.toNat ∧ d.toNat ≤ 0x0B7
  · by_cases e : k = d.toNat - 0x0B0
    · simp [a, b, e, tabSet, tabGet, tabPut]
    · have e' : d.toNat - 0x0B0 ≠ k := fun h => e h.symm
      by_cases l : d.toNat - 0x0B0 < k <;> simp [a, b, tabSet, tabGet, tabPut, e, l, e']
  · simp [a, b, tabSet, tabGet, tabPut]
  · simp [a, b, tabSet, tabGet, tabPut]
  · simp [a, b]

/-- One move breaks no limit of Table 11.6. -/
theorem limits_one (k : Nat) (m : Mv) (d : BitVec 10) : (({} : Limits).add k m d).2 = none := by
  unfold Limits.add
  simp only [List.contains_nil, Bool.and_false, Bool.or_false, vreads_one]
  cases sharedUnit d <;> cases sharedDst d <;> simp <;> split <;> omega

theorem collision_one (k : Nat) (kind : SlotKind) : collision {} [{ k := k, kind := kind }] = none := by
  unfold collision
  cases (Slot.mv { k := k, kind := kind }) with
  | none => rfl
  | some p =>
    have h := limits_one k p.1 p.2
    split
    · rfl
    · rename_i e; cases e
      split
      · rename_i q; rw [q] at h; cases h
      · rfl

/-- A plain source moves no queue. -/
theorem plain_cases {k : SrcKind} (h : k.plain = true) : (∀ n, k ≠ .pop n) ∧ (∀ n, k ≠ .peek n) := by
  cases k <;> simp_all [SrcKind.plain]

/-- The item of a slot that issues alone. -/
def State.soloItem (s : State) (m : Mv) (d : BitVec 10) (kind : SlotKind) : Item :=
  { slot := s.turn.slot, m := m, d := d, kind := kind
    live := (decide (m.g.toNat = 0) || !sharedDst d || s.hereCtx.readQ m.g.toNat)
    mask := if m.g.toNat = 0 then 0xFFFF else if sharedDst d then (if s.hereCtx.readQ m.g.toNat then 0xFFFF else 0)
      else s.hereCtx.readG s.turn.slot m.g.toNat
    raw := s.source s.here s.turn.slot m.s, v := s.moved m d, dry := none, queue := none }

theorem readSlots_one (s : State) (kind : SlotKind) (m : Mv) (d : BitVec 10)
    (hm : Slot.mv { k := s.turn.slot, kind := kind } = some (m, d)) (hp : ∀ m d k, kind ≠ .push m d k)
    (hs : (srcKind m.s).plain = true) :
    readSlots s s.here s [{ k := s.turn.slot, kind := kind }] = ([s.soloItem m d kind], s) := by
  cases hk : srcKind m.s <;> simp only [hk, SrcKind.plain, Bool.false_eq_true] at hs <;>
  cases kind with
  | push m d k => exact absurd rfl (hp m d k)
  | _ => simp only [readSlots, hm, hk, State.soloItem, State.moved, State.hereCtx, State.here, Bool.or_false]; rfl

theorem plain_kind {k : SrcKind} (h : k.plain = true) : k ≠ .reserved ∧ ∀ a n, k ≠ .imm a n := by
  cases k <;> simp_all [SrcKind.plain]

theorem firstOf_none {α : Type} (l : List (Option α)) (h : ∀ o ∈ l, o = none) : firstOf l = none := by
  induction l with
  | nil => rfl
  | cons a l ih =>
    rw [h a (by simp)]
    exact ih (fun o ho => h o (by simp [ho]))

/-- The encoding of a plain move that can be made is legal. -/
theorem encoding_legal (s : State) (m : Mv) (d : BitVec 10) (kind : SlotKind)
    (hr : ∀ m d, kind ≠ .reserved m d) (hread : s.readable m = true) (hh : (!m.h || isOperandPort d) = true) :
    encodingIllegal s.here (s.soloItem m d kind) = none := by
  simp only [State.readable, Bool.and_eq_true, bne_iff_ne, ne_eq] at hread
  obtain ⟨⟨h1, h2⟩, -⟩ := hread
  obtain ⟨h3, h4⟩ := plain_kind h2
  have hh' : (m.h && !isOperandPort d) = false := by
    revert hh
    cases m.h <;> cases isOperandPort d <;> simp
  have hs : ∀ (f : Nat → Nat → Option Nat), (match srcKind m.s with
    | .reserved => some m.s.toNat
    | .imm k n => f k n
    | _ => none) = none := by
    intro f
    cases hk : srcKind m.s <;> simp_all
  unfold encodingIllegal
  simp only [State.soloItem, hh', h1, if_false, Bool.false_eq_true]

/-- A readable source is no empty register. -/
theorem reg_full (s : State) (m : Mv) (d : BitVec 10) (kind : SlotKind) (extra : List (Nat × Nat))
    (hread : s.readable m = true) (hx : extra.all (fun p => !s.hereCtx.isEmpty p.1) = true) :
    regEmpty s s.here (s.soloItem m d kind) extra = none := by
  have hf : extra.find? (fun p => s.hereCtx.isEmpty p.1) = none := by
    rw [List.find?_eq_none]
    intro p hp
    have := List.all_eq_true.mp hx p hp
    simpa using this
  simp only [State.readable, Bool.and_eq_true] at hread
  obtain ⟨-, h⟩ := hread
  simp only [regEmpty, State.soloItem, State.here]
  simp only [State.hereCtx] at hf h
  rw [hf]
  have key : ∀ (b : Bool) (o : Option Nat), o = none → (if b = true then none else o) = none := by
    intro b o h; cases b <;> simp [h]
  apply key
  · cases hk : srcEmptyKey s.hereSys s.turn.slot m.s with
    | none => rfl
    | some k =>
      rw [hk] at h
      have : (s.ctx s.turn.core s.turn.ctx).isEmpty k = false := by simpa using h
      simp [this]

theorem startStep_ctx (s : State) (e : Site) (c x : Nat) : (s.startStep e).ctx c x = s.ctx c x := by
  unfold State.startStep
  split
  · split <;> rfl
  · rfl

/-- The argument of the trigger of a slot that issues alone. -/
theorem argOf_solo (s : State) (wr : Ctx) (m : Mv) (d : BitVec 10) (op : Op) (hw : wr = s.hereCtx) :
    argOf s wr s.here [] (s.soloItem m d (.trigger m d op)) op = s.argHere m d op := by
  subst hw
  have hm : (if sharedDst d then (0xFFFF : BitVec 16) else
      if m.g.toNat = 0 then 0xFFFF else if sharedDst d then (if s.hereCtx.readQ m.g.toNat then 0xFFFF else 0)
      else s.hereCtx.readG s.turn.slot m.g.toNat) = s.moveMask m d := by
    unfold State.moveMask
    by_cases b : m.g = 0
    · simp [b]
    · have b' : m.g.toNat ≠ 0 := fun h => b (BitVec.eq_of_toNat_eq h)
      by_cases a : sharedDst d = true
      · simp [a]
      · simp only [a, b', if_false, Bool.false_or, Bool.false_eq_true]; simp; exact fun h => absurd h b
  simp only [argOf, State.soloItem, State.argHere, State.here]
  rw [← hm]
  rfl

/-! ## A trigger -/

/-- An operation without accesses of the own slice at issue is served. -/
@[simp] theorem banksServe_nil (s : State) (e : Site) (taken : List Nat) : s.banksServe e taken [] = true := rfl

/-- What `fires` says, part by part. -/
structure State.Fires (s : State) (m : Mv) (d : BitVec 10) (op : Op) : Prop where
  run     : s.canRun = true
  read    : s.readable m = true
  guard   : s.guardOpen m d = true
  held    : (!m.h || isOperandPort d) = true
  mode    : (!op.sysOnly || s.hereSys) = true
  priv    : op.priv (s.argHere m d op) = none
  plane   : (op.userOnly && s.hereSys) = false
  illegal : op.illegal (s.argHere m d op) = none
  needs   : (op.needs (s.argHere m d op).val).all (fun p => (s.operandLatch p).valid) = true
  lacks   : op.lacks (s.argHere m d op) = none
  reads   : (op.reads (s.argHere m d op)).all (fun p => !s.hereCtx.isEmpty p.1) = true
  dests   : (op.dests (s.argHere m d op)).all (fun k => !s.hereCtx.isEmpty k) = true
  traps   : op.traps (s.argHere m d op) = none
  queue   : ∀ u, op.unit (s.argHere m d op) = some u → s.queueFull s.turn.core s.turn.ctx u = false
  raises  : op.raises (s.argHere m d op) = none
  fmt     : op.fmtWait (s.argHere m d op) = false
  acquire : (op.access && s.hereCtx.acquiring) = false
  gate    : op.gate (s.argHere m d op) = .go
  banks   : s.banksServe s.here [] ((op.lines (s.argHere m d op)).map bankOf) = true
  loops   : ((op.branch (s.argHere m d op)).isSome || s.loopsFull) = true

theorem fires_parts {s : State} {m : Mv} {d : BitVec 10} {op : Op} (h : s.fires m d op = true) : s.Fires m d op := by
  simp only [State.fires, State.canMove, Bool.and_eq_true, Option.isNone_iff_eq_none, Bool.not_eq_true'] at h
  obtain ⟨⟨⟨⟨⟨⟨⟨⟨⟨⟨⟨⟨⟨⟨⟨⟨⟨⟨⟨h1, h2⟩, h3⟩, h4⟩, h5⟩, h6⟩, h7⟩, h8⟩, h9⟩, h10⟩, h11⟩, h12⟩, h13⟩, h14⟩, h15⟩, h16⟩, h17⟩, h18⟩, h19⟩, h20⟩ := h
  refine ⟨h1, h2, h3, h4, h5, h6, h7, h8, h9, h10, h11, h12, h13, ?_, h15, h16, h17, ?_, h20, h19⟩
  · intro u hu
    rw [hu] at h14
    simpa using h14
  · revert h18
    cases op.gate (s.argHere m d op) <;> simp [Gate.opened]

theorem State.Fires.live {s : State} {m : Mv} {d : BitVec 10} {op : Op} (h : s.Fires m d op) :
    (s.soloItem m d (.trigger m d op)).live = true := by
  have := h.guard
  simp only [State.guardOpen, Bool.or_eq_true] at this
  simp only [State.soloItem, Bool.or_eq_true, decide_eq_true_eq]
  rcases this with (g | g) | g
  · left; left; rw [eq_of_beq g]; rfl
  · left; right; exact g
  · right; exact g

theorem State.Fires.cause {s : State} {m : Mv} {d : BitVec 10} {op : Op} (h : s.Fires m d op) {wr : Ctx} (hw : wr = s.hereCtx) :
    slotsCause s wr s.here [] [s.soloItem m d (.trigger m d op)] = none := by
  have hc : slotCause s wr s.here [] (s.soloItem m d (.trigger m d op)) = none := by
    have hq : queueIllegal s s.here (s.soloItem m d (.trigger m d op)) = none := rfl
    have hn : emptyOperand wr s.here (s.soloItem m d (.trigger m d op)) op (s.argHere m d op).val = none := by
      unfold emptyOperand
      rw [List.find?_eq_none]
      intro p hp
      have := List.all_eq_true.mp h.needs p hp
      subst hw
      simpa [State.operandLatch, State.soloItem, State.here] using this
    have hpr : (if (op.sysOnly && !s.here.sys) = true then some d.toNat else op.priv (s.argHere m d op)) = none := by
      have := h.mode
      rw [if_neg, h.priv]
      revert this
      simp only [State.here]
      cases op.sysOnly <;> cases s.hereSys <;> simp
    have hpl : (if (op.userOnly && s.here.sys) = true then some d.toNat else none) = (none : Option Nat) := by
      rw [if_neg]
      simpa [State.here] using h.plane
    have hu : (match op.unit (s.argHere m d op) with
        | some u =>
          if (s.queueFull s.here.core s.here.ctx u && !((s.argHere m d op).cx.qmode.getLsbD u)) = true
          then some (causeQueueFull, u, 0) else none
        | none => none) = (none : Option Cause) := by
      cases hk : op.unit (s.argHere m d op) with
      | none => rfl
      | some u =>
        have := h.queue u hk
        have hq' : s.queueFull s.here.core s.here.ctx u = false := this
        simp [hq']
    have harg := argOf_solo s wr m d op hw
    have hlive := h.live
    have henc := encoding_legal s m d (.trigger m d op) (fun _ _ => nofun) h.read h.held
    have hreg := reg_full s m d (.trigger m d op) _ h.read h.reads
    have hkind : (s.soloItem m d (.trigger m d op)).kind = .trigger m d op := rfl
    generalize s.soloItem m d (.trigger m d op) = it at *
    unfold slotCause
    simp only [hkind, hlive, Bool.not_true, if_false, Bool.false_eq_true, harg]
    apply firstOf_none
    intro o ho
    simp only [List.mem_cons, List.not_mem_nil, or_false] at ho
    rcases ho with rfl | rfl | rfl | rfl | rfl | rfl | rfl | rfl | rfl | rfl | rfl
    · rw [hpr]; rfl
    · rw [henc]; rfl
    · rw [hq]; rfl
    · rw [hpl]; rfl
    · rw [h.illegal]; rfl
    · rw [hn]; rfl
    · rw [h.lacks]; rfl
    · rw [hreg]; rfl
    · exact h.traps
    · exact hu
    · rw [h.raises]; rfl
  simp only [slotsCause, hc]

theorem State.Fires.full {s : State} {m : Mv} {d : BitVec 10} {op : Op} (h : s.Fires m d op) {wr : Ctx} (hw : wr = s.hereCtx) :
    emptyKeys s wr s.here [s.soloItem m d (.trigger m d op)] = [] := by
  have harg := argOf_solo s wr m d op hw
  have hlive := h.live
  have hread := h.read
  simp only [State.readable, Bool.and_eq_true] at hread
  have hsrc := hread.2
  have hbr : branchOf s wr s.here [s.soloItem m d (.trigger m d op)] = op.branch (s.argHere m d op) := by
    have hkind : (s.soloItem m d (.trigger m d op)).kind = .trigger m d op := rfl
    simp only [branchOf, List.map, hkind, hlive, if_true, harg]
    cases op.branch (s.argHere m d op) <;> rfl
  unfold emptyKeys
  rw [List.filter_eq_nil_iff]
  intro k hk
  simp only [List.mem_append] at hk
  simp only [Bool.not_eq_true]
  rcases hk with hk | hk
  · have hkind : (s.soloItem m d (.trigger m d op)).kind = .trigger m d op := rfl
    simp only [List.flatMap_cons, List.flatMap_nil, List.append_nil, hkind, hlive, Bool.not_true, if_false,
      Bool.false_eq_true, harg, List.mem_append, Option.mem_toList, List.mem_map] at hk
    rcases hk with hk | ⟨p, hp, rfl⟩ | hk
    · have hk' : srcEmptyKey s.hereSys s.turn.slot m.s = some k := hk
      rw [hk'] at hsrc
      exact (Bool.not_eq_true' _).mp hsrc
    · exact (Bool.not_eq_true' _).mp (List.all_eq_true.mp h.reads p hp)
    · exact (Bool.not_eq_true' _).mp (List.all_eq_true.mp h.dests k hk)
  · rw [hbr] at hk
    have hl := h.loops
    by_cases hb : (op.branch (s.argHere m d op)).isSome = true
    · simp [hb] at hk
    · simp only [Bool.not_eq_true] at hb
      rw [hb, Bool.false_or] at hl
      simp only [State.loopsFull] at hl
      by_cases hs : s.hereSys = true
      · simp [State.here, hs] at hk
      · simp only [Bool.not_eq_true] at hs
        simp only [hs, Bool.false_or] at hl
        simp only [State.here, hs, hb, Bool.or_self, Bool.false_eq_true, if_false] at hk
        exact (Bool.not_eq_true' _).mp (List.all_eq_true.mp hl k hk)

theorem State.Fires.queues {s : State} {m : Mv} {d : BitVec 10} {op : Op} (h : s.Fires m d op) {wr : Ctx} (hw : wr = s.hereCtx) :
    fullUnits s wr s.here [s.soloItem m d (.trigger m d op)] = [] := by
  have harg := argOf_solo s wr m d op hw
  have hlive := h.live
  have hkind : (s.soloItem m d (.trigger m d op)).kind = .trigger m d op := rfl
  simp only [fullUnits, hkind, List.filterMap_cons, List.filterMap_nil, hlive, Bool.not_true, if_false,
    Bool.false_eq_true, harg]
  cases hk : op.unit (s.argHere m d op) with
  | none => rfl
  | some u =>
    have : s.queueFull s.here.core s.here.ctx u = false := h.queue u hk
    simp [this]

theorem State.Fires.gates {s : State} {m : Mv} {d : BitVec 10} {op : Op} (h : s.Fires m d op) {wr : Ctx} (hw : wr = s.hereCtx) :
    gatesOf s wr s.here [s.soloItem m d (.trigger m d op)] = .go := by
  have harg := argOf_solo s wr m d op hw
  have hlive := h.live
  have ha : (op.access && (s.ctx s.here.core s.here.ctx).acquiring) = false := h.acquire
  have hkind : (s.soloItem m d (.trigger m d op)).kind = .trigger m d op := rfl
  simp only [gatesOf, List.foldl, hkind, hlive, Bool.not_true, if_false, Bool.false_eq_true, ha, harg]
  exact h.gate

theorem State.Fires.banksOf {s : State} {m : Mv} {d : BitVec 10} {op : Op} (h : s.Fires m d op) {wr : Ctx} (hw : wr = s.hereCtx) :
    banksOf s wr s.here [s.soloItem m d (.trigger m d op)] = (op.lines (s.argHere m d op)).map bankOf := by
  have harg := argOf_solo s wr m d op hw
  have hlive := h.live
  have hkind : (s.soloItem m d (.trigger m d op)).kind = .trigger m d op := rfl
  simp only [Machine.banksOf, List.flatMap_cons, List.flatMap_nil, List.append_nil, hkind, hlive, if_true, harg]

/-- The items of the slot pass the judgement of R247. -/
theorem judge_fires {s : State} {m : Mv} {d : BitVec 10} {op : Op} (h : s.Fires m d op) :
    s.judge s.here [{ k := s.turn.slot, kind := .trigger m d op }] []
      = .go [s.soloItem m d (.trigger m d op)] s := by
  have hread := h.read
  simp only [State.readable, Bool.and_eq_true] at hread
  have hclean : tabGet false (s.core s.here.core).untagged ((s.ctx s.here.core s.here.ctx).plane s.here.sys).pc.toNat = true := by
    have := h.run
    simp only [State.canRun, Bool.and_eq_true] at this
    exact this.2
  have hitems : readSlots s s.here s [{ k := s.turn.slot, kind := .trigger m d op }]
      = ([s.soloItem m d (.trigger m d op)], s) :=
    readSlots_one s _ m d rfl (fun _ _ _ => nofun) hread.1.2
  have hwait : ∀ wr, wr = s.hereCtx → ([s.soloItem m d (.trigger m d op)].any (fun it => match it.kind with
      | .trigger _ _ op => it.live && op.fmtWait (argOf s wr s.here [] it op)
      | _ => false)) = false := by
    intro wr hw
    have := argOf_solo s wr m d op hw
    have hkind : (s.soloItem m d (.trigger m d op)).kind = .trigger m d op := rfl
    simp only [List.any_cons, List.any_nil, Bool.or_false, hkind, this, h.fmt, Bool.and_false]
  unfold State.judge State.judgeOn
  simp only [hclean, Bool.not_true, if_false, Bool.false_eq_true, collision_one, hitems]
  refine Eq.trans (if_neg (Bool.eq_false_iff.mp (hwait _ rfl))) ?_
  have hdry : (s.soloItem m d (.trigger m d op)).dry = none := rfl
  rw [State.Fires.cause h]
  · simp only []
    rw [State.Fires.full h]
    · simp only [List.find?, hdry, Option.isSome_none]
      rw [State.Fires.queues h]
      · simp only []
        rw [State.Fires.gates h]
        · simp only []
          rw [State.Fires.banksOf h]
          · simp only [h.banks, if_true]
          · rfl
        · rfl
      · rfl
    · rfl
  · rfl

/-- What `canRun` says. -/
theorem canRun_parts {s : State} (h : s.canRun = true) :
    s.canIssue s.turn.core s.turn.ctx = true ∧ s.hereCtx.completing = [] ∧ s.hereCtx.doneIssued = false
      ∧ (s.hereSys = true ∨ s.hereCtx.preempt = false ∧ s.hereCtx.firstPending = none) := by
  simp only [State.canRun, Bool.and_eq_true, Bool.or_eq_true, Option.isNone_iff_eq_none, List.isEmpty_iff, Bool.not_eq_true'] at h
  exact ⟨h.1.1.1.1, h.1.1.1.2, h.1.1.2, h.1.2⟩

/-- A context that can run judges its bundle. -/
theorem attempt_runs {s : State} (h : s.canRun = true) {slots : List Slot} (hc : carriersOf slots = [])
    {its : List Item} {popped : State} (hj : s.judge s.here slots [] = .go its popped) :
    s.attempt s.turn.core s.turn.ctx slots = s.perform popped s.here its := by
  obtain ⟨h1, h2, hd, h3⟩ := canRun_parts h
  have hsite : s.site s.turn.core s.turn.ctx slots = s.here := by simp only [State.site, hc]; rfl
  have h2' : (s.ctx s.turn.core s.turn.ctx).completing = [] := h2
  have hw : (s.ctx s.turn.core s.turn.ctx).waits = false := by unfold Ctx.waits; rw [h2']; exact hd
  have hj' : s.judgeOn s [] s.here slots [] = .go its popped := hj
  unfold State.attempt State.attemptOn
  simp only [hsite, h1, Bool.not_true, if_false, Bool.false_eq_true, hw, h2', List.isEmpty_nil, Bool.and_true, hj']
  rcases h3 with h3 | ⟨h3, h4⟩
  · have : s.here.sys = true := h3
    simp [this]
  · have h3' : (s.ctx s.turn.core s.turn.ctx).preempt = false := h3
    have h4' : (s.ctx s.turn.core s.turn.ctx).firstPending = none := h4
    simp [h3', h4']

/-- The effect of a bundle of one trigger. -/
theorem perform_trigger {s : State} {m : Mv} {d : BitVec 10} {op : Op} (h : s.Fires m d op) :
    s.perform s s.here [s.soloItem m d (.trigger m d op)] = s.fired m d op := by
  have hkind : (s.soloItem m d (.trigger m d op)).kind = .trigger m d op := rfl
  have hlive := h.live
  have hw : writeItems s.here (s.startStep s.here) [s.soloItem m d (.trigger m d op)] = s.startStep s.here := rfl
  have harg : argOf s ((s.startStep s.here).ctx s.here.core s.here.ctx) s.here []
      (s.soloItem m d (.trigger m d op)) op = s.argHere m d op :=
    argOf_solo s _ m d op (startStep_ctx ..)
  have hbr : branchOf s ((s.startStep s.here).ctx s.here.core s.here.ctx) s.here [s.soloItem m d (.trigger m d op)]
      = op.branch (s.argHere m d op) := by
    simp only [branchOf, List.map, hkind, hlive, if_true, harg]
    cases op.branch (s.argHere m d op) <;> rfl
  have hslot : (s.soloItem m d (.trigger m d op)).slot = s.turn.slot := rfl
  unfold State.perform
  simp only [hw, hbr, List.foldl, List.map, fireItem, finItem, itemWeight, hkind, hlive, Bool.not_true, if_false, if_true,
    Bool.false_eq_true, harg, Nat.zero_add, hslot]
  unfold State.fired State.proceed State.acted
  simp only []
  cases op.branch (s.argHere m d op) with
  | some t => rfl
  | none =>
    rfl

/-- A trigger that fires: the attempt of its context answers `fired`. -/
theorem attempt_fires {s : State} {m : Mv} {d : BitVec 10} {op : Op} (h : s.fires m d op = true) :
    s.attempt s.turn.core s.turn.ctx [{ k := s.turn.slot, kind := .trigger m d op }] = s.fired m d op := by
  have hf := fires_parts h
  rw [attempt_runs hf.run rfl (judge_fires hf), perform_trigger hf]

/-- The meaning of a trigger that fires. -/
theorem issueTrigger_fires {s : State} {m : Mv} {d : BitVec 10} {op : Op} (h : s.fires m d op = true) :
    issueTrigger m d op s = .next (s.fired m d op) := by
  unfold issueTrigger issueOne
  rw [attempt_fires h]

end Sys2Proof.Machine
end

