-- ==== Sys2Proof/Laws/Lanes.lean ====
section
/-!
SUPPORT. Lanes of 512-bit values: a line built from its lanes has those lanes, and a masked write changes those of the mask.
-/

namespace Sys2Proof.Machine

theorem getLsbD_ofLanes (ws : List Word) (i : Nat) (h : i < 512) :
    (ofLanes ws).getLsbD i = (ws.getD (i / 32) 0).getLsbD (i % 32) := by
  induction ws generalizing i with
  | nil => simp [ofLanes]
  | cons w ws ih =>
    rw [ofLanes, BitVec.getLsbD_or, BitVec.getLsbD_shiftLeft, BitVec.getLsbD_setWidth]
    by_cases h' : i < 32
    · simp [h, h', Nat.div_eq_of_lt h', Nat.mod_eq_of_lt h']
    · have h1 : w.getLsbD i = false := BitVec.getLsbD_of_ge _ _ (by omega)
      have h2 : i / 32 = (i - 32) / 32 + 1 := by omega
      have h3 : i % 32 = (i - 32) % 32 := by omega
      rw [ih (i - 32) (by omega), h2, h3]
      simp [h, h', h1]

theorem getLsbD_lane (v : Line) (l i : Nat) : (lane v l).getLsbD i = (decide (i < 32) && v.getLsbD (32 * l + i)) := by
  simp [lane, BitVec.getLsbD_extractLsb']

theorem allOnes_or_zero (b : Bool) (i : Nat) (h : i < 32) :
    (if b = true then BitVec.allOnes 32 else (0 : Word)).getLsbD i = b := by
  cases b
  · simp
  · rw [if_pos rfl, BitVec.getLsbD_allOnes]; simp [h]

/-- A line built lane by lane has those lanes. -/
@[simp] theorem lane_mapLanes (f : Nat → Word) (l : Nat) (h : l < 16) : lane (mapLanes f) l = f l := by
  have h3 : (laneIx.map f).getD l 0 = f l := by
    interval_cases l <;> rfl
  apply BitVec.eq_of_getLsbD_eq
  intro i hi
  rw [getLsbD_lane, mapLanes, getLsbD_ofLanes _ _ (by omega), show (32 * l + i) / 32 = l by omega,
    show (32 * l + i) % 32 = i by omega, h3, decide_eq_true hi, Bool.true_and]

/-- A write under a mask. -/
theorem lane_mergeLanes (g : BitVec 16) (old new : Line) (l : Nat) (h : l < 16) :
    lane (mergeLanes g old new) l = if g.getLsbD l then lane new l else lane old l := by
  have hm : ∀ i, i < 32 → (laneMask g).getLsbD (32 * l + i) = g.getLsbD l := by
    intro i hi
    have e := congrArg (fun w => BitVec.getLsbD w i) (lane_mapLanes (fun l => if g.getLsbD l then BitVec.allOnes 32 else 0) l h)
    simp only [getLsbD_lane, decide_eq_true hi, Bool.true_and] at e
    rw [show laneMask g = mapLanes (fun l => if g.getLsbD l then BitVec.allOnes 32 else 0) from rfl, e]
    exact allOnes_or_zero _ _ hi
  apply BitVec.eq_of_getLsbD_eq
  intro i hi
  have hw : 32 * l + i < 512 := by omega
  have e (v : Line) : (lane v l).getLsbD i = v.getLsbD (32 * l + i) := by
    rw [getLsbD_lane, decide_eq_true hi, Bool.true_and]
  rw [e, mergeLanes, BitVec.getLsbD_or, BitVec.getLsbD_and, BitVec.getLsbD_and, BitVec.getLsbD_not, hm i hi]
  cases hg : g.getLsbD l
  · rw [if_neg (by simp), e, decide_eq_true hw]; simp only [Bool.and_false, Bool.not_false, Bool.and_true, Bool.false_or]
  · rw [if_pos rfl, e]; simp only [Bool.and_true, Bool.not_true, Bool.and_false, Bool.or_false]

/-- The low 64 bits of a scalar held in a line. -/
@[simp] theorem low64_ofDword (v : Dword) : low64 (ofDword v) = v := by
  apply BitVec.eq_of_getLsbD_eq
  intro i hi
  rw [low64, ofDword, BitVec.getLsbD_extractLsb', BitVec.getLsbD_setWidth]
  simp only [Nat.zero_add, decide_eq_true hi, decide_eq_true (show i < 512 by omega), Bool.true_and]

end Sys2Proof.Machine
end

