-- ==== Sys2Proof/Laws/Tab.lean ====
section
/-!
SUPPORT. Sparse tables: what a read finds after a write, and that every write keeps the canonical form.
-/

namespace Sys2Proof.Machine

/-! ## Reads after writes -/

@[simp] theorem tabGet_put_same {α : Type} (d : α) (t : Tab α) (k : Nat) (v : α) : tabGet d (tabPut t k v) k = v := by
  induction t with
  | nil => simp [tabPut, tabGet]
  | cons p t ih =>
    simp only [tabPut]
    by_cases h : k < p.1
    · simp [h, tabGet]
    · by_cases h' : k = p.1
      · simp [h', tabGet]
      · have h'' : p.1 ≠ k := fun e => h' e.symm
        simp [h, h', h'', tabGet, ih]

theorem tabPut_put {α : Type} (t : Tab α) (k : Nat) (v w : α) : tabPut (tabPut t k v) k w = tabPut t k w := by
  induction t with
  | nil => simp [tabPut]
  | cons p t ih =>
    obtain ⟨j, a⟩ := p
    by_cases h1 : k < j
    · simp [tabPut, h1]
    · by_cases h2 : k = j
      · simp [tabPut, h2]
      · simp [tabPut, h1, h2, ih]

theorem tabGet_put_other {α : Type} (d : α) (t : Tab α) {j k : Nat} (v : α) (h : j ≠ k) :
    tabGet d (tabPut t k v) j = tabGet d t j := by
  have hk : k ≠ j := fun e => h e.symm
  induction t with
  | nil => simp [tabPut, tabGet, hk]
  | cons p t ih =>
    simp only [tabPut]
    split
    · simp [tabGet, hk]
    · split
      · rename_i e; subst e; simp [tabGet, hk]
      · simp [tabGet, ih]

/-- Keys below a bound are not in a table whose keys start there. -/
theorem tabGet_below {α : Type} [DecidableEq α] (d : α) (t : Tab α) {lo k : Nat} (h : tabWfFrom d lo t = true) (hk : k < lo) :
    tabGet d t k = d := by
  induction t generalizing lo with
  | nil => rfl
  | cons p t ih =>
    simp only [tabWfFrom, Bool.and_eq_true, decide_eq_true_eq] at h
    have : p.1 ≠ k := by omega
    simp only [tabGet, this, if_false]
    exact ih h.2 (by omega)

theorem tabWfFrom_mono {α : Type} [DecidableEq α] (d : α) (t : Tab α) {lo lo' : Nat} (h : tabWfFrom d lo t = true)
    (hl : lo' ≤ lo) : tabWfFrom d lo' t = true := by
  cases t with
  | nil => rfl
  | cons p t =>
    simp only [tabWfFrom, Bool.and_eq_true, decide_eq_true_eq] at h ⊢
    exact ⟨⟨by omega, h.1.2⟩, h.2⟩

@[simp] theorem tabGet_del_same {α : Type} (d : α) (t : Tab α) (k : Nat) : tabGet d (tabDel t k) k = d := by
  induction t with
  | nil => rfl
  | cons p t ih =>
    simp only [tabDel]
    split
    · exact ih
    · simp_all [tabGet]

theorem tabGet_del_other {α : Type} (d : α) (t : Tab α) {j k : Nat} (h : j ≠ k) :
    tabGet d (tabDel t k) j = tabGet d t j := by
  induction t with
  | nil => rfl
  | cons p t ih =>
    simp only [tabDel]
    split
    · rename_i e
      have : p.1 ≠ j := fun e' => h (e'.symm.trans e)
      simp [tabGet, this, ih]
    · simp [tabGet, ih]

theorem tabGet_set_other {α : Type} [DecidableEq α] (d : α) (t : Tab α) {j k : Nat} (v : α) (h : j ≠ k) :
    tabGet d (tabSet d t k v) j = tabGet d t j := by
  unfold tabSet
  split
  · exact tabGet_del_other d t h
  · exact tabGet_put_other d t v h

@[simp] theorem tabGet_set_same {α : Type} [DecidableEq α] (d : α) (t : Tab α) (k : Nat) (v : α) :
    tabGet d (tabSet d t k v) k = v := by
  unfold tabSet
  split
  · rename_i e; rw [tabGet_del_same, e]
  · exact tabGet_put_same d t k v

/-! ## The canonical form -/

theorem tabWfFrom_put {α : Type} [DecidableEq α] (d : α) (t : Tab α) (k : Nat) {v : α} (hv : v ≠ d) {lo : Nat}
    (h : tabWfFrom d lo t = true) (hk : lo ≤ k) : tabWfFrom d lo (tabPut t k v) = true := by
  induction t generalizing lo with
  | nil => simp [tabPut, tabWfFrom, hk, hv]
  | cons p t ih =>
    simp only [tabWfFrom, Bool.and_eq_true, decide_eq_true_eq] at h
    obtain ⟨⟨h1, h2⟩, h3⟩ := h
    simp only [tabPut]
    by_cases ha : k < p.1
    · rw [if_pos ha]
      simp only [tabWfFrom, Bool.and_eq_true, decide_eq_true_eq]
      exact ⟨⟨hk, hv⟩, ⟨⟨by omega, h2⟩, h3⟩⟩
    · rw [if_neg ha]
      by_cases hb : k = p.1
      · rw [if_pos hb]
        simp only [tabWfFrom, Bool.and_eq_true, decide_eq_true_eq]
        exact ⟨⟨hk, hv⟩, hb ▸ h3⟩
      · rw [if_neg hb]
        simp only [tabWfFrom, Bool.and_eq_true, decide_eq_true_eq]
        exact ⟨⟨h1, h2⟩, ih h3 (by omega)⟩

theorem tabWfFrom_del {α : Type} [DecidableEq α] (d : α) (t : Tab α) (k : Nat) {lo : Nat}
    (h : tabWfFrom d lo t = true) : tabWfFrom d lo (tabDel t k) = true := by
  induction t generalizing lo with
  | nil => rfl
  | cons p t ih =>
    simp only [tabWfFrom, Bool.and_eq_true, decide_eq_true_eq] at h
    obtain ⟨⟨h1, h2⟩, h3⟩ := h
    simp only [tabDel]
    split
    · exact tabWfFrom_mono d _ (ih h3) (by omega)
    · simp only [tabWfFrom, Bool.and_eq_true, decide_eq_true_eq]
      exact ⟨⟨h1, h2⟩, ih h3⟩

/-- A write keeps the canonical form. -/
theorem tabWf_set {α : Type} [DecidableEq α] (d : α) {t : Tab α} (h : tabWf d t = true) (k : Nat) (v : α) :
    tabWf d (tabSet d t k v) = true := by
  unfold tabSet
  split
  · exact tabWfFrom_del d t k h
  · exact tabWfFrom_put d t k ‹_› h (Nat.zero_le k)

theorem tabWfFrom_filter {α : Type} [DecidableEq α] (d : α) (p : Nat × α → Bool) (t : Tab α) {lo : Nat}
    (h : tabWfFrom d lo t = true) : tabWfFrom d lo (t.filter p) = true := by
  induction t generalizing lo with
  | nil => rfl
  | cons q t ih =>
    simp only [tabWfFrom, Bool.and_eq_true, decide_eq_true_eq] at h
    obtain ⟨⟨h1, h2⟩, h3⟩ := h
    rw [List.filter_cons]
    split
    · simp only [tabWfFrom, Bool.and_eq_true, decide_eq_true_eq]; exact ⟨⟨h1, h2⟩, ih h3⟩
    · exact ih (tabWfFrom_mono d t h3 (by omega))

/-- Dropping entries keeps the canonical form. -/
theorem tabWf_filter {α : Type} [DecidableEq α] (d : α) {t : Tab α} (p : Nat × α → Bool) (h : tabWf d t = true) :
    tabWf d (t.filter p) = true := tabWfFrom_filter d p t h

theorem tabWf_clear {α : Type} [DecidableEq α] (d : α) {t : Tab α} (h : tabWf d t = true) (lo hi : Nat) :
    tabWf d (tabClear t lo hi) = true := tabWf_filter d _ h

/-! ## Bytes -/

/-- Writing bytes keeps the canonical form. -/
theorem tabWf_writeBytes {m : List Host.Cell} (h : tabWf 0 m = true) (a : Nat) (bs : List Byte) :
    tabWf 0 (writeBytes m a bs) = true := by
  induction bs generalizing m a with
  | nil => exact h
  | cons b bs ih => exact ih (tabWf_set 0 h a b) (a + 1)

/-- A byte outside the bytes written is as before. -/
theorem tabGet_writeBytes_outside (m : List Host.Cell) (a : Nat) (bs : List Byte) (j : Nat)
    (h : j < a ∨ a + bs.length ≤ j) : tabGet 0 (writeBytes m a bs) j = tabGet 0 m j := by
  induction bs generalizing m a with
  | nil => rfl
  | cons b bs ih =>
    simp only [List.length_cons] at h
    rw [writeBytes, ih _ _ (by omega), tabGet_set_other]
    omega

/-- A byte among those written is the one written. -/
theorem tabGet_writeBytes_inside (m : List Host.Cell) (a : Nat) (bs : List Byte) (i : Nat)
    (h : i < bs.length) : tabGet 0 (writeBytes m a bs) (a + i) = bs[i] := by
  induction bs generalizing m a i with
  | nil => exact absurd h (Nat.not_lt_zero _)
  | cons b bs ih =>
    rw [writeBytes]
    cases i with
    | zero =>
      rw [tabGet_writeBytes_outside _ _ _ _ (by omega)]
      exact tabGet_set_same 0 m a b
    | succ i =>
      have := ih (tabSet 0 m a b) (a + 1) i (by simpa using h)
      rw [show a + (i + 1) = a + 1 + i by omega, this]
      rfl

@[simp] theorem length_readBytes (m : List Host.Cell) (a n : Nat) : (readBytes m a n).length = n := by
  induction n generalizing a with
  | zero => rfl
  | succ n ih => simp [readBytes, ih]

theorem getElem_readBytes (m : List Host.Cell) (a n i : Nat) (h : i < n) :
    (readBytes m a n)[i]'(by simpa using h) = tabGet 0 m (a + i) := by
  induction n generalizing a i with
  | zero => exact absurd h (Nat.not_lt_zero _)
  | succ n ih =>
    cases i with
    | zero => rfl
    | succ i =>
      simp only [readBytes, List.getElem_cons_succ]
      rw [ih (a + 1) i (by omega), show a + 1 + i = a + (i + 1) by omega]

/-- Bytes read are those that stand there. -/
theorem readBytes_ext (m m' : List Host.Cell) (a n : Nat) (h : ∀ i, i < n → tabGet 0 m (a + i) = tabGet 0 m' (a + i)) :
    readBytes m a n = readBytes m' a n := by
  apply List.ext_getElem (by simp)
  intro i h1 h2
  have hi : i < n := by simpa using h1
  rw [getElem_readBytes _ _ _ _ hi, getElem_readBytes _ _ _ _ hi, h i hi]

/-- Reading back what was written. -/
theorem readBytes_writeBytes (m : List Host.Cell) (a : Nat) (bs : List Byte) :
    readBytes (writeBytes m a bs) a bs.length = bs := by
  apply List.ext_getElem (by simp)
  intro i h1 h2
  rw [getElem_readBytes _ _ _ _ h2, tabGet_writeBytes_inside _ _ _ _ h2]

@[simp] theorem length_leBytes (v n : Nat) : (leBytes v n).length = n := by
  induction n generalizing v with
  | zero => rfl
  | succ n ih => simp [leBytes, ih]

/-- The little-endian bytes of a value give its low bytes back. -/
theorem leNat_leBytes (v n : Nat) : leNat (leBytes v n) = v % 256 ^ n := by
  induction n generalizing v with
  | zero => simp [leBytes, leNat, Nat.mod_one]
  | succ n ih =>
    simp only [leBytes, leNat, ih, BitVec.toNat_ofNat]
    have h : (256 : Nat) ^ (n + 1) = 256 * 256 ^ n := by ring
    rw [h, Nat.mod_mul]

/-! ## Many writes at once -/

/-- The keys of a list of writes rise. -/
def rises {α : Type} (ws : Tab α) : Prop := ws.Pairwise (fun a b => a.1 < b.1)

theorem tabSet_default {α : Type} [DecidableEq α] (d : α) (t : Tab α) (k : Nat) : tabSet d t k d = tabDel t k := if_pos rfl

theorem tabSet_value {α : Type} [DecidableEq α] {d : α} (t : Tab α) (k : Nat) {v : α} (h : v ≠ d) :
    tabSet d t k v = tabPut t k v := if_neg h

theorem tabSet_cons_above {α : Type} [DecidableEq α] (d : α) (p : Nat × α) (t : Tab α) {k : Nat} (w : α) (h : p.1 < k) :
    tabSet d (p :: t) k w = p :: tabSet d t k w := by
  have h1 : ¬ k < p.1 := by omega
  have h2 : k ≠ p.1 := by omega
  have h3 : p.1 ≠ k := by omega
  unfold tabSet
  split <;> simp [tabDel, tabPut, h1, h2, h3]

theorem foldl_tabSet_cons {α : Type} [DecidableEq α] (d : α) (p : Nat × α) (t ws : Tab α) (h : ∀ w ∈ ws, p.1 < w.1) :
    ws.foldl (fun t w => tabSet d t w.1 w.2) (p :: t) = p :: ws.foldl (fun t w => tabSet d t w.1 w.2) t := by
  induction ws generalizing t with
  | nil => rfl
  | cons w ws ih =>
    simp only [List.foldl_cons, tabSet_cons_above d p t w.2 (h w (by simp))]
    exact ih _ (fun x hx => h x (by simp [hx]))

theorem tabDel_below {α : Type} [DecidableEq α] (d : α) (t : Tab α) {lo k : Nat} (h : tabWfFrom d lo t = true) (hk : k < lo) :
    tabDel t k = t := by
  induction t generalizing lo with
  | nil => rfl
  | cons p t ih =>
    simp only [tabWfFrom, Bool.and_eq_true, decide_eq_true_eq] at h
    have : p.1 ≠ k := by omega
    simp only [tabDel, this, if_false, ih h.2 (by omega)]

/-- A list of writes with rising keys leaves what its writes leave one after another. -/
theorem tabSetAll_eq {α : Type} [DecidableEq α] (d : α) (t ws : Tab α) {lo : Nat} (h : tabWfFrom d lo t = true)
    (hw : rises ws) : tabSetAll d t ws = ws.foldl (fun t w => tabSet d t w.1 w.2) t := by
  induction t generalizing ws lo with
  | nil =>
    induction ws with
    | nil => rfl
    | cons w ws ih =>
      obtain ⟨k, w⟩ := w
      have hw' := List.pairwise_cons.1 hw
      have ih := ih hw'.2
      simp only [tabSetAll, List.foldl_cons] at ih ⊢
      by_cases e : w = d
      · subst e
        simp only [tabSet_default, tabDel, ← ih]
        simp
      · simp only [tabSet_value _ k e, tabPut, foldl_tabSet_cons d (k, w) [] ws hw'.1, ← ih]
        simp [e]
  | cons p t iht =>
    obtain ⟨k, v⟩ := p
    have hp := h
    simp only [tabWfFrom, Bool.and_eq_true, decide_eq_true_eq] at hp
    induction ws with
    | nil => simp [tabSetAll, tabBefore]
    | cons w ws ih =>
      obtain ⟨k', w⟩ := w
      have hw' := List.pairwise_cons.1 hw
      have ih := ih hw'.2
      simp only [List.foldl_cons]
      by_cases h1 : k' < k
      · have hf : (if w = d then tabSetAll d ((k, v) :: t) ws else (k', w) :: tabSetAll d ((k, v) :: t) ws)
            = tabSetAll d ((k, v) :: t) ((k', w) :: ws) := by
          simp only [tabSetAll, tabBefore, h1, if_true]
          split <;> simp
        rw [← hf, ih]
        by_cases e : w = d
        · subst e
          simp only [if_true, tabSet_default]
          rw [tabDel_below w ((k, v) :: t) (lo := k) (by simp [tabWfFrom, hp]) h1]
        · simp only [e, if_false, tabSet_value _ k' e, tabPut, h1, if_true]
          exact (foldl_tabSet_cons d (k', w) _ ws hw'.1).symm
      · by_cases h2 : k' = k
        · subst h2
          simp only [tabSetAll, tabBefore, h1, if_false, if_true, List.nil_append]
          rw [iht ws hp.2 hw'.2]
          by_cases e : w = d
          · subst e
            simp only [if_true, tabSet_default, tabDel]
            rw [tabDel_below w t hp.2 (Nat.lt_succ_self k')]
          · simp only [e, if_false, tabSet_value _ k' e, tabPut, h1, if_true]
            exact (foldl_tabSet_cons d (k', w) t ws hw'.1).symm
        · simp only [tabSetAll, tabBefore, h1, if_false, List.nil_append, h2]
          rw [iht _ hp.2 hw, tabSet_cons_above d (k, v) t w (by simp; omega),
            foldl_tabSet_cons d (k, v) _ ws (fun x hx => by have := hw'.1 x hx; simp at this ⊢; omega)]
          rfl

end Sys2Proof.Machine
end

