-- ==== Sys2Proof/Laws/Fired.lean ====
section
/-!
SUPPORT. The state after a trigger that fires: what its value does and what stays as it was.
-/

namespace Sys2Proof.Machine

/-! ## Cores and contexts after an update -/

@[simp] theorem core_setCore_same (s : State) (c : Nat) (k : Core) : (s.setCore c k).core c = k := by
  simp [State.core, State.setCore]

theorem core_setCore_other (s : State) {c d : Nat} (k : Core) (h : d ≠ c) : (s.setCore c k).core d = s.core d := by
  simp [State.core, State.setCore, tabGet_put_other _ _ _ h]

@[simp] theorem core_modCore_same (s : State) (c : Nat) (f : Core → Core) : (s.modCore c f).core c = f (s.core c) :=
  core_setCore_same s c _

theorem core_modCore_other (s : State) {c d : Nat} (f : Core → Core) (h : d ≠ c) : (s.modCore c f).core d = s.core d :=
  core_setCore_other s _ h

@[simp] theorem ctx_setCtx_same (k : Core) (x : Nat) (cx : Ctx) : (k.setCtx x cx).ctx x = cx := by
  simp [Core.ctx, Core.setCtx]

theorem ctx_setCtx_other (k : Core) {x y : Nat} (cx : Ctx) (h : y ≠ x) : (k.setCtx x cx).ctx y = k.ctx y := by
  simp [Core.ctx, Core.setCtx, tabGet_put_other _ _ _ h]

@[simp] theorem ctx_modCtx_same (s : State) (c x : Nat) (f : Ctx → Ctx) : (s.modCtx c x f).ctx c x = f (s.ctx c x) := by
  simp [State.ctx, State.modCtx]

theorem ctx_modCtx_other (s : State) (c : Nat) {x y : Nat} (f : Ctx → Ctx) (h : y ≠ x) :
    (s.modCtx c x f).ctx c y = s.ctx c y := by
  simp [State.ctx, State.modCtx, ctx_setCtx_other _ _ h]

theorem core_modCtx_other (s : State) {c d : Nat} (x : Nat) (f : Ctx → Ctx) (h : d ≠ c) :
    (s.modCtx c x f).core d = s.core d := core_modCore_other s _ h

/-- Two changes of one context are one. -/
theorem modCtx_modCtx (s : State) (c x : Nat) (f g : Ctx → Ctx) :
    (s.modCtx c x f).modCtx c x g = s.modCtx c x (fun cx => g (f cx)) := by
  unfold State.modCtx State.modCore State.setCore State.core Core.setCtx Core.ctx
  simp only [tabGet_put_same, tabPut_put]

/-! ## What a bundle leaves -/

/-- The part of the frame that holds of every update of the planes of one context. -/
structure Near (s t : State) (c x : Nat) : Prop where
  device   : t.aside = s.aside
  cores    : ∀ d, d ≠ c → t.core d = s.core d
  core     : (t.core c).aside = (s.core c).aside
  contexts : ∀ y, y ≠ x → t.ctx c y = s.ctx c y

theorem Near.refl (s : State) (c x : Nat) : Near s s c x := ⟨rfl, fun _ _ => rfl, rfl, fun _ _ => rfl⟩

theorem Near.trans {s t u : State} {c x : Nat} (h : Near s t c x) (g : Near t u c x) : Near s u c x :=
  ⟨g.device.trans h.device, fun d hd => (g.cores d hd).trans (h.cores d hd), g.core.trans h.core,
    fun y hy => (g.contexts y hy).trans (h.contexts y hy)⟩

theorem near_modCtx (s : State) (c x : Nat) (f : Ctx → Ctx) : Near s (s.modCtx c x f) c x :=
  ⟨rfl, fun _ h => core_modCtx_other s x f h, by simp [State.modCtx, Core.setCtx, Core.aside],
    fun _ h => ctx_modCtx_other s c f h⟩

/-- A change of a core that keeps its contexts and all but the counters of a cycle. -/
theorem near_modCore (s : State) (c x : Nat) (f : Core → Core) (h1 : ∀ k, (f k).aside = k.aside) (h2 : ∀ k, (f k).ctxs = k.ctxs) :
    Near s (s.modCore c f) c x :=
  ⟨rfl, fun _ h => core_modCore_other s f h, by simp [h1], fun y _ => by simp [State.ctx, Core.ctx, h2]⟩

theorem near_event (s : State) (c x code n : Nat) : Near s (s.event c code n) c x :=
  near_modCore s c x _ (fun _ => rfl) (fun _ => rfl)

theorem near_startStep (s : State) (e : Site) (c x : Nat) : Near s (s.startStep e) c x := by
  have h : (s.startStep e).aside = s.aside ∧ (s.startStep e).cores = s.cores := by
    unfold State.startStep
    split
    · split <;> exact ⟨rfl, rfl⟩
    · exact ⟨rfl, rfl⟩
  have hc : ∀ d, (s.startStep e).core d = s.core d := fun d => by simp only [State.core, h.2]
  exact ⟨h.1, fun d _ => hc d, by rw [hc], fun y _ => by simp only [State.ctx, hc]⟩

theorem near_countIssue (s : State) (c x : Nat) : Near s (s.countIssue c x) c x := by
  unfold State.countIssue
  simp only []
  split
  · have h := near_modCore s c x (fun k => { k with rotate := none }) (fun _ => rfl) (fun _ => rfl)
    split
    · exact h.trans (near_modCtx _ c x _)
    · exact h
  · exact Near.refl s c x

/-- The loop buffer follows the bundle; of its context it touches DIRTYMAP at most. -/
theorem near_loopBuffer (pre s : State) (e : Site) (ends : Bool) : Near s (pre.loopBuffer s e ends) e.core e.ctx := by
  unfold State.loopBuffer
  simp only []
  split
  · exact Near.refl ..
  · split
    · exact Near.refl ..
    · refine Near.trans ?_ (near_modCtx ..)
      exact near_modCore _ _ _ _ (fun _ => rfl) (fun _ => rfl)

theorem near_advance (s : State) (e : Site) (w : Nat) : Near s (s.advance e w) e.core e.ctx := by
  unfold State.advance
  exact ((((near_modCtx s e.core e.ctx _).trans (near_event ..)).trans (near_event ..)).trans
    (near_countIssue ..)).trans (near_modCore _ _ _ _ (fun _ => rfl) (fun _ => rfl))

theorem ctx_event (s : State) (c code n d x : Nat) : (s.event c code n).ctx d x = s.ctx d x := by
  unfold State.event State.ctx
  by_cases h : d = c
  · subst h; simp [Core.ctx]
  · rw [core_modCore_other _ _ h]

theorem ctx_modCore_same (s : State) (c x : Nat) (f : Core → Core) (h : ∀ k, (f k).ctxs = k.ctxs) (d : Nat) :
    (s.modCore c f).ctx d x = s.ctx d x := by
  unfold State.ctx
  by_cases e : d = c
  · subst e; simp [Core.ctx, h]
  · rw [core_modCore_other _ _ e]

/-- Two contexts alike but for DIRTYMAP. -/
def Ctx.like (cx cy : Ctx) : Prop := cy = { cx with dirtymap := cy.dirtymap }

theorem Ctx.like.rfl {cx : Ctx} : cx.like cx := Eq.refl cx

theorem Ctx.like.map {α : Type} {cx cy : Ctx} (h : cx.like cy) (f : Ctx → α) (hf : ∀ (c : Ctx) n, f { c with dirtymap := n } = f c) :
    f cy = f cx := by rw [h, hf]

theorem ctx_loopBuffer (pre s : State) (e : Site) (ends : Bool) :
    (s.ctx e.core e.ctx).like ((pre.loopBuffer s e ends).ctx e.core e.ctx) := by
  unfold State.loopBuffer
  simp only []
  split
  · exact Ctx.like.rfl
  · split
    · exact Ctx.like.rfl
    · rw [ctx_modCtx_same, ctx_modCore_same]
      · rfl
      · exact fun _ => rfl

/-- What `countIssue` leaves of its context. -/
theorem countIssue_ctx (s : State) (c x : Nat) :
    ((s.countIssue c x).ctx c x).aside = (s.ctx c x).aside
      ∧ ((s.countIssue c x).ctx c x).user = (s.ctx c x).user ∧ ((s.countIssue c x).ctx c x).sys = (s.ctx c x).sys
      ∧ ((s.countIssue c x).ctx c x).q = (s.ctx c x).q ∧ ((s.countIssue c x).ctx c x).g = (s.ctx c x).g := by
  unfold State.countIssue
  simp only []
  split
  · have h : ((s.modCore c (fun k => { k with rotate := none })).ctx c x) = s.ctx c x :=
      ctx_modCore_same s c x (fun k => { k with rotate := none }) (fun _ => rfl) c
    split
    · rw [ctx_modCtx_same, h]; exact ⟨rfl, rfl, rfl, rfl, rfl⟩
    · rw [h]; exact ⟨rfl, rfl, rfl, rfl, rfl⟩
  · exact ⟨rfl, rfl, rfl, rfl, rfl⟩

theorem ctx_weight (s : State) (c d x w : Nat) :
    (s.modCore c (fun k => { k with weightNow := k.weightNow + w })).ctx d x = s.ctx d x :=
  ctx_modCore_same s c x (fun k => { k with weightNow := k.weightNow + w }) (fun _ => rfl) d

/-- The context after an advance, but for its seat. -/
theorem advance_ctx (s : State) (e : Site) (w : Nat) :
    let cx := (s.ctx e.core e.ctx).advance e.sys
    let t := (s.advance e w).ctx e.core e.ctx
    t.aside = cx.aside ∧ t.user = cx.user ∧ t.sys = cx.sys ∧ t.q = cx.q ∧ t.g = cx.g := by
  unfold State.advance
  simp only []
  rw [ctx_weight]
  have h := countIssue_ctx (((s.modCtx e.core e.ctx fun cx => cx.advance e.sys).event e.core 2 1).event e.core 8
    (if (((s.ctx e.core e.ctx).plane e.sys).dueAt (((s.ctx e.core e.ctx).plane e.sys).cyc + 1)).isEmpty = true
      then 0 else 1)) e.core e.ctx
  simp only [ctx_event, ctx_modCtx_same] at h
  exact h

/-! ## Planes of a context -/

@[simp] theorem plane_modPlane_same (cx : Ctx) (b : Bool) (f : Plane → Plane) : (cx.modPlane b f).plane b = f (cx.plane b) := by
  cases b <;> rfl

@[simp] theorem plane_modPlane_other (cx : Ctx) (b : Bool) (f : Plane → Plane) :
    (cx.modPlane b f).plane (!b) = cx.plane (!b) := by
  cases b <;> rfl

@[simp] theorem aside_modPlane (cx : Ctx) (b : Bool) (f : Plane → Plane) : (cx.modPlane b f).aside = cx.aside := by
  cases b <;> rfl

@[simp] theorem aside_freeBanks (cx : Ctx) : cx.freeBanks.aside = cx.aside := rfl

@[simp] theorem plane_freeBanks (cx : Ctx) (b : Bool) : cx.freeBanks.plane b = cx.plane b := by cases b <;> rfl

@[simp] theorem aside_dirty (cx : Ctx) (n : Nat) : (cx.dirty n).aside = cx.aside := rfl

@[simp] theorem plane_dirty (cx : Ctx) (n : Nat) (b : Bool) : (cx.dirty n).plane b = cx.plane b := rfl

/-- Everything of a plane but its operand latches. -/
def Plane.sameBut (p q : Plane) : Prop := q.pc = p.pc ∧ q.cyc = p.cyc ∧ q.results = p.results ∧ q.due = p.due

theorem setLatch_parts (cx : Ctx) (b : Bool) (k : Nat) (l : Latch) :
    (cx.setLatch b k l).aside = cx.aside ∧ (cx.setLatch b k l).plane (!b) = cx.plane (!b)
      ∧ (cx.plane b).sameBut ((cx.setLatch b k l).plane b)
      ∧ ∀ j, tabGet {} ((cx.setLatch b k l).plane b).latches j = if j = k then l else tabGet {} (cx.plane b).latches j := by
  have hj : ∀ j, tabGet {} (tabSet {} (cx.plane b).latches k l) j = if j = k then l else tabGet {} (cx.plane b).latches j := by
    intro j
    by_cases h : j = k
    · subst h; simp
    · simp [h, tabGet_set_other]
  cases b <;> exact ⟨rfl, rfl, ⟨rfl, rfl, rfl, rfl⟩, hj⟩

/-- A consumed latch is spent; spending twice is spending once. -/
theorem spent_spent (l : Latch) : l.spent.spent = l.spent := by
  unfold Latch.spent
  cases h : l.valid <;> cases h' : l.hold <;> simp [h, h']

theorem consume_parts (b : Bool) (keys : List Nat) (cx : Ctx) :
    (cx.consume b keys).aside = cx.aside ∧ (cx.consume b keys).plane (!b) = cx.plane (!b)
      ∧ (cx.plane b).sameBut ((cx.consume b keys).plane b)
      ∧ ∀ j, tabGet {} ((cx.consume b keys).plane b).latches j
          = if j ∈ keys then (tabGet {} (cx.plane b).latches j).spent else tabGet {} (cx.plane b).latches j := by
  induction keys generalizing cx with
  | nil => exact ⟨rfl, rfl, ⟨rfl, rfl, rfl, rfl⟩, fun j => by simp [Ctx.consume]⟩
  | cons k ks ih =>
    have hstep : cx.consume b (k :: ks) = Ctx.consume (if (cx.latch b k).valid && !(cx.latch b k).hold
        then cx.setLatch b k { cx.latch b k with valid := false } else cx) b ks := rfl
    rw [hstep]
    have hone : ∀ cx', cx' = (if (cx.latch b k).valid && !(cx.latch b k).hold
        then cx.setLatch b k { cx.latch b k with valid := false } else cx) →
        cx'.aside = cx.aside ∧ cx'.plane (!b) = cx.plane (!b) ∧ (cx.plane b).sameBut (cx'.plane b)
          ∧ ∀ j, tabGet {} (cx'.plane b).latches j
              = if j = k then (tabGet {} (cx.plane b).latches j).spent else tabGet {} (cx.plane b).latches j := by
      intro cx' e
      have hl : cx.latch b k = tabGet {} (cx.plane b).latches k := rfl
      split at e
      · subst e
        rename_i h
        obtain ⟨h1, h2, h3, h4⟩ := setLatch_parts cx b k { cx.latch b k with valid := false }
        refine ⟨h1, h2, h3, fun j => ?_⟩
        rw [h4]
        by_cases hj : j = k
        · subst hj; rw [if_pos rfl, if_pos rfl, ← hl, Latch.spent, if_pos h]
        · rw [if_neg hj, if_neg hj]
      · subst e
        rename_i h
        refine ⟨rfl, rfl, ⟨rfl, rfl, rfl, rfl⟩, fun j => ?_⟩
        by_cases hj : j = k
        · subst hj; rw [if_pos rfl, ← hl, Latch.spent, if_neg h]
        · rw [if_neg hj]
    obtain ⟨a1, a2, a3, a4⟩ := hone _ rfl
    obtain ⟨b1, b2, b3, b4⟩ := ih (if (cx.latch b k).valid && !(cx.latch b k).hold
        then cx.setLatch b k { cx.latch b k with valid := false } else cx)
    refine ⟨b1.trans a1, b2.trans a2, ⟨b3.1.trans a3.1, b3.2.1.trans a3.2.1, b3.2.2.1.trans a3.2.2.1,
      b3.2.2.2.trans a3.2.2.2⟩, fun j => ?_⟩
    rw [b4, a4]
    by_cases hj : j = k
    · subst hj; by_cases hk : j ∈ ks <;> simp [hk, spent_spent]
    · by_cases hk : j ∈ ks <;> simp [hj, hk]

/-! ## The state in which a trigger acts -/

theorem startStep_core (s : State) (e : Site) (d : Nat) : (s.startStep e).core d = s.core d := by
  unfold State.startStep
  split
  · split <;> rfl
  · rfl

/-- Up to its acting, a trigger changes nothing but the operand latches of its unit. -/
structure Primed (s p : State) (used : List Nat) : Prop where
  near    : Near s p s.turn.core s.turn.ctx
  aside   : (p.ctx s.turn.core s.turn.ctx).aside = s.hereCtx.aside
  other   : (p.ctx s.turn.core s.turn.ctx).plane (!s.hereSys) = s.hereCtx.plane (!s.hereSys)
  plane   : s.herePlane.sameBut ((p.ctx s.turn.core s.turn.ctx).plane s.hereSys)
  latches : ∀ j, tabGet {} ((p.ctx s.turn.core s.turn.ctx).plane s.hereSys).latches j
      = if j ∈ used.map (latchKey s.turn.slot) then (tabGet {} s.herePlane.latches j).spent
        else tabGet {} s.herePlane.latches j

theorem primed_spec (s : State) (m : Mv) (d : BitVec 10) (op : Op) :
    Primed s (s.primed m d op) (if (op.needs (s.argHere m d op).val).isEmpty then [] else op.ports) := by
  unfold State.primed
  split
  · refine ⟨near_startStep .., ?_, ?_, ?_, ?_⟩ <;> simp only [State.ctx, startStep_core]
    · rfl
    · rfl
    · exact ⟨rfl, rfl, rfl, rfl⟩
    · intro j; simp only [List.map_nil, List.not_mem_nil, if_false]; rfl
  · obtain ⟨h1, h2, h3, h4⟩ := consume_parts s.hereSys (op.ports.map (latchKey s.turn.slot)) s.hereCtx
    have e : ((s.startStep s.here).modCtx s.turn.core s.turn.ctx
        (fun cx => cx.consume s.hereSys (op.ports.map (latchKey s.turn.slot)))).ctx s.turn.core s.turn.ctx
        = s.hereCtx.consume s.hereSys (op.ports.map (latchKey s.turn.slot)) := by
      rw [ctx_modCtx_same, State.ctx, startStep_core]; rfl
    refine ⟨(near_startStep ..).trans (near_modCtx ..), ?_, ?_, ?_, ?_⟩ <;> rw [e]
    · exact h1
    · exact h2
    · exact h3
    · exact h4

theorem putS_planes (cx : Ctx) (k : Nat) (v : Dword) : (cx.putS k v).user = cx.user ∧ (cx.putS k v).sys = cx.sys := by
  unfold Ctx.putS
  split
  · exact ⟨rfl, rfl⟩
  · simp only []
    split <;> exact ⟨rfl, rfl⟩

theorem incReg_planes (cx : Ctx) (r v : Nat) : (cx.incReg r v).user = cx.user ∧ (cx.incReg r v).sys = cx.sys := by
  unfold Ctx.incReg
  split
  · exact ⟨rfl, rfl⟩
  · exact putS_planes ..

/-- The loop-end steps touch no plane. -/
theorem loopEnd_planes (loops : Tab (BitVec 128)) (ns : List Nat) (cx : Ctx) :
    (Ctx.loopEnd loops ns cx).1.user = cx.user ∧ (Ctx.loopEnd loops ns cx).1.sys = cx.sys := by
  induction ns generalizing cx with
  | nil => exact ⟨rfl, rfl⟩
  | cons n ns ih =>
    unfold Ctx.loopEnd
    simp only []
    split
    · simp only [Ctx.dirty, incReg_planes, and_self]
    · rw [(ih _).1, (ih _).2]
      simp only [Ctx.dirty, incReg_planes, and_self]

/-! ## The state after the bundle -/

/-- The end of a bundle whose trigger takes no branch and does nothing at the end: `u` is the state after it acted. -/
theorem near_proceed (s u : State) (branch : Option (BitVec 13)) :
    Near u (s.proceed u branch) s.turn.core s.turn.ctx := by
  unfold State.proceed
  refine (near_loopBuffer s u s.here branch.isNone).trans ?_
  dsimp only
  generalize s.loopBuffer u s.here branch.isNone = u
  cases branch with
  | some t => exact near_modCtx ..
  | none =>
    simp only []
    split
    · exact near_modCtx ..
    · dsimp only
      exact Near.trans (near_modCtx u s.turn.core s.turn.ctx _) (near_modCtx ..)

theorem near_fired (s : State) (m : Mv) (d : BitVec 10) (op : Op) (hfin : ∀ s', op.fin (s.argHere m d op) s' = s') :
    Near (s.acted m d op) (s.fired m d op) s.turn.core s.turn.ctx := by
  unfold State.fired
  simp only [hfin]
  exact (near_proceed ..).trans (near_advance ..)

/-- The context after the end of the bundle: its next program counter and, but for DIRTYMAP, nothing else. -/
theorem proceed_ctx (s u : State) (h : s.settled = true) :
    ((u.ctx s.turn.core s.turn.ctx).modPlane s.hereSys (fun q => { q with pc := s.herePlane.pc + 1 })).like
      ((s.proceed u none).ctx s.turn.core s.turn.ctx) := by
  simp only [State.settled, Bool.and_eq_true, Bool.or_eq_true] at h
  have hl : (u.ctx s.turn.core s.turn.ctx).like ((s.loopBuffer u s.here true).ctx s.turn.core s.turn.ctx) :=
    ctx_loopBuffer s u s.here true
  have key : ∀ u' : State, (u.ctx s.turn.core s.turn.ctx).like (u'.ctx s.turn.core s.turn.ctx) →
      ((u.ctx s.turn.core s.turn.ctx).modPlane s.hereSys (fun q => { q with pc := s.herePlane.pc + 1 })).like
        ((u'.ctx s.turn.core s.turn.ctx).modPlane s.hereSys (fun q => { q with pc := s.herePlane.pc + 1 })) := by
    intro u' h'
    rw [h']
    cases s.hereSys <;> rfl
  unfold State.proceed
  simp only [Option.isNone_none]
  generalize s.loopBuffer u s.here true = u' at hl ⊢
  split
  · rw [ctx_modCtx_same]
    exact key u' hl
  · rename_i hs
    have he : (s.hereCtx.endLevels s.hereCtx.user.pc.toNat) = [] := by
      rcases h.2 with h | h
      · exact absurd h hs
      · exact List.isEmpty_iff.mp h
    have hs' : s.hereSys = false := by simpa using hs
    have hp : s.herePlane.pc.toNat = s.hereCtx.user.pc.toNat := by simp [State.herePlane, hs', Ctx.plane]
    rw [hp, he, ctx_modCtx_same, ctx_modCtx_same]
    exact key u' hl

theorem proceed_aside (s u : State) (h : s.settled = true) :
    ((s.proceed u none).ctx s.turn.core s.turn.ctx).aside = (u.ctx s.turn.core s.turn.ctx).aside :=
  ((proceed_ctx s u h).map Ctx.aside (fun _ _ => rfl)).trans (aside_modPlane ..)

theorem proceed_pc (s u : State) (h : s.settled = true) :
    (((s.proceed u none).ctx s.turn.core s.turn.ctx).plane s.hereSys)
      = { (u.ctx s.turn.core s.turn.ctx).plane s.hereSys with pc := s.herePlane.pc + 1 } :=
  ((proceed_ctx s u h).map (fun c => c.plane s.hereSys) (fun _ _ => by cases s.hereSys <;> rfl)).trans (plane_modPlane_same ..)

/-- The cycle count and the other plane, whatever loop levels end. -/
theorem proceed_plane (s u : State) (branch : Option (BitVec 13)) :
    let p := (u.ctx s.turn.core s.turn.ctx).plane s.hereSys
    let q := ((s.proceed u branch).ctx s.turn.core s.turn.ctx).plane s.hereSys
    q.cyc = p.cyc ∧ q.latches = p.latches ∧ q.results = p.results ∧ q.due = p.due
      ∧ ((s.proceed u branch).ctx s.turn.core s.turn.ctx).plane (!s.hereSys)
        = (u.ctx s.turn.core s.turn.ctx).plane (!s.hereSys) := by
  have key : ∀ (u' : State) (n : BitVec 13), (u'.ctx s.turn.core s.turn.ctx).user = (u.ctx s.turn.core s.turn.ctx).user →
      (u'.ctx s.turn.core s.turn.ctx).sys = (u.ctx s.turn.core s.turn.ctx).sys →
      let cx' := (u'.modCtx s.turn.core s.turn.ctx (fun cx => cx.modPlane s.hereSys (fun q => { q with pc := n }))).ctx
        s.turn.core s.turn.ctx
      let p := (u.ctx s.turn.core s.turn.ctx).plane s.hereSys
      (cx'.plane s.hereSys).cyc = p.cyc ∧ (cx'.plane s.hereSys).latches = p.latches
        ∧ (cx'.plane s.hereSys).results = p.results ∧ (cx'.plane s.hereSys).due = p.due
        ∧ cx'.plane (!s.hereSys) = (u.ctx s.turn.core s.turn.ctx).plane (!s.hereSys) := by
    intro u' n h1 h2
    simp only [ctx_modCtx_same, plane_modPlane_same, plane_modPlane_other]
    cases s.hereSys <;> simp [Ctx.plane, h1, h2]
  unfold State.proceed
  have hl : (u.ctx s.turn.core s.turn.ctx).like ((s.loopBuffer u s.here branch.isNone).ctx s.turn.core s.turn.ctx) :=
    ctx_loopBuffer s u s.here branch.isNone
  have hu := hl.map Ctx.user (fun _ _ => rfl)
  have hs := hl.map Ctx.sys (fun _ _ => rfl)
  dsimp only
  generalize s.loopBuffer u s.here branch.isNone = v at *
  cases branch with
  | some t => exact key v t hu hs
  | none =>
    simp only []
    split
    · exact key v _ hu hs
    · have h := loopEnd_planes s.hereCtx.loops (s.hereCtx.endLevels s.herePlane.pc.toNat) (v.ctx s.turn.core s.turn.ctx)
      refine key _ _ ?_ ?_ <;> dsimp only <;> rw [ctx_modCtx_same]
      · exact h.1.trans hu
      · exact h.2.trans hs

/-! ## Landing -/

theorem land_aside (cx : Ctx) (b : Bool) (r : DueRec) : (cx.land b r).aside = (cx.aside.land b r).aside := by
  unfold Ctx.land
  cases r.dst with
  | latch k =>
    simp only []
    split <;> simp only [aside_dirty, aside_modPlane] <;> rfl
  | sreg n =>
    simp only [Ctx.putS]
    split
    · rfl
    · split <;> rfl
  | vreg cl n => rfl
  | qpair p => rfl
  | gpair cl p => rfl

theorem fixed_of_aside {cx cy : Ctx} (h : cx.aside = cy.aside) : cx.fixed = cy.fixed := by unfold Ctx.fixed; rw [h]

theorem land_fixed (cx : Ctx) (b : Bool) (r : DueRec) : (cx.land b r).fixed = cx.fixed := by
  unfold Ctx.land
  cases r.dst with
  | latch k => cases b <;> rfl
  | sreg n =>
    simp only [Ctx.putS]
    split
    · rfl
    · split <;> rfl
  | vreg cl n => rfl
  | qpair p => rfl
  | gpair cl p => rfl

theorem lands_fixed (b : Bool) (rs : List DueRec) (cx : Ctx) : (rs.foldl (fun cx r => cx.land b r) cx).fixed = cx.fixed := by
  induction rs generalizing cx with
  | nil => rfl
  | cons r rs ih => exact (ih _).trans (land_fixed ..)

theorem advance_fixed (cx : Ctx) (b : Bool) : (cx.advance b).fixed = cx.fixed := by
  unfold Ctx.advance
  simp only []
  rw [lands_fixed]
  exact fixed_of_aside (aside_modPlane ..)

theorem putS_fixed (cx : Ctx) (k : Nat) (v : Dword) : (cx.putS k v).fixed = cx.fixed := by
  unfold Ctx.putS
  split
  · rfl
  · simp only []
    split <;> rfl

theorem incReg_fixed (cx : Ctx) (r v : Nat) : (cx.incReg r v).fixed = cx.fixed := by
  unfold Ctx.incReg
  split
  · rfl
  · exact putS_fixed ..

theorem loopEnd_fixed (loops : Tab (BitVec 128)) (ns : List Nat) (cx : Ctx) :
    (Ctx.loopEnd loops ns cx).1.fixed = cx.fixed := by
  induction ns generalizing cx with
  | nil => rfl
  | cons n ns ih =>
    have h : ∀ cx : Ctx, ∀ c, (({ cx with loopctr := c } : Ctx).dirty 33).fixed = cx.fixed := fun _ _ => rfl
    unfold Ctx.loopEnd
    simp only []
    split
    · rw [h, incReg_fixed, incReg_fixed]
    · rw [ih, h, incReg_fixed, incReg_fixed]

theorem proceed_fixed (s u : State) (branch : Option (BitVec 13)) :
    ((s.proceed u branch).ctx s.turn.core s.turn.ctx).fixed = (u.ctx s.turn.core s.turn.ctx).fixed := by
  have h : ∀ (cx : Ctx) b f, (cx.modPlane b f).fixed = cx.fixed := fun _ _ _ => fixed_of_aside (aside_modPlane ..)
  unfold State.proceed
  have hl : (u.ctx s.turn.core s.turn.ctx).like ((s.loopBuffer u s.here branch.isNone).ctx s.turn.core s.turn.ctx) :=
    ctx_loopBuffer s u s.here branch.isNone
  rw [← hl.map Ctx.fixed (fun _ _ => rfl)]
  dsimp only
  generalize s.loopBuffer u s.here branch.isNone = u
  cases branch with
  | some t => simp only [ctx_modCtx_same, h]
  | none =>
    simp only []
    split
    · simp only [ctx_modCtx_same, h]
    · simp only [ctx_modCtx_same, h, loopEnd_fixed]

theorem land_congr {cx cy : Ctx} (h : cx.aside = cy.aside) (b : Bool) (r : DueRec) :
    (cx.land b r).aside = (cy.land b r).aside := by
  rw [land_aside, h, ← land_aside]

/-- A landing, and an advance, take no account of DIRTYMAP. -/
theorem land_like {cx cy : Ctx} (h : cx.like cy) (b : Bool) (r : DueRec) : (cx.land b r).like (cy.land b r) := by
  rw [h]
  unfold Ctx.land
  cases r.dst with
  | latch k => cases b <;> rfl
  | sreg n =>
    simp only [Ctx.putS]
    split
    · rfl
    · split <;> rfl
  | vreg cl n => rfl
  | qpair p => rfl
  | gpair cl p => rfl

theorem lands_like (b : Bool) (rs : List DueRec) {cx cy : Ctx} (h : cx.like cy) :
    (rs.foldl (fun cx r => cx.land b r) cx).like (rs.foldl (fun cx r => cx.land b r) cy) := by
  induction rs generalizing cx cy with
  | nil => exact h
  | cons r rs ih => exact ih (land_like h b r)

theorem advance_like {cx cy : Ctx} (h : cx.like cy) (b : Bool) : (cx.advance b).like (cy.advance b) := by
  have hp : cy.plane b = cx.plane b := h.map (fun c => c.plane b) (fun _ _ => by cases b <;> rfl)
  unfold Ctx.advance
  simp only []
  rw [hp]
  apply lands_like
  rw [h]
  cases b <;> rfl

/-- A landing touches of the planes a result latch alone. -/
theorem land_planes (cx : Ctx) (b : Bool) (r : DueRec) :
    (cx.land b r).plane (!b) = cx.plane (!b)
      ∧ ((cx.land b r).plane b).pc = (cx.plane b).pc ∧ ((cx.land b r).plane b).cyc = (cx.plane b).cyc
      ∧ ((cx.land b r).plane b).latches = (cx.plane b).latches ∧ ((cx.land b r).plane b).due = (cx.plane b).due
      ∧ ((cx.land b r).plane b).results = (match r.dst with
        | .latch k => tabSet 0 (cx.plane b).results k (mergeLanes r.mask (tabGet 0 (cx.plane b).results k) r.val)
        | _ => (cx.plane b).results) := by
  have hr : ∀ c, (cx.raiseFlags r.flags).plane c = cx.plane c := fun c => by cases c <;> rfl
  unfold Ctx.land
  cases r.dst with
  | latch k =>
    cases b <;> exact ⟨rfl, rfl, rfl, rfl, rfl, rfl⟩
  | sreg n =>
    have h := putS_planes (cx.raiseFlags r.flags) n (low64 r.val)
    have hp : ∀ c, ((cx.raiseFlags r.flags).putS n (low64 r.val)).plane c = cx.plane c := by
      intro c; cases c
      · exact h.1
      · exact h.2
    simp only [hp, and_self]
  | vreg cl n => cases b <;> exact ⟨rfl, rfl, rfl, rfl, rfl, rfl⟩
  | qpair p => cases b <;> exact ⟨rfl, rfl, rfl, rfl, rfl, rfl⟩
  | gpair cl p => cases b <;> exact ⟨rfl, rfl, rfl, rfl, rfl, rfl⟩

theorem lands_planes (b : Bool) (rs : List DueRec) (cx : Ctx) :
    let cy := rs.foldl (fun cx r => cx.land b r) cx
    cy.plane (!b) = cx.plane (!b) ∧ (cy.plane b).pc = (cx.plane b).pc ∧ (cy.plane b).cyc = (cx.plane b).cyc
      ∧ (cy.plane b).latches = (cx.plane b).latches ∧ (cy.plane b).due = (cx.plane b).due := by
  induction rs generalizing cx with
  | nil => exact ⟨rfl, rfl, rfl, rfl, rfl⟩
  | cons r rs ih =>
    obtain ⟨a1, a2, a3, a4, a5, -⟩ := land_planes cx b r
    obtain ⟨b1, b2, b3, b4, b5⟩ := ih (cx.land b r)
    exact ⟨b1.trans a1, b2.trans a2, b3.trans a3, b4.trans a4, b5.trans a5⟩

/-- The planes after an advance. -/
theorem advance_planes (cx : Ctx) (b : Bool) :
    (cx.advance b).plane (!b) = cx.plane (!b) ∧ ((cx.advance b).plane b).pc = (cx.plane b).pc
      ∧ ((cx.advance b).plane b).cyc = (cx.plane b).cyc + 1 ∧ ((cx.advance b).plane b).latches = (cx.plane b).latches
      ∧ ((cx.advance b).plane b).due = (cx.plane b).due.filter (fun r => r.due != (cx.plane b).cyc + 1) := by
  unfold Ctx.advance
  obtain ⟨b1, b2, b3, b4, b5⟩ := lands_planes b ((cx.plane b).dueAt ((cx.plane b).cyc + 1)) (cx.modPlane b (fun p =>
    { p with cyc := (cx.plane b).cyc + 1, due := p.due.filter (fun r => r.due != (cx.plane b).cyc + 1) })).freeBanks
  simp only [plane_freeBanks, plane_modPlane_same, plane_modPlane_other] at b1 b2 b3 b4 b5
  exact ⟨b1, b2, b3, b4, b5⟩

/-! ## What a bundle does -/

theorem plane_eq {cx cy : Ctx} (h1 : cx.user = cy.user) (h2 : cx.sys = cy.sys) (b : Bool) : cx.plane b = cy.plane b := by
  cases b
  · exact h1
  · exact h2

/-- The frame from what the state and the context keep. -/
theorem frame_of_near {s t : State} {cx : Ctx} (h : Near s t s.turn.core s.turn.ctx)
    (hf : (t.ctx s.turn.core s.turn.ctx).fixed = cx.fixed)
    (hc : s.settled = true → (t.ctx s.turn.core s.turn.ctx).aside = cx.aside) : s.Frame t cx :=
  have h1 : t.sspace = s.sspace := (congrArg State.sspace h.device : t.aside.sspace = s.aside.sspace)
  have h2 : t.hbm = s.hbm := (congrArg State.hbm h.device : t.aside.hbm = s.aside.hbm)
  ⟨h.device, fun a => by simp only [State.sRead, h1], fun a => by simp only [State.hRead, h2],
    h.cores, h.core, h.contexts, hf, hc⟩

/-- The context after the end of a bundle whose trigger takes no branch: `u` is the state after it acted. -/
theorem ended_ctx (s u : State) (w : Nat) (t : State) (ht : t = (s.proceed u none).advance s.here w) :
    let p := (u.ctx s.turn.core s.turn.ctx).plane s.hereSys
    (s.planeAfter t).cyc = p.cyc + 1 ∧ (s.planeAfter t).latches = p.latches
      ∧ (s.planeAfter t).due = p.due.filter (fun r => r.due != p.cyc + 1)
      ∧ (t.ctx s.turn.core s.turn.ctx).plane (!s.hereSys) = (u.ctx s.turn.core s.turn.ctx).plane (!s.hereSys) := by
  subst ht
  obtain ⟨h1, h2, h3, h4, h5⟩ := advance_ctx (s.proceed u none) s.here w
  obtain ⟨p1, p2, p3, p4, p5⟩ := proceed_plane s u none
  obtain ⟨a1, a2, a3, a4, a5⟩ := advance_planes ((s.proceed u none).ctx s.turn.core s.turn.ctx) s.hereSys
  have hb : ∀ b, (((s.proceed u none).advance s.here w).ctx s.turn.core s.turn.ctx).plane b
      = (((s.proceed u none).ctx s.turn.core s.turn.ctx).advance s.hereSys).plane b := fun b => plane_eq h2 h3 b
  simp only [State.planeAfter, hb]
  refine ⟨?_, ?_, ?_, ?_⟩
  · rw [a3, p1]
  · rw [a4, p2]
  · rw [a5, p1, p4]
  · rw [a1, p5]

/-- The same where the state is settled: the landing starts from the context with the new program counter. -/
theorem ended_settled (s u : State) (w : Nat) (t : State) (ht : t = (s.proceed u none).advance s.here w)
    (h : s.settled = true) :
    let cx := ((u.ctx s.turn.core s.turn.ctx).modPlane s.hereSys
      (fun q => { q with pc := s.herePlane.pc + 1 })).advance s.hereSys
    (t.ctx s.turn.core s.turn.ctx).aside = cx.aside ∧ s.planeAfter t = cx.plane s.hereSys
      ∧ (t.ctx s.turn.core s.turn.ctx).q = cx.q ∧ (t.ctx s.turn.core s.turn.ctx).g = cx.g := by
  subst ht
  obtain ⟨h1, h2, h3, h4, h5⟩ := advance_ctx (s.proceed u none) s.here w
  have L := advance_like (proceed_ctx s u h) s.hereSys
  exact ⟨h1.trans (L.map Ctx.aside (fun _ _ => rfl)),
    (plane_eq h2 h3 _).trans (L.map (fun c => c.plane s.hereSys) (fun _ _ => by cases s.hereSys <;> rfl)),
    h4.trans (L.map Ctx.q (fun _ _ => rfl)), h5.trans (L.map Ctx.g (fun _ _ => rfl))⟩

/-- Records of a plane that are due now. -/
theorem dueAt_append (old : List DueRec) (r : DueRec) (t : Dword) :
    (old ++ [r]).filter (fun r => r.due == t) = old.filter (fun r => r.due == t) ++ (if r.due == t then [r] else []) := by
  rw [List.filter_append]
  congr 1
  simp only [List.filter]
  cases r.due == t <;> rfl

/-- The latency is told by the tag. -/
theorem due_one {c : Dword} {L : Nat} (h : 0 < L ∧ L < 2 ^ 64) : (c + BitVec.ofNat 64 L = c + 1) ↔ L = 1 := by
  constructor
  · intro e
    have : BitVec.ofNat 64 L = 1 := by simpa using e
    have := congrArg BitVec.toNat this
    rw [BitVec.toNat_ofNat, show BitVec.toNat (1 : Dword) = 1 from rfl] at this
    omega
  · rintro rfl; rfl

/-- The context after an advance in which one record lands at most. -/
theorem advance_one (cx : Ctx) (b : Bool) (r : DueRec) (old : List DueRec) (hd : (cx.plane b).due = old ++ [r])
    (ho : old.filter (fun r => r.due == (cx.plane b).cyc + 1) = []) :
    let base := (cx.modPlane b (fun p => { p with
      cyc := (cx.plane b).cyc + 1, due := p.due.filter (fun r => r.due != (cx.plane b).cyc + 1) })).freeBanks
    cx.advance b = if r.due = (cx.plane b).cyc + 1 then base.land b r else base := by
  intro base
  have e : (cx.plane b).dueAt ((cx.plane b).cyc + 1) = if r.due = (cx.plane b).cyc + 1 then [r] else [] := by
    rw [Plane.dueAt, hd, dueAt_append]
    refine (congrArg (· ++ _) ho).trans ?_
    by_cases h : r.due = (cx.plane b).cyc + 1 <;> simp [h]
  have : cx.advance b = ((cx.plane b).dueAt ((cx.plane b).cyc + 1)).foldl (fun cx r => cx.land b r) base := rfl
  rw [this, e]
  split <;> rfl

/-- A record that is due now and was added last lands last. -/
theorem advance_last (cx : Ctx) (b : Bool) (r : DueRec) (old : List DueRec) (hd : (cx.plane b).due = old ++ [r])
    (hr : r.due = (cx.plane b).cyc + 1) : ∃ base : Ctx, cx.advance b = base.land b r := by
  refine ⟨(old.filter (fun r => r.due == (cx.plane b).cyc + 1)).foldl (fun cx r => cx.land b r) (cx.modPlane b (fun p => { p with
      cyc := (cx.plane b).cyc + 1, due := p.due.filter (fun r => r.due != (cx.plane b).cyc + 1) })).freeBanks, ?_⟩
  unfold Ctx.advance
  simp only []
  rw [Plane.dueAt, hd, dueAt_append, if_pos (by simp [hr]), List.foldl_append]
  rfl

theorem readQ_land (base : Ctx) (b : Bool) (r : DueRec) (p : Nat) (h : r.dst = .qpair p) :
    (base.land b r).readQ (2 * p + 1) = r.val.getLsbD 0 ∧ (base.land b r).readQ (2 * p + 2) = !r.val.getLsbD 0 := by
  have e : base.land b r = ((base.raiseFlags r.flags).writeQ (2 * p + 1) (r.val.getLsbD 0)).writeQ (2 * p + 2)
      (!r.val.getLsbD 0) := by unfold Ctx.land; simp only [h]
  rw [e]
  simp [Ctx.readQ, Ctx.writeQ, Ctx.dirty, tabGet_set_other]

theorem readG_land (base : Ctx) (b : Bool) (r : DueRec) (cl p l : Nat) (h : r.dst = .gpair cl p) (hm : r.mask.getLsbD l = true)
    (hl : l < 16) :
    ((base.land b r).readG cl (2 * p + 1)).getLsbD l = r.val.getLsbD l
      ∧ ((base.land b r).readG cl (2 * p + 2)).getLsbD l = !r.val.getLsbD l := by
  have e : base.land b r = ((base.raiseFlags r.flags).writeG cl (2 * p + 1) r.mask (r.val.extractLsb' 0 16)).writeG cl
      (2 * p + 2) r.mask (~~~ r.val.extractLsb' 0 16) := by unfold Ctx.land; simp only [h]
  have h1 : 8 * cl + (2 * p + 1) ≠ 8 * cl + (2 * p + 2) := by omega
  have hx : (r.val.extractLsb' 0 16).getLsbD l = r.val.getLsbD l := by
    rw [BitVec.getLsbD_extractLsb', decide_eq_true hl, Bool.true_and, Nat.zero_add]
  rw [e]
  simp only [Ctx.readG, Ctx.writeG, Ctx.dirty, tabGet_set_same, tabGet_set_other _ _ _ h1]
  constructor
  · rw [BitVec.getLsbD_or, BitVec.getLsbD_and, BitVec.getLsbD_and, BitVec.getLsbD_not, hm, hx]; simp
  · rw [BitVec.getLsbD_or, BitVec.getLsbD_and, BitVec.getLsbD_and, BitVec.getLsbD_not, BitVec.getLsbD_not, hm, hx]
    simp [hl]

/-- A bundle of one trigger that adds one record to the due buffer. -/
theorem fired_record_of {s p : State} {used : List Nat} {m : Mv} {d : BitVec 10} {op : Op} {L : Nat} {dst : DueDst} {val : Line} {mask : BitVec 16}
    {flags : BitVec 6} (hL : 0 < L ∧ L < 2 ^ 64)
    (hdst : (∃ k, dst = .latch k) ∨ (∃ p, dst = .qpair p) ∨ (∃ cl p, dst = .gpair cl p) ∨ L ≠ 1)
    (P : Primed s p used) (hact : s.acted m d op = p.addRecord (s.argHere m d op) L dst val mask flags)
    (hbr : op.branch (s.argHere m d op) = none) (hfin : ∀ s', op.fin (s.argHere m d op) s' = s') :
    s.Frame (s.fired m d op) (s.landedCtx L (s.recordOf L dst val mask flags))
      ∧ s.Issued (s.fired m d op) used (dst.latches L)
          (s.herePlane.pc + 1)
      ∧ s.Delivers (s.fired m d op) L dst val mask flags := by
  have ht : s.fired m d op = (s.proceed (s.acted m d op) none).advance s.here op.weight := by
    unfold State.fired; simp only [hfin, hbr]
  have hctx : (s.acted m d op).ctx s.turn.core s.turn.ctx
      = (p.ctx s.turn.core s.turn.ctx).addDue s.hereSys (s.recordOf L dst val mask flags) := by
    rw [hact]; unfold State.addRecord; rw [show (s.argHere m d op).core = s.turn.core from rfl,
      show (s.argHere m d op).ctx = s.turn.ctx from rfl, ctx_modCtx_same]; rfl
  have hnear : Near s (s.acted m d op) s.turn.core s.turn.ctx := by
    rw [hact]; exact P.near.trans (near_modCtx ..)
  have hold : ((p.ctx s.turn.core s.turn.ctx).plane s.hereSys).due = s.herePlane.due := P.plane.2.2.2
  have hcyc : ((p.ctx s.turn.core s.turn.ctx).plane s.hereSys).cyc = s.herePlane.cyc := P.plane.2.1
  have Po := P.other
  have Pa := P.aside
  have Pl := P.latches
  have Pr := P.plane.2.2.1
  generalize hpc : p.ctx s.turn.core s.turn.ctx = pc at *
  generalize hu : s.acted m d op = u at *
  generalize hr : s.recordOf L dst val mask flags = r at *
  have hup : (u.ctx s.turn.core s.turn.ctx).plane s.hereSys
      = { pc.plane s.hereSys with due := s.herePlane.due ++ [r] } := by
    rw [hctx, Ctx.addDue, plane_modPlane_same, hold]
  have huo : (u.ctx s.turn.core s.turn.ctx).plane (!s.hereSys) = s.hereCtx.plane (!s.hereSys) := by
    rw [hctx, Ctx.addDue, plane_modPlane_other, Po]
  have hua : (u.ctx s.turn.core s.turn.ctx).aside = s.hereCtx.aside := by
    rw [hctx, Ctx.addDue, aside_modPlane, Pa]
  have hdue : r.due = s.herePlane.cyc + BitVec.ofNat 64 L := by rw [← hr]; rfl
  obtain ⟨e1, e2, e3, e4⟩ := ended_ctx s u op.weight _ ht
  simp only [hup, hcyc] at e1 e2 e3
  -- where nothing lands before
  have hset : s.settled = true →
      ∃ base : Ctx, base.aside = s.hereCtx.aside ∧ (base.plane s.hereSys).pc = s.herePlane.pc + 1
        ∧ (base.plane s.hereSys).results = s.herePlane.results
        ∧ ((s.fired m d op).ctx s.turn.core s.turn.ctx).aside = (if L = 1 then base.land s.hereSys r else base).aside
        ∧ s.planeAfter (s.fired m d op) = (if L = 1 then base.land s.hereSys r else base).plane s.hereSys := by
    intro h
    obtain ⟨g1, g2, -, -⟩ := ended_settled s u op.weight _ ht h
    have hempty : s.herePlane.due.filter (fun r => r.due == s.herePlane.cyc + 1) = [] := by
      simp only [State.settled, Bool.and_eq_true] at h
      exact List.isEmpty_iff.mp h.1
    have ha := advance_one ((u.ctx s.turn.core s.turn.ctx).modPlane s.hereSys (fun q => { q with pc := s.herePlane.pc + 1 }))
      s.hereSys r s.herePlane.due (by rw [plane_modPlane_same, hup]) (by rw [plane_modPlane_same, hup, ← hempty]; rw [hcyc])
    have hb : ∀ cx : Ctx, ((u.ctx s.turn.core s.turn.ctx).modPlane s.hereSys (fun q => { q with pc := s.herePlane.pc + 1 })).advance
        s.hereSys = cx → ∀ b : Ctx, (cx = if r.due = s.herePlane.cyc + 1 then b.land s.hereSys r else b) →
        cx = if L = 1 then b.land s.hereSys r else b := by
      intro cx _ b hb
      simpa only [hdue, due_one hL] using hb
    simp only [plane_modPlane_same, hup, hcyc] at ha
    have ha' := hb _ rfl _ ha
    refine ⟨_, ?_, ?_, ?_, g1.trans (congrArg Ctx.aside ha'), g2.trans (congrArg (fun c => Ctx.plane c s.hereSys) ha')⟩
    · rw [aside_freeBanks, aside_modPlane, aside_modPlane, hua]
    · rw [plane_freeBanks, plane_modPlane_same, plane_modPlane_same]
    · rw [plane_freeBanks, plane_modPlane_same, plane_modPlane_same, hup]; exact Pr
  have hlast : L = 1 → ∃ base : Ctx, s.planeAfter (s.fired m d op) = (base.land s.hereSys r).plane s.hereSys
      ∧ ((s.fired m d op).ctx s.turn.core s.turn.ctx).q = (base.land s.hereSys r).q
      ∧ ((s.fired m d op).ctx s.turn.core s.turn.ctx).g = (base.land s.hereSys r).g := by
    intro h
    obtain ⟨h1, h2, h3, h4, h5⟩ := advance_ctx (s.proceed u none) s.here op.weight
    obtain ⟨p1, p2, p3, p4, p5⟩ := proceed_plane s u none
    obtain ⟨base, hb⟩ := advance_last ((s.proceed u none).ctx s.turn.core s.turn.ctx) s.hereSys r s.herePlane.due
      (by rw [p4, hup]) (by rw [p1, hup, hdue, hcyc, h]; rfl)
    have hb' : ((s.proceed u none).ctx s.here.core s.here.ctx).advance s.here.sys = base.land s.hereSys r := hb
    simp only [hb'] at h1 h2 h3 h4 h5
    rw [ht]
    exact ⟨base, plane_eq h2 h3 _, h4, h5⟩
  refine ⟨?_, ?_, ?_⟩
  · refine frame_of_near (hnear.trans ?_) ?_ (fun h => ?_)
    · rw [← hu]; exact near_fired s m d op hfin
    · have e : ∀ c : Ctx, c.aside = (((s.proceed u none).ctx s.turn.core s.turn.ctx).advance s.hereSys).aside →
          c.fixed = s.hereCtx.fixed := by
        intro c hc
        rw [fixed_of_aside hc, advance_fixed, proceed_fixed]
        exact fixed_of_aside hua
      rw [State.landedCtx]
      have := e ((s.fired m d op).ctx s.turn.core s.turn.ctx)
        (by rw [ht]; exact (advance_ctx (s.proceed u none) s.here op.weight).1)
      split
      · rw [land_fixed]; exact this
      · exact this
    · obtain ⟨base, b1, -, -, b4, -⟩ := hset h
      rw [b4, State.landedCtx]
      split
      · exact land_congr b1 ..
      · exact b1
  · refine ⟨e1, e4.trans huo, fun k => ?_, fun h => ?_, fun h k hk => ?_⟩
    · rw [e2]; exact Pl k
    · obtain ⟨base, -, b2, -, -, b5⟩ := hset h
      rw [b5]
      split
      · rw [(land_planes base s.hereSys r).2.1, b2]
      · exact b2
    · obtain ⟨base, -, -, b3, -, b5⟩ := hset h
      rw [b5]
      split
      · rename_i hl
        rw [(land_planes base s.hereSys r).2.2.2.2.2]
        have hrd : r.dst = dst := by rw [← hr]; rfl
        rw [hrd]
        cases dst with
        | latch j =>
          simp only [DueDst.latches, hl, if_true, List.mem_singleton] at hk
          simp only []
          rw [tabGet_set_other _ _ _ hk, b3]
        | _ => simp only [b3]
      · rw [b3]
  · unfold State.Delivers
    have hrd : r.dst = dst := by rw [← hr]; rfl
    have hrv : r.val = val := by rw [← hr]; rfl
    have hrm : r.mask = mask := by rw [← hr]; rfl
    split
    · rename_i hl
      obtain ⟨base, c1, c2, c3⟩ := hlast hl
      cases dst with
      | latch k =>
        intro l hl16
        refine ⟨fun hm => ?_, fun h hm => ?_⟩
        · rw [c1, (land_planes base s.hereSys r).2.2.2.2.2, hrd]
          simp only []
          rw [tabGet_set_same, lane_mergeLanes _ _ _ _ hl16, hrm, if_pos hm, hrv]
        · obtain ⟨base, -, -, b3, -, b5⟩ := hset h
          rw [b5, if_pos hl, (land_planes base s.hereSys r).2.2.2.2.2, hrd]
          simp only []
          rw [tabGet_set_same, lane_mergeLanes _ _ _ _ hl16, hrm, hm, b3]; rfl
      | qpair k =>
        have := readQ_land base s.hereSys r k hrd
        simp only [Ctx.readQ, c2, ← hrv]
        exact this
      | gpair cl k =>
        intro l hl16 hm
        have := readG_land base s.hereSys r cl k l hrd (by rw [hrm]; exact hm) hl16
        simp only [Ctx.readG, c3, ← hrv]
        exact this
      | sreg n => rcases hdst with ⟨_, h⟩ | ⟨_, h⟩ | ⟨_, _, h⟩ | h <;> first | cases h | exact h hl
      | vreg a b => rcases hdst with ⟨_, h⟩ | ⟨_, h⟩ | ⟨_, _, h⟩ | h <;> first | cases h | exact h hl
    · rename_i hl
      rw [e3, List.mem_filter]
      refine ⟨?_, ?_⟩
      · rw [← hr]; simp [State.recordOf]
      · simp only [bne_iff_ne, ne_eq]
        exact fun e => hl ((due_one hL).mp e)

/-- The same where the operation consumes its operand latches as its unit does. -/
theorem fired_record {s : State} {m : Mv} {d : BitVec 10} {op : Op} {L : Nat} {dst : DueDst} {val : Line} {mask : BitVec 16}
    {flags : BitVec 6} (hL : 0 < L ∧ L < 2 ^ 64)
    (hdst : (∃ k, dst = .latch k) ∨ (∃ p, dst = .qpair p) ∨ (∃ cl p, dst = .gpair cl p) ∨ L ≠ 1)
    (hact : s.acted m d op = (s.primed m d op).addRecord (s.argHere m d op) L dst val mask flags)
    (hbr : op.branch (s.argHere m d op) = none) (hfin : ∀ s', op.fin (s.argHere m d op) s' = s') :
    s.Frame (s.fired m d op) (s.landedCtx L (s.recordOf L dst val mask flags))
      ∧ s.Issued (s.fired m d op) (if (op.needs (s.argHere m d op).val).isEmpty then [] else op.ports) (dst.latches L)
          (s.herePlane.pc + 1)
      ∧ s.Delivers (s.fired m d op) L dst val mask flags :=
  fired_record_of hL hdst (primed_spec s m d op) hact hbr hfin

/-! ## Operations that add no record -/

theorem near_fin {s v : State} {w : Nat} : Near v (v.advance s.here w) s.turn.core s.turn.ctx := near_advance v s.here w

/-- A bundle of one trigger that adds no record: `v` is the state after its own effects and the loop-end step. -/
theorem fired_effect {s v : State} {m : Mv} {d : BitVec 10} {op : Op}
    (hv : op.fin (s.argHere m d op) (s.proceed (s.acted m d op) (op.branch (s.argHere m d op))) = v)
    (ha : ∀ b, ((s.acted m d op).ctx s.turn.core s.turn.ctx).plane b = ((s.primed m d op).ctx s.turn.core s.turn.ctx).plane b)
    (hp : ∀ b, (v.ctx s.turn.core s.turn.ctx).plane b
      = ((s.proceed (s.acted m d op) (op.branch (s.argHere m d op))).ctx s.turn.core s.turn.ctx).plane b) :
    Near v (s.fired m d op) s.turn.core s.turn.ctx
      ∧ s.Issued (s.fired m d op) (if (op.needs (s.argHere m d op).val).isEmpty then [] else op.ports) []
          ((op.branch (s.argHere m d op)).getD (s.herePlane.pc + 1))
      ∧ (∀ n, op.branch (s.argHere m d op) = some n → (s.planeAfter (s.fired m d op)).pc = n)
      ∧ ((s.fired m d op).ctx s.turn.core s.turn.ctx).fixed = (v.ctx s.turn.core s.turn.ctx).fixed
      ∧ (s.settled = true →
          ((s.fired m d op).ctx s.turn.core s.turn.ctx).aside = (v.ctx s.turn.core s.turn.ctx).aside) := by
  have P := primed_spec s m d op
  have ht : s.fired m d op = v.advance s.here op.weight := by unfold State.fired; simp only [hv]
  have A := advance_ctx v s.here op.weight
  have B := advance_planes (v.ctx s.turn.core s.turn.ctx) s.hereSys
  have C := proceed_plane s (s.acted m d op) (op.branch (s.argHere m d op))
  have hb : ∀ b, ((s.fired m d op).ctx s.turn.core s.turn.ctx).plane b
      = ((v.ctx s.turn.core s.turn.ctx).advance s.hereSys).plane b := fun b => by
    rw [ht]; exact plane_eq A.2.1 A.2.2.1 b
  have hcyc : ((v.ctx s.turn.core s.turn.ctx).plane s.hereSys).cyc = s.herePlane.cyc := by
    rw [hp, C.1, ha]; exact P.plane.2.1
  have hdue : ((v.ctx s.turn.core s.turn.ctx).plane s.hereSys).due = s.herePlane.due := by
    rw [hp, C.2.2.2.1, ha]; exact P.plane.2.2.2
  have hset : s.settled = true → (v.ctx s.turn.core s.turn.ctx).advance s.hereSys
      = ((v.ctx s.turn.core s.turn.ctx).modPlane s.hereSys (fun p => { p with
          cyc := s.herePlane.cyc + 1, due := p.due.filter (fun r => r.due != s.herePlane.cyc + 1) })).freeBanks := by
    intro h
    simp only [State.settled, Bool.and_eq_true, Plane.dueAt] at h
    unfold Ctx.advance
    simp only [Plane.dueAt, hcyc, hdue, List.isEmpty_iff.mp h.1]
    rfl
  have hbrpc : ∀ n, op.branch (s.argHere m d op) = some n → (s.planeAfter (s.fired m d op)).pc = n := by
    intro n hn
    rw [State.planeAfter, hb, B.2.1, hp, hn]
    unfold State.proceed
    simp only [ctx_modCtx_same, plane_modPlane_same]
  refine ⟨by rw [ht]; exact near_advance .., ⟨?_, ?_, fun k => ?_, fun h => ?_, fun h k _ => ?_⟩, hbrpc, ?_, fun h => ?_⟩
  · rw [State.planeAfter, hb, B.2.2.1, hcyc]
  · rw [hb, B.1, hp, C.2.2.2.2, ha]; exact P.other
  · rw [State.planeAfter, hb, B.2.2.2.1, hp, C.2.1, ha]; exact P.latches k
  · cases hn : op.branch (s.argHere m d op) with
    | some n => exact hbrpc n hn
    | none =>
      rw [State.planeAfter, hb, B.2.1, hp, hn, proceed_pc s _ h]; rfl
  · rw [State.planeAfter, hb, hset h, plane_freeBanks, plane_modPlane_same]
    simp only [hp, C.2.2.1, ha]
    exact congrArg (fun r => tabGet 0 r k) P.plane.2.2.1
  · rw [ht]
    exact (fixed_of_aside A.1).trans (advance_fixed ..)
  · rw [ht]
    refine A.1.trans ?_
    have e := congrArg Ctx.aside (hset h)
    rw [aside_freeBanks, aside_modPlane] at e
    exact e

end Sys2Proof.Machine
end

