-- ==== Sys2Proof/Laws/Plain.lean ====
section
/-!
SUPPORT. Operations without checks, waits and effects of their own but one record in the due buffer.
-/

namespace Sys2Proof.Machine

/-- An operation that has no check or wait beyond its operand latches, `illegal` and `lacks`. -/
def plainOp (ports needs : List Nat) (weight : Nat) (illegal lacks : Arg → Option Nat) (act : Arg → State → State) : Op :=
  { ports := ports, needs := fun _ => needs, weight := weight, illegal := illegal, lacks := lacks, act := act }

/-- It fires where it is ready. -/
theorem ready_fires {s : State} {m : Mv} {d : BitVec 10} {ports needs : List Nat} {weight : Nat} {illegal lacks : Arg → Option Nat}
    {act : Arg → State → State} {op : Op} (hop : op = plainOp ports needs weight illegal lacks act)
    (h : s.ready m d needs = true) (hi : illegal (s.argHere m d op) = none) (hl : lacks (s.argHere m d op) = none) :
    s.fires m d op = true := by
  subst hop
  simp only [State.ready, Bool.and_eq_true] at h
  obtain ⟨⟨h1, h2⟩, h3⟩ := h
  unfold plainOp at hi hl ⊢
  simp only [State.fires, h1, h2, h3, hi, hl, Gate.opened, List.all_nil, Option.isNone_none, Bool.not_false, Bool.false_and,
    Bool.true_or, Bool.or_true, Bool.and_self, List.map_nil, banksServe_nil]

/-- One record as all an operation does. -/
theorem ready_results {s : State} {m : Mv} {d : BitVec 10} {ports needs : List Nat} {weight : Nat} {illegal lacks : Arg → Option Nat}
    {L : Nat} {dst : Arg → DueDst} {val : Arg → Line} {mask : Arg → BitVec 16} {flags : Arg → BitVec 6} {op : Op}
    (hop : op = plainOp ports needs weight illegal lacks (fun a s => s.addRecord a L (dst a) (val a) (mask a) (flags a)))
    (hL : 0 < L ∧ L < 2 ^ 64)
    (hdst : ∀ a, (∃ k, dst a = .latch k) ∨ (∃ p, dst a = .qpair p) ∨ (∃ cl p, dst a = .gpair cl p) ∨ L ≠ 1)
    (h : s.ready m d needs = true) (hi : illegal (s.argHere m d op) = none) (hl : lacks (s.argHere m d op) = none) :
    s.Results (issueTrigger m d op s) (if needs.isEmpty then [] else ports) L (dst (s.argHere m d op)) (val (s.argHere m d op))
      (mask (s.argHere m d op)) (flags (s.argHere m d op)) := by
  have hf := ready_fires hop h hi hl
  have hr : s.Frame (s.fired m d op) _ ∧ _ := fired_record (s := s) (m := m) (d := d) (op := op) hL (hdst (s.argHere m d op))
    (by rw [hop]; rfl) (by rw [hop]; rfl) (by rw [hop]; exact fun _ => rfl)
    (val := val (s.argHere m d op)) (mask := mask (s.argHere m d op)) (flags := flags (s.argHere m d op))
  obtain ⟨h1, h2, h3⟩ := hr
  refine ⟨_, issueTrigger_fires hf, h1, ?_, h3⟩
  have : (if (op.needs (s.argHere m d op).val).isEmpty = true then [] else op.ports)
      = (if needs.isEmpty = true then [] else ports) := by rw [hop]; rfl
  rwa [this] at h2

/-- A trigger that fires and adds one record. -/
theorem fires_results {s : State} {m : Mv} {d : BitVec 10} {op : Op} {L : Nat} {dst : DueDst} {val : Line} {mask : BitVec 16}
    {flags : BitVec 6} {used : List Nat} (h : s.fires m d op = true) (hL : 0 < L ∧ L < 2 ^ 64)
    (hdst : (∃ k, dst = .latch k) ∨ (∃ p, dst = .qpair p) ∨ (∃ cl p, dst = .gpair cl p) ∨ L ≠ 1)
    (hu : (if (op.needs (s.argHere m d op).val).isEmpty then [] else op.ports) = used)
    (hact : op.act (s.argHere m d op) (s.primed m d op) = (s.primed m d op).addRecord (s.argHere m d op) L dst val mask flags)
    (hbr : op.branch (s.argHere m d op) = none) (hfin : ∀ s', op.fin (s.argHere m d op) s' = s') :
    s.Results (issueTrigger m d op s) used L dst val mask flags := by
  subst hu
  obtain ⟨h1, h2, h3⟩ := fired_record (s := s) (m := m) (d := d) (op := op) hL hdst hact hbr hfin
  exact ⟨_, issueTrigger_fires h, h1, h2, h3⟩

/-- A scalar operation computes its function. -/
theorem scalar_self {i : Mv → Instr} {d : BitVec 10} {p q : Nat} {needs : List Nat} {res L : Nat} {f : Dword → Dword → Dword → Dword}
    (hL : 0 < L ∧ L < 2 ^ 64) (he : ∀ m s, exec (i m) s = issueTrigger m d (scalarOp [p, q] needs res L f) s) :
    Scalar i d p q needs res L f := by
  intro s m h
  rw [he]
  exact ready_results (op := scalarOp [p, q] needs res L f) (ports := [p, q]) (needs := needs) (weight := 2)
    (illegal := fun _ => none) (lacks := fun _ => none) (L := L) (dst := fun _ => .latch res)
    (val := fun a => ofDword (f a.x1 a.x2 a.val)) (mask := fun _ => 0xFFFF) (flags := fun _ => 0) rfl hL
    (fun _ => .inl ⟨_, rfl⟩) h rfl rfl

/-- A lane-wise operation computes its function. -/
theorem lanewise_self {i : Mv → Instr} {d : BitVec 10} {p q : Nat} {needs : List Nat} {weight res L : Nat}
    {f : Word → Word → Word → Word × BitVec 6}
    (hL : 0 < L ∧ L < 2 ^ 64) (he : ∀ m s, exec (i m) s = issueTrigger m d (laneOp [p, q] needs weight res L f) s) :
    Lanewise i d p q needs res L f := by
  intro s m h
  rw [he]
  exact ready_results (op := laneOp [p, q] needs weight res L f) (ports := [p, q]) (needs := needs) (weight := weight)
    (illegal := fun _ => none) (lacks := fun _ => none) (L := L) (dst := fun a => .latch (res + 1024 * a.slot))
    (val := fun a => mapLanes (fun l => (f (lane a.o1 l) (lane a.o2 l) (lane a.v l)).1)) (mask := fun a => a.mask)
    (flags := fun a => laneFlags a.mask (fun l => (f (lane a.o1 l) (lane a.o2 l) (lane a.v l)).2)) rfl hL
    (fun _ => .inl ⟨_, rfl⟩) h rfl rfl

/-- An operation that adds one lane-wise record, told by its argument, computes its function. -/
theorem lanes_self {i : Mv → Instr} {d : BitVec 10} {used ports needs : List Nat} {weight res L : Nat} {ok : State → Mv → Bool}
    {illegal lacks : Arg → Option Nat} {g : Arg → Nat → Word × BitVec 6} {f : State → Mv → Nat → Word × BitVec 6} {op : Op}
    (hop : op = plainOp ports needs weight illegal lacks (fun a s => s.addLanes a L res (g a)))
    (hL : 0 < L ∧ L < 2 ^ 64) (he : ∀ m s, exec (i m) s = issueTrigger m d op s)
    (hu : used = if needs.isEmpty then [] else ports)
    (hi : ∀ s m, ok s m = true → illegal (s.argHere m d op) = none) (hl : ∀ s m, ok s m = true → lacks (s.argHere m d op) = none)
    (hf : ∀ s m, g (s.argHere m d op) = f s m) : Lanes i d used needs res L ok f := by
  intro s m h hok
  subst hu
  rw [he, ← hf]
  exact ready_results (L := L) (dst := fun a => .latch (res + 1024 * a.slot))
    (val := fun a => mapLanes (fun l => (g a l).1)) (mask := fun a => a.mask)
    (flags := fun a => laneFlags a.mask (fun l => (g a l).2)) hop hL
    (fun _ => .inl ⟨_, rfl⟩) h (hi s m hok) (hl s m hok)

end Sys2Proof.Machine
end

