-- ==== Sys2Proof/Laws/Effect.lean ====
section
/-!
SUPPORT. Operations that add no record: what the state is after the bundle, from what the trigger does.
-/

namespace Sys2Proof.Machine

/-- The ports a trigger consumes. -/
def usedPorts (s : State) (m : Mv) (d : BitVec 10) (op : Op) : List Nat :=
  if (op.needs (s.argHere m d op).val).isEmpty then [] else op.ports

/-- The frame against a state that has the turn and the settledness of s. -/
theorem frame_against {s u t : State} {cx : Ctx} (ht : u.turn = s.turn) (hs : u.settled = s.settled)
    (h : Near u t s.turn.core s.turn.ctx) (hf : (t.ctx s.turn.core s.turn.ctx).fixed = cx.fixed)
    (hc : s.settled = true → (t.ctx s.turn.core s.turn.ctx).aside = cx.aside) : u.Frame t cx := by
  apply frame_of_near
  · rw [ht]; exact h
  · rw [ht]; exact hf
  · rw [ht, hs]; exact hc

/-- A trigger that fires and works at once: `u` is the state with its effect. -/
theorem fires_does {s u : State} {m : Mv} {d : BitVec 10} {op : Op} {cx : Ctx} (h : s.fires m d op = true)
    (hbr : op.branch (s.argHere m d op) = none) (hfin : ∀ s', op.fin (s.argHere m d op) s' = s')
    (ha : ∀ b, ((s.acted m d op).ctx s.turn.core s.turn.ctx).plane b
      = ((s.primed m d op).ctx s.turn.core s.turn.ctx).plane b)
    (hn : Near u (s.acted m d op) s.turn.core s.turn.ctx) (ht : u.turn = s.turn) (hs : u.settled = s.settled)
    (hcx : ((s.acted m d op).ctx s.turn.core s.turn.ctx).aside = cx.aside) :
    s.Does (issueTrigger m d op s) (usedPorts s m d op) u cx := by
  obtain ⟨h1, h2, -, h4, h5⟩ := fired_effect (s := s) (m := m) (d := d) (op := op) (v := s.proceed (s.acted m d op) none)
    (by rw [hfin, hbr]) ha (fun b => by rw [hbr])
  rw [hbr] at h2
  refine ⟨_, issueTrigger_fires h, frame_against ht hs ((hn.trans (near_proceed ..)).trans h1) ?_ (fun hset => ?_), h2⟩
  · rw [h4, proceed_fixed]; exact fixed_of_aside hcx
  · rw [h5 hset, proceed_aside s _ hset, hcx]

/-- A trigger that fires and changes its context at the end of the bundle. -/
theorem fires_does_ctx {s : State} {m : Mv} {d : BitVec 10} {op : Op} {g : Ctx → Ctx} (h : s.fires m d op = true)
    (hbr : op.branch (s.argHere m d op) = none) (hact : s.acted m d op = s.primed m d op)
    (hfin : ∀ s', op.fin (s.argHere m d op) s' = s'.modCtx s.turn.core s.turn.ctx g)
    (hg : ∀ cx b, (g cx).plane b = cx.plane b) (hga : ∀ cx cy : Ctx, cx.aside = cy.aside → (g cx).aside = (g cy).aside)
    (hgf : ∀ cx cy : Ctx, cx.fixed = cy.fixed → (g cx).fixed = (g cy).fixed) :
    s.Does (issueTrigger m d op s) (usedPorts s m d op) s (g s.hereCtx) := by
  have P := primed_spec s m d op
  obtain ⟨h1, h2, -, h4, h5⟩ := fired_effect (s := s) (m := m) (d := d) (op := op)
    (v := (s.proceed (s.acted m d op) none).modCtx s.turn.core s.turn.ctx g)
    (by rw [hfin, hbr]) (fun b => by rw [hact]) (fun b => by rw [hbr, ctx_modCtx_same, hg])
  rw [hbr] at h2
  refine ⟨_, issueTrigger_fires h, frame_against rfl rfl ?_ ?_ (fun hset => ?_), h2⟩
  · have hn : Near s (s.acted m d op) s.turn.core s.turn.ctx := by rw [hact]; exact P.near
    exact ((hn.trans (near_proceed ..)).trans (near_modCtx ..)).trans h1
  · rw [h4, ctx_modCtx_same]
    apply hgf
    rw [proceed_fixed, hact]
    exact fixed_of_aside P.aside
  · rw [h5 hset, ctx_modCtx_same]
    apply hga
    rw [proceed_aside s _ hset, hact, P.aside]

/-- A change of a context that keeps its planes and goes through what a bundle leaves unchanged. -/
structure Keeps (g : Ctx → Ctx) : Prop where
  planes : ∀ cx b, (g cx).plane b = cx.plane b
  aside  : ∀ cx cy : Ctx, cx.aside = cy.aside → (g cx).aside = (g cy).aside
  fixed  : ∀ cx cy : Ctx, cx.fixed = cy.fixed → (g cx).fixed = (g cy).fixed

/-- Changes of a context that go through. -/
theorem keeps_late (l : Late) : Keeps (fun cx => { cx with late := cx.late ++ [l] }) :=
  ⟨fun _ b => by cases b <;> rfl, fun cx cy h => by
     have h1 : cx.late = cy.late := (show cx.aside.late = cy.aside.late by rw [h])
     have : ({cx with late := cx.late ++ [l]} : Ctx).aside = { cx.aside with late := cx.aside.late ++ [l] } := rfl
     rw [this, h]; rfl, fun cx cy h => by
     have : ({cx with late := cx.late ++ [l]} : Ctx).fixed = { cx.fixed with late := cx.fixed.late ++ [l] } := rfl
     rw [this, h]; rfl⟩
theorem keeps_empty (k : Nat) (b : Bool) : Keeps (fun cx => cx.setEmpty k b) := by
  refine ⟨fun cx c => ?_, fun cx cy h => ?_, fun cx cy h => ?_⟩
  · unfold Ctx.setEmpty; split <;> rfl
  · have : ∀ cx : Ctx, (cx.setEmpty k b).aside = cx.aside.setEmpty k b := by intro cx; unfold Ctx.setEmpty; split <;> rfl
    rw [this, this, h]
  · have : ∀ cx : Ctx, (cx.setEmpty k b).fixed = cx.fixed.setEmpty k b := by intro cx; unfold Ctx.setEmpty; split <;> rfl
    rw [this, this, h]
theorem keeps_comp {f g : Ctx → Ctx} (hf : Keeps f) (hg : Keeps g) : Keeps (fun cx => f (g cx)) :=
  ⟨fun cx b => by rw [hf.planes, hg.planes], fun _ _ h => hf.aside _ _ (hg.aside _ _ h), fun _ _ h => hf.fixed _ _ (hg.fixed _ _ h)⟩


/-- A trigger that fires and changes its context as it acts. -/
theorem fires_does_act {s : State} {m : Mv} {d : BitVec 10} {op : Op} {g : Ctx → Ctx} (h : s.fires m d op = true)
    (hbr : op.branch (s.argHere m d op) = none)
    (hact : s.acted m d op = (s.primed m d op).modCtx s.turn.core s.turn.ctx g)
    (hfin : ∀ s', op.fin (s.argHere m d op) s' = s') (hg : Keeps g) :
    s.Does (issueTrigger m d op s) (usedPorts s m d op) s (g s.hereCtx) := by
  have P := primed_spec s m d op
  refine fires_does h hbr hfin (fun b => ?_) ?_ rfl rfl ?_
  · rw [hact, ctx_modCtx_same, hg.planes]
  · rw [hact]; exact P.near.trans (near_modCtx ..)
  · rw [hact, ctx_modCtx_same]; exact hg.aside _ _ P.aside

/-- A trigger that fires and changes its context as it acts and at the end of the bundle. -/
theorem fires_does_both {s : State} {m : Mv} {d : BitVec 10} {op : Op} {g k : Ctx → Ctx} (h : s.fires m d op = true)
    (hbr : op.branch (s.argHere m d op) = none)
    (hact : s.acted m d op = (s.primed m d op).modCtx s.turn.core s.turn.ctx g)
    (hfin : ∀ s', op.fin (s.argHere m d op) s' = s'.modCtx s.turn.core s.turn.ctx k) (hg : Keeps g) (hk : Keeps k) :
    s.Does (issueTrigger m d op s) (usedPorts s m d op) s (k (g s.hereCtx)) := by
  have P := primed_spec s m d op
  obtain ⟨h1, h2, -, h4, h5⟩ := fired_effect (s := s) (m := m) (d := d) (op := op)
    (v := (s.proceed (s.acted m d op) none).modCtx s.turn.core s.turn.ctx k)
    (by rw [hfin, hbr]) (fun b => by rw [hact, ctx_modCtx_same, hg.planes]) (fun b => by rw [hbr, ctx_modCtx_same, hk.planes])
  rw [hbr] at h2
  refine ⟨_, issueTrigger_fires h, frame_against rfl rfl ?_ ?_ (fun hset => ?_), h2⟩
  · have hn : Near s (s.acted m d op) s.turn.core s.turn.ctx := by rw [hact]; exact P.near.trans (near_modCtx ..)
    exact ((hn.trans (near_proceed ..)).trans (near_modCtx ..)).trans h1
  · rw [h4, ctx_modCtx_same]
    apply hk.fixed
    rw [proceed_fixed, hact, ctx_modCtx_same]
    exact hg.fixed _ _ (fixed_of_aside P.aside)
  · rw [h5 hset, ctx_modCtx_same]
    apply hk.aside
    rw [proceed_aside s _ hset, hact, ctx_modCtx_same]
    exact hg.aside _ _ P.aside

/-- The device outside the cores when a trigger acts is that before its bundle. -/
theorem primed_aside (s : State) (m : Mv) (d : BitVec 10) (op : Op) : (s.primed m d op).aside = s.aside :=
  (primed_spec s m d op).near.device

/-- In particular its cycle count, regions, tags and S-space. -/
theorem primed_cycle (s : State) (m : Mv) (d : BitVec 10) (op : Op) : (s.primed m d op).cycle = s.cycle :=
  (show (s.primed m d op).aside.cycle = s.aside.cycle from by rw [primed_aside])
theorem primed_sspace (s : State) (m : Mv) (d : BitVec 10) (op : Op) : (s.primed m d op).sspace = s.sspace :=
  (show (s.primed m d op).aside.sspace = s.aside.sspace from by rw [primed_aside])
theorem primed_regions (s : State) (m : Mv) (d : BitVec 10) (op : Op) : (s.primed m d op).regions = s.regions :=
  (show (s.primed m d op).aside.regions = s.aside.regions from by rw [primed_aside])

/-- Marking an effect changes tile steps alone. -/
theorem aside_markEffect (s : State) (c x : Nat) : (s.markEffect c x).aside = s.aside := by
  unfold State.markEffect
  split <;> rfl
theorem core_markEffect (s : State) (c x d : Nat) : (s.markEffect c x).core d = s.core d := by
  unfold State.markEffect
  split <;> rfl

end Sys2Proof.Machine
end

