-- ==== Sys2Proof/Laws/Memory.lean ====
section
/-!
SUPPORT. The named memory operations: what a read finds after a write, and that every one of them keeps the canonical form.
-/

namespace Sys2Proof.Machine

/-- Two states hold the same memories. -/
def State.sameMemory (s t : State) : Prop := t.sspace = s.sspace ∧ t.hbm = s.hbm

theorem wf_iff (s : State) : Memory.wf s = true ↔ tabWf 0 s.sspace = true ∧ tabWf 0 s.hbm = true := by
  simp [Memory.wf]

/-- The canonical form depends on the two memories alone. -/
theorem wf_of_sameMemory {s t : State} (h : s.sameMemory t) (w : Memory.wf s = true) : Memory.wf t = true := by
  obtain ⟨h1, h2⟩ := h
  simpa [Memory.wf, h1, h2] using w

/-- The memory after reset is in canonical form. -/
theorem wf_reset : Memory.wf State.reset = true := rfl

/-! ## One operation after the other -/

theorem wf_sWrite {s : State} (w : Memory.wf s = true) (a : Nat) (bs : List Byte) : Memory.wf (s.sWrite a bs) = true := by
  rw [wf_iff] at w ⊢
  exact ⟨tabWf_writeBytes w.1 a bs, w.2⟩

theorem wf_hWrite {s : State} (w : Memory.wf s = true) (a : Nat) (bs : List Byte) : Memory.wf (s.hWrite a bs) = true := by
  rw [wf_iff] at w ⊢
  exact ⟨w.1, tabWf_writeBytes w.2 a bs⟩

theorem sameMemory_modCore (s : State) (c : Nat) (f : Core → Core) : s.sameMemory (s.modCore c f) := ⟨rfl, rfl⟩
theorem sameMemory_modCtx (s : State) (c x : Nat) (f : Ctx → Ctx) : s.sameMemory (s.modCtx c x f) := ⟨rfl, rfl⟩
theorem sameMemory_event (s : State) (c code n : Nat) : s.sameMemory (s.event c code n) := ⟨rfl, rfl⟩
theorem sameMemory_setTag (s : State) (w : Nat) (b : Bool) : s.sameMemory (s.setTag w b) := ⟨rfl, rfl⟩
theorem sameMemory_setPoison (s : State) (a n : Nat) : s.sameMemory (s.setPoison a n) := ⟨rfl, rfl⟩
theorem sameMemory_hSetPoison (s : State) (a n : Nat) : s.sameMemory (s.hSetPoison a n) := ⟨rfl, rfl⟩

/-- What every step of a loop keeps, the loop keeps. -/
theorem foldl_keeps {α β : Type} (P : α → Prop) (f : α → β → α) (h : ∀ a b, P a → P (f a b)) (l : List β) (a : α) (ha : P a) :
    P (l.foldl f a) := by
  induction l generalizing a with
  | nil => exact ha
  | cons b l ih => exact ih _ (h a b ha)

theorem wf_sWriteEngine {s : State} (w : Memory.wf s = true) (c a : Nat) (bs : List Byte) :
    Memory.wf (s.sWriteEngine c a bs) = true := by
  unfold State.sWriteEngine
  split
  · refine foldl_keeps (fun u => Memory.wf u = true) _ (fun u b h => ?_) _ _ w
    dsimp only
    split
    · exact wf_of_sameMemory (sameMemory_event ..) h
    · exact wf_sWrite h ..
  · exact wf_sWrite w ..

theorem wf_sMove {s : State} (w : Memory.wf s = true) (c a : Nat) (bs : List Byte) (ps : List Nat) :
    Memory.wf (s.sMove c a bs ps) = true := by
  unfold State.sMove
  exact wf_of_sameMemory (s := s.sWriteEngine c a bs) ⟨rfl, rfl⟩ (wf_sWriteEngine w ..)

theorem wf_hRewrite {s : State} (w : Memory.wf s = true) (a : Nat) (bs : List Byte) : Memory.wf (s.hRewrite a bs) = true := by
  rw [wf_iff] at w ⊢
  exact ⟨w.1, tabWf_writeBytes w.2 a bs⟩

/-- One word of the buffer. -/
theorem wf_drainWord {s : State} (w : Memory.wf s = true) (c tag : Nat) (l : PwbLine) (i : Nat) :
    Memory.wf (s.drainWord c tag l i) = true := by
  unfold State.drainWord
  simp only []
  split
  · exact w
  · split
    · exact wf_of_sameMemory (sameMemory_event ..) w
    · have h : ∀ u : State, Memory.wf u = true → Memory.wf (if l.poison = true then u.setPoison (4 * (16 * tag + i)) 4 else u) = true := by
        intro u hu
        split
        · exact wf_of_sameMemory (sameMemory_setPoison ..) hu
        · exact hu
      apply h
      split
      · exact wf_sWrite w ..
      · exact foldl_keeps (fun u => Memory.wf u = true) _ (fun _ _ k => wf_sWrite k ..) _ _ w

theorem wf_drainPwb {s : State} (w : Memory.wf s = true) (c : Nat) : Memory.wf (s.drainPwb c) = true := by
  unfold State.drainPwb
  refine wf_of_sameMemory (sameMemory_modCore ..) (foldl_keeps (fun u => Memory.wf u = true) _ (fun u p h => ?_) _ _ w)
  unfold State.drainLine
  split
  · exact h
  · exact foldl_keeps (fun u => Memory.wf u = true) _ (fun _ _ k => wf_drainWord k ..) _ _ h

/-! ## Reads -/

theorem sRead_congr {s t : State} (h : t.sspace = s.sspace) (a n : Nat) : t.sRead a n = s.sRead a n := by
  simp [State.sRead, h]

theorem hRead_congr {s t : State} (h : t.hbm = s.hbm) (a n : Nat) : t.hRead a n = s.hRead a n := by
  simp [State.hRead, h]

theorem sRead_sWrite_same (s : State) (a : Nat) (bs : List Byte) : (s.sWrite a bs).sRead a bs.length = bs :=
  readBytes_writeBytes ..

theorem sRead_sWrite_outside (s : State) (a : Nat) (bs : List Byte) {b : Nat} (h : b < a ∨ a + bs.length ≤ b) :
    (s.sWrite a bs).sRead b 1 = s.sRead b 1 :=
  congrArg (fun x => [x]) (tabGet_writeBytes_outside s.sspace a bs b h)

theorem hRead_hWrite_same (s : State) (a : Nat) (bs : List Byte) : (s.hWrite a bs).hRead a bs.length = bs :=
  readBytes_writeBytes ..

theorem hRead_hWrite_outside (s : State) (a : Nat) (bs : List Byte) {b : Nat} (h : b < a ∨ a + bs.length ≤ b) :
    (s.hWrite a bs).hRead b 1 = s.hRead b 1 :=
  congrArg (fun x => [x]) (tabGet_writeBytes_outside s.hbm a bs b h)

end Sys2Proof.Machine
end

