-- ==== Sys2Proof/Laws/Moves.lean ====
section
/-!
SUPPORT. What an attempt to issue a bundle of one slot without a trigger does: moves, queue pops and pushes, NOPs, carriers.
-/

namespace Sys2Proof.Machine

/-- The kind of a slot whose move fires no trigger. -/
def SlotKind.movesTo (k : SlotKind) (m : Mv) (d : BitVec 10) : Prop := k = .move m d ∨ ∃ n, k = .push m d n

/-- The item of a slot that issues alone passes the judgement of R247. -/
structure Passes (s : State) (kind : SlotKind) (m : Mv) (d : BitVec 10) (it : Item) (popped : State) : Prop where
  run    : s.canRun = true
  same   : it.kind = kind
  moves  : kind.movesTo m d
  read   : readSlots s s.here s [{ k := s.turn.slot, kind := kind }] = ([it], popped)
  code   : encodingIllegal s.here it = none
  queue  : queueIllegal s s.here it = none
  reg    : regEmpty s s.here it [] = none
  dry    : it.dry = none
  taint  : it.taint = none
  full   : (if it.live then (srcEmptyKey s.hereSys it.slot it.m.s).all (fun k => !s.hereCtx.isEmpty k) else true) = true
  loops  : s.loopsFull = true

/-- A bundle whose one slot reads no poisoned word ends no context. -/
theorem endTainted_clean {s : State} {e : Site} {it : Item} (h : it.taint = none) : s.endTainted e [it] = s := by
  unfold State.endTainted
  simp only [List.map, h, firstOf]

theorem movesTo_cases {k : SlotKind} {m : Mv} {d : BitVec 10} (h : k.movesTo m d) (m' : Mv) (d' : BitVec 10) (op : Op) :
    k ≠ .trigger m' d' op := by
  rcases h with h | ⟨n, h⟩ <;> rw [h] <;> nofun

theorem Passes.noTrigger {s : State} {kind : SlotKind} {m : Mv} {d : BitVec 10} {it : Item} {popped : State}
    (h : Passes s kind m d it popped) (m' : Mv) (d' : BitVec 10) (op : Op) : it.kind ≠ .trigger m' d' op := by
  rw [h.same]; exact movesTo_cases h.moves m' d' op

/-- A match on the kind of such a slot takes the arm that is not a trigger's. -/
theorem noTrigger_match {α : Sort _} {k : SlotKind} (h : ∀ m d op, k ≠ .trigger m d op) (f : Mv → BitVec 10 → Op → α) (a : α) :
    (match k with
      | .trigger m d op => f m d op
      | _ => a) = a := by
  cases k with
  | trigger m d op => exact absurd rfl (h m d op)
  | _ => rfl

theorem Passes.cause {s : State} {kind : SlotKind} {m : Mv} {d : BitVec 10} {it : Item} {popped : State}
    (h : Passes s kind m d it popped) (wr : Ctx) : slotsCause s wr s.here [] [it] = none := by
  have hc : slotCause s wr s.here [] it = none := by
    have h1 := h.code
    have h2 := h.queue
    have h3 := h.reg
    have hn := h.noTrigger
    unfold slotCause
    cases hk : it.kind with
    | trigger m' d' op => exact absurd hk (hn m' d' op)
    | _ =>
      simp only [h1, h2, h3, Option.map_none]
      rfl
  simp only [slotsCause, hc]

theorem Passes.keys {s : State} {kind : SlotKind} {m : Mv} {d : BitVec 10} {it : Item} {popped : State}
    (h : Passes s kind m d it popped) (wr : Ctx) : emptyKeys s wr s.here [it] = [] := by
  have hn := h.noTrigger
  have hbr : branchOf s wr s.here [it] = none := by
    simp only [branchOf, List.map]
    cases hk : it.kind with
    | trigger m' d' op => exact absurd hk (hn m' d' op)
    | _ => rfl
  unfold emptyKeys
  rw [List.filter_eq_nil_iff]
  intro k hk
  simp only [List.mem_append] at hk
  simp only [Bool.not_eq_true]
  rcases hk with hk | hk
  · simp only [List.flatMap_cons, List.flatMap_nil, List.append_nil] at hk
    have hf := h.full
    cases hl : it.live with
    | false => simp [hl] at hk
    | true =>
      have hs : k ∈ (srcEmptyKey s.here.sys it.slot it.m.s).toList := by
        cases hk' : it.kind with
        | trigger m' d' op => exact absurd hk' (hn m' d' op)
        | _ => simpa [hl, hk'] using hk
      have hk' : srcEmptyKey s.hereSys it.slot it.m.s = some k := Option.mem_toList.mp hs
      rw [hl, if_pos rfl, hk'] at hf
      have hf' : s.hereCtx.isEmpty k = false := by simpa using hf
      exact hf'
  · rw [hbr] at hk
    have hl := h.loops
    simp only [State.loopsFull] at hl
    by_cases hs : s.hereSys = true
    · simp [State.here, hs] at hk
    · simp only [Bool.not_eq_true] at hs
      simp only [hs, Bool.false_or] at hl
      simp only [State.here, hs, Option.isSome_none, Bool.or_self, Bool.false_eq_true, if_false] at hk
      exact (Bool.not_eq_true' _).mp (List.all_eq_true.mp hl k hk)

/-- The verdict on a slot that passes. -/
theorem Passes.judge {s : State} {kind : SlotKind} {m : Mv} {d : BitVec 10} {it : Item} {popped : State}
    (h : Passes s kind m d it popped) :
    s.judge s.here [{ k := s.turn.slot, kind := kind }] [] = .go [it] popped := by
  have hn := h.noTrigger
  have hclean : tabGet false (s.core s.here.core).untagged ((s.ctx s.here.core s.here.ctx).plane s.here.sys).pc.toNat = true := by
    have := h.run
    simp only [State.canRun, Bool.and_eq_true] at this
    exact this.2
  have hwait : ∀ wr, ([it].any (fun it => match it.kind with
      | .trigger _ _ op => it.live && op.fmtWait (argOf s wr s.here [] it op)
      | _ => false)) = false := by
    intro wr
    rw [List.any_cons, List.any_nil, Bool.or_false]
    cases hk : it.kind with
    | trigger m' d' op => exact absurd hk (hn m' d' op)
    | _ => rfl
  have hunits : ∀ wr, fullUnits s wr s.here [it] = [] := by
    intro wr
    unfold fullUnits
    rw [List.filterMap_cons]
    cases hk : it.kind with
    | trigger m' d' op => exact absurd hk (hn m' d' op)
    | _ => rfl
  have hgates : ∀ wr, gatesOf s wr s.here [it] = .go := by
    intro wr
    simp only [gatesOf, List.foldl]
    cases hk : it.kind with
    | trigger m' d' op => exact absurd hk (hn m' d' op)
    | _ => rfl
  unfold State.judge State.judgeOn
  simp only [hclean, Bool.not_true, if_false, Bool.false_eq_true, collision_one, h.read]
  refine Eq.trans (if_neg (Bool.eq_false_iff.mp (hwait _))) ?_
  rw [h.cause]
  simp only []
  rw [h.keys]
  simp only [List.find?, h.dry, Option.isSome_none]
  rw [hunits]
  simp only []
  rw [hgates]
  have hbanks : ∀ wr, banksOf s wr s.here [it] = [] := by
    intro wr
    unfold banksOf
    rw [List.flatMap_cons]
    cases hk : it.kind with
    | trigger m' d' op => exact absurd hk (hn m' d' op)
    | _ => rfl
  simp only [hbanks, banksServe_nil, if_true]

/-- The attempt of a slot that passes. -/
theorem Passes.attempt {s : State} {kind : SlotKind} {m : Mv} {d : BitVec 10} {it : Item} {popped : State}
    (h : Passes s kind m d it popped) :
    s.attempt s.turn.core s.turn.ctx [{ k := s.turn.slot, kind := kind }]
      = (s.proceed (writeItem s.here (popped.startStep s.here) it) none).advance s.here (itemWeight it) := by
  have hn := h.noTrigger
  have hc : carriersOf [{ k := s.turn.slot, kind := kind }] = [] := by
    rcases h.moves with e | ⟨n, e⟩ <;> rw [e] <;> rfl
  rw [attempt_runs h.run hc h.judge]
  have hbr : ∀ wr, branchOf s wr s.here [it] = none := by
    intro wr
    simp only [branchOf, List.map]
    cases hk : it.kind with
    | trigger m' d' op => exact absurd hk (hn m' d' op)
    | _ => rfl
  have hfire : ∀ wr s', fireItem s wr s.here s' it = s' := by
    intro wr s'
    unfold fireItem
    cases hk : it.kind with
    | trigger m' d' op => exact absurd hk (hn m' d' op)
    | _ => rfl
  have hfin : ∀ wr s', finItem s wr s.here s' it = s' := by
    intro wr s'
    unfold finItem
    cases hk : it.kind with
    | trigger m' d' op => exact absurd hk (hn m' d' op)
    | _ => rfl
  unfold State.perform
  simp only [writeItems, List.foldl, hbr, hfire, hfin, List.map, Nat.zero_add, endTainted_clean h.taint]
  rfl

/-! ## What a move leaves -/

theorem writeV_planes (cx : Ctx) (cl n : Nat) (g : BitVec 16) (v : Line) (b : Bool) : (cx.writeV cl n g v).plane b = cx.plane b := by
  cases b <;> rfl
theorem writeG_planes (cx : Ctx) (cl n : Nat) (g v : BitVec 16) (b : Bool) : (cx.writeG cl n g v).plane b = cx.plane b := by
  cases b <;> rfl
theorem writeQ_planes (cx : Ctx) (n : Nat) (v : Bool) (b : Bool) : (cx.writeQ n v).plane b = cx.plane b := by
  cases b <;> rfl
theorem writeS_planes (cx : Ctx) (sys : Bool) (n : Nat) (v : Dword) (b : Bool) : (cx.writeS sys n v).plane b = cx.plane b := by
  have h := putS_planes cx (sKey sys n) v
  cases b
  · exact h.1
  · exact h.2

/-- Registers after a move touch no plane. -/
theorem afterMove_planes (cx : Ctx) (sys : Bool) (slot : Nat) (d : BitVec 10) (mask : BitVec 16) (raw v : Line) (b : Bool) :
    (cx.afterMove sys slot d mask raw v).plane b = cx.plane b := by
  unfold Ctx.afterMove
  simp only []
  split
  · rfl
  · split
    · exact writeV_planes ..
    · split
      · exact writeG_planes ..
      · split
        · exact writeS_planes ..
        · exact writeQ_planes ..

/-- Registers after a move are told by the registers before. -/
theorem afterMove_congr {cx cy : Ctx} (h : cx.aside = cy.aside) (sys : Bool) (slot : Nat) (d : BitVec 10) (mask : BitVec 16)
    (raw v : Line) : (cx.afterMove sys slot d mask raw v).aside = (cy.afterMove sys slot d mask raw v).aside := by
  have key : ∀ c : Ctx, (c.afterMove sys slot d mask raw v).aside = (c.aside.afterMove sys slot d mask raw v).aside := by
    intro c
    unfold Ctx.afterMove
    simp only []
    split
    · rfl
    · split
      · rfl
      · split
        · rfl
        · split
          · unfold Ctx.writeS Ctx.putS
            simp only []
            split
            · rfl
            · split <;> rfl
          · rfl
  rw [key, h, ← key]

/-- What a move that takes effect does to its context. -/
theorem writeItem_ctx {e : Site} {p : State} {it : Item} {m : Mv} {d : BitVec 10} (hk : it.kind = .move m d)
    (hd : it.d = d) (hm : it.m = m) (hl : it.live = true) :
    let q := writeItem e p it
    let cx := p.ctx e.core e.ctx
    Near p q e.core e.ctx
      ∧ (q.ctx e.core e.ctx).aside = (cx.afterMove e.sys it.slot d it.mask it.raw it.v).aside
      ∧ (q.ctx e.core e.ctx).plane (!e.sys) = cx.plane (!e.sys)
      ∧ (cx.plane e.sys).sameBut ((q.ctx e.core e.ctx).plane e.sys)
      ∧ ∀ k, tabGet {} ((q.ctx e.core e.ctx).plane e.sys).latches k
        = if isOperandPort d = true ∧ k = latchKey it.slot d.toNat
          then (tabGet {} (cx.plane e.sys).latches k).afterMove d m.h it.mask it.v
          else tabGet {} (cx.plane e.sys).latches k := by
  subst hd hm
  have hw : writeItem e p it = if it.d.toNat = 0 then p else p.modCtx e.core e.ctx (fun cx =>
      if isOperandPort it.d then
        cx.setLatch e.sys (latchKey it.slot it.d.toNat)
          ((cx.latch e.sys (latchKey it.slot it.d.toNat)).afterMove it.d it.m.h it.mask it.v)
      else cx.afterMove e.sys it.slot it.d it.mask it.raw it.v) := by
    unfold writeItem
    simp only [hk, hl, Bool.not_true, Bool.false_or, decide_eq_true_eq]
    by_cases h0 : it.d.toNat = 0
    · simp [h0]
    · simp only [h0, if_false]
      congr 1
      funext cx
      by_cases hp : isOperandPort it.d = true
      · simp only [hp, if_true]; rfl
      · simp only [hp, if_false, Bool.false_eq_true]
        unfold Ctx.afterMove
        simp [h0, hp]
  intro q cx
  show Near p (writeItem e p it) e.core e.ctx ∧ _
  have hq : q = writeItem e p it := rfl
  rw [hq, hw]
  by_cases h0 : it.d.toNat = 0
  · have hz : isOperandPort it.d = false := by
      unfold isOperandPort; simp [h0]
    simp only [h0, if_true]
    refine ⟨Near.refl .., ?_, by trivial, ⟨rfl, rfl, rfl, rfl⟩, fun k => by simp [hz]; rfl⟩
    unfold Ctx.afterMove
    simp [h0]
    rfl
  · simp only [h0, if_false, ctx_modCtx_same]
    refine ⟨near_modCtx .., ?_⟩
    by_cases hp : isOperandPort it.d = true
    · simp only [hp, if_true]
      obtain ⟨h1, h2, h3, h4⟩ := setLatch_parts cx e.sys (latchKey it.slot it.d.toNat)
        ((cx.latch e.sys (latchKey it.slot it.d.toNat)).afterMove it.d it.m.h it.mask it.v)
      refine ⟨?_, h2, h3, fun k => ?_⟩
      · have e : cx.afterMove e.sys it.slot it.d it.mask it.raw it.v = cx := by unfold Ctx.afterMove; simp [hp]
        rw [e]; exact h1
      · refine (h4 k).trans ?_
        by_cases hk : k = latchKey it.slot it.d.toNat
        · subst hk; simp only [if_true, true_and]; rfl
        · simp [hk]
    · simp only [hp, if_false, Bool.false_eq_true, false_and, afterMove_planes]
      exact ⟨rfl, rfl, ⟨rfl, rfl, rfl, rfl⟩, fun k => rfl⟩

/-- A slot whose move takes effect. -/
theorem Passes.moves_of {s : State} {m : Mv} {d : BitVec 10} {it : Item} {popped : State}
    (h : Passes s (.move m d) m d it popped) (hd : it.d = d) (hm : it.m = m) (hs : it.slot = s.turn.slot)
    (hl : it.live = true) (hc : popped.cores = s.cores) (ht : popped.turn = s.turn) :
    s.Moves (issueOne (.move m d) s) popped d m.h it.mask it.raw it.v := by
  have hctx : ∀ c x, popped.ctx c x = s.ctx c x := fun c x => by simp only [State.ctx, State.core, hc]
  have hset : popped.settled = s.settled := by
    unfold State.settled State.herePlane State.hereSys State.hereCtx
    simp only [ht, hctx]
  have hstart : ∀ c x, (popped.startStep s.here).ctx c x = s.ctx c x := fun c x => (startStep_ctx ..).trans (hctx ..)
  obtain ⟨n1, c1, c2, c3, c4⟩ := writeItem_ctx (e := s.here) (p := popped.startStep s.here) h.same hd hm hl
  simp only [hstart] at c1 c2 c3 c4
  generalize hu : writeItem s.here (popped.startStep s.here) it = u at *
  obtain ⟨e1, e2, e3, e4⟩ := ended_ctx s u (itemWeight it) _ rfl
  refine ⟨(s.proceed u none).advance s.here (itemWeight it), ?_, ?_, ?_, ?_, ?_, ?_⟩
  · unfold issueOne; rw [h.attempt, hu]
  · refine frame_against ht hset ?_ ?_ (fun hh => ?_)
    · exact (((near_startStep ..).trans n1).trans (near_proceed ..)).trans (near_advance ..)
    · have : (((s.proceed u none).advance s.here (itemWeight it)).ctx s.turn.core s.turn.ctx).fixed
          = (u.ctx s.turn.core s.turn.ctx).fixed := by
        have A := advance_ctx (s.proceed u none) s.here (itemWeight it)
        exact ((fixed_of_aside A.1).trans (advance_fixed ..)).trans (proceed_fixed ..)
      rw [this]
      rw [← hs]; exact fixed_of_aside c1
    · obtain ⟨g1, -, -, -⟩ := ended_settled s u (itemWeight it) _ rfl hh
      rw [g1]
      have hd0 : ((u.ctx s.turn.core s.turn.ctx).modPlane s.hereSys (fun q => { q with pc := s.herePlane.pc + 1 })).advance
          s.hereSys = (((u.ctx s.turn.core s.turn.ctx).modPlane s.hereSys (fun q => { q with pc := s.herePlane.pc + 1 })).modPlane
          s.hereSys (fun p =>
            { p with cyc := s.herePlane.cyc + 1, due := p.due.filter (fun r => r.due != s.herePlane.cyc + 1) })).freeBanks := by
        have hcyc : ((u.ctx s.turn.core s.turn.ctx).plane s.hereSys).cyc = s.herePlane.cyc := c3.2.1
        have hdue : ((u.ctx s.turn.core s.turn.ctx).plane s.hereSys).due = s.herePlane.due := c3.2.2.2
        simp only [State.settled, Bool.and_eq_true, Plane.dueAt] at hh
        unfold Ctx.advance
        simp only [Plane.dueAt, plane_modPlane_same, hcyc, hdue, List.isEmpty_iff.mp hh.1]
        rfl
      rw [hd0, aside_freeBanks, aside_modPlane, aside_modPlane, ← hs]
      exact c1
  · exact e1.trans (congrArg (· + 1) c3.2.1)
  · exact e4.trans c2
  · intro k
    rw [e2]
    have := c4 k
    rw [hs] at this
    exact this
  · intro hh
    obtain ⟨-, g2, -, -⟩ := ended_settled s u (itemWeight it) _ rfl hh
    have hcyc : ((u.ctx s.turn.core s.turn.ctx).plane s.hereSys).cyc = s.herePlane.cyc := c3.2.1
    have hdue : ((u.ctx s.turn.core s.turn.ctx).plane s.hereSys).due = s.herePlane.due := c3.2.2.2
    have hres : ((u.ctx s.turn.core s.turn.ctx).plane s.hereSys).results = s.herePlane.results := c3.2.2.1
    rw [g2]
    simp only [State.settled, Bool.and_eq_true, Plane.dueAt] at hh
    unfold Ctx.advance
    simp only [Plane.dueAt, plane_modPlane_same, plane_freeBanks, hcyc, hdue, List.isEmpty_iff.mp hh.1, List.foldl, hres,
      and_self]

/-! ## Slots that pass -/

/-- A move from a plain source that can be made. -/
theorem passes_move {s : State} {m : Mv} {d : BitVec 10} (h : s.canMove m d = true) (hl : s.loopsFull = true) :
    Passes s (.move m d) m d (s.soloItem m d (.move m d)) s := by
  simp only [State.canMove, Bool.and_eq_true] at h
  obtain ⟨⟨⟨h1, h2⟩, h3⟩, h4⟩ := h
  have h2' := h2
  simp only [State.readable, Bool.and_eq_true] at h2'
  refine ⟨h1, rfl, .inl rfl, readSlots_one s _ m d rfl (fun _ _ _ => nofun) h2'.1.2,
    encoding_legal s m d _ (fun _ _ => nofun) h2 h4, rfl, reg_full s m d _ [] h2 rfl, rfl, rfl, ?_, hl⟩
  split
  · have : (match srcEmptyKey s.hereSys s.turn.slot m.s with
      | some k => !s.hereCtx.isEmpty k
      | none => true) = true := h2'.2
    show (srcEmptyKey s.hereSys s.turn.slot m.s).all _ = true
    revert this
    cases srcEmptyKey s.hereSys s.turn.slot m.s <;> simp
  · rfl

/-- Its move takes effect. -/
theorem live_move {s : State} {m : Mv} {d : BitVec 10} (kind : SlotKind) (h : s.guardOpen m d = true) :
    (s.soloItem m d kind).live = true := by
  simp only [State.guardOpen, Bool.or_eq_true] at h
  simp only [State.soloItem, Bool.or_eq_true, decide_eq_true_eq]
  rcases h with (g | g) | g
  · left; left; rw [eq_of_beq g]; rfl
  · left; right; exact g
  · right; exact g

/-- Lane mask of a move that takes effect. -/
theorem mask_move {s : State} {m : Mv} {d : BitVec 10} (kind : SlotKind) (h : s.guardOpen m d = true) :
    (s.soloItem m d kind).mask = s.moveMask m d := by
  simp only [State.guardOpen, Bool.or_eq_true] at h
  simp only [State.soloItem, State.moveMask]
  by_cases b : m.g = 0
  · simp [b]
  · have b' : m.g.toNat ≠ 0 := fun h => b (BitVec.eq_of_toNat_eq h)
    have b'' : (m.g == 0) = false := by simpa using b
    by_cases a : sharedDst d = true
    · rcases h with (g | g) | g
      · rw [b''] at g; cases g
      · simp [a] at g
      · simp [a, b', g]
    · simp [a, b']; exact fun h => absurd h b

/-- A move from a plain source. -/
theorem move_moves {s : State} {m : Mv} {d : BitVec 10} (h : s.canMove m d = true) (hl : s.loopsFull = true) :
    s.Moves (issueOne (.move m d) s) s d m.h (s.moveMask m d) (s.source s.here s.turn.slot m.s) (s.moved m d) := by
  have hg : s.guardOpen m d = true := by
    simp only [State.canMove, Bool.and_eq_true] at h; exact h.1.2
  have := (passes_move h hl).moves_of rfl rfl rfl (live_move _ hg) rfl rfl
  rw [mask_move _ hg] at this
  exact this

/-! ## Slots that hold nothing -/

/-- A NOP or a carrier that issues. -/
theorem idle_attempt {s : State} {kind : SlotKind} (hk : kind = .nop ∨ ∃ i, kind = .carrier i) (h : s.canRun = true)
    (hl : s.loopsFull = true) :
    s.attempt s.turn.core s.turn.ctx [{ k := s.turn.slot, kind := kind }]
      = (s.proceed (s.startStep s.here) none).advance s.here 0 := by
  obtain ⟨h1, h2, hd, h3⟩ := canRun_parts h
  generalize he : s.site s.turn.core s.turn.ctx [{ k := s.turn.slot, kind := kind }] = e
  have ec : e.core = s.turn.core := by rw [← he]; rfl
  have ex : e.ctx = s.turn.ctx := by rw [← he]; rfl
  have es : e.sys = s.hereSys := by rw [← he]; rfl
  have hclean : tabGet false (s.core e.core).untagged ((s.ctx e.core e.ctx).plane e.sys).pc.toNat = true := by
    rw [ec, ex, es]
    simp only [State.canRun, Bool.and_eq_true] at h
    exact h.2
  have hread : readSlots s e s [{ k := s.turn.slot, kind := kind }] = ([], s) := by
    rcases hk with rfl | ⟨i, rfl⟩ <;> rfl
  have hkeys : ∀ wr, emptyKeys s wr e [] = [] := by
    intro wr
    unfold emptyKeys
    rw [List.filter_eq_nil_iff]
    intro k hk
    simp only [State.loopsFull] at hl
    simp only [List.flatMap_nil, List.nil_append] at hk
    simp only [Bool.not_eq_true]
    rw [es, ec, ex] at hk
    by_cases hs : s.hereSys = true
    · simp [hs] at hk
    · simp only [Bool.not_eq_true] at hs
      simp only [hs, Bool.false_or] at hl
      have hb : branchOf s wr e [] = none := rfl
      simp only [hs, hb, Option.isSome_none, Bool.or_self, Bool.false_eq_true, if_false] at hk
      have := (Bool.not_eq_true' _).mp (List.all_eq_true.mp hl k hk)
      rw [ec, ex]; exact this
  have hj : s.judge e [{ k := s.turn.slot, kind := kind }] [] = .go [] s := by
    unfold State.judge State.judgeOn
    simp only [hclean, Bool.not_true, if_false, Bool.false_eq_true, collision_one, hread, List.any_nil]
    simp only [slotsCause, hkeys, List.find?, fullUnits, List.filterMap_nil, gatesOf, List.foldl, banksOf, List.flatMap_nil,
      banksServe_nil, if_true]
  have ha : s.attempt s.turn.core s.turn.ctx [{ k := s.turn.slot, kind := kind }] = s.perform s e [] := by
    have h2' : (s.ctx s.turn.core s.turn.ctx).completing = [] := h2
    have hw : (s.ctx s.turn.core s.turn.ctx).waits = false := by unfold Ctx.waits; rw [h2']; exact hd
    have hj' : s.judgeOn s [] e [{ k := s.turn.slot, kind := kind }] [] = .go [] s := hj
    unfold State.attempt State.attemptOn
    simp only [he, h1, Bool.not_true, if_false, Bool.false_eq_true, hw, h2', List.isEmpty_nil, Bool.and_true, hj', es]
    rcases h3 with h3 | ⟨h3, h4⟩
    · simp [h3]
    · have h3' : (s.ctx s.turn.core s.turn.ctx).preempt = false := h3
      have h4' : (s.ctx s.turn.core s.turn.ctx).firstPending = none := h4
      simp [h3', h4']
  rw [ha]
  have he' : e = { s.here with carriers := e.carriers } := by
    obtain ⟨c, x, b, cs⟩ := e
    simp only at ec ex es
    subst ec ex es
    rfl
  rw [he']
  rfl

/-- The end of a bundle whose acts, from s, have left v: v keeps every context of s and differs from u in planes only. -/
theorem ended_is {s u v : State} {w : Nat} (hc : ∀ c x, v.ctx c x = s.ctx c x)
    (hn : Near u v s.turn.core s.turn.ctx) (ht : u.turn = s.turn) (hs : u.settled = s.settled) :
    u.Frame ((s.proceed v none).advance s.here w) s.hereCtx
      ∧ s.Issued ((s.proceed v none).advance s.here w) [] [] (s.herePlane.pc + 1) := by
  obtain ⟨e1, e2, e3, e4⟩ := ended_ctx s v w _ rfl
  refine ⟨frame_against ht hs ?_ ?_ (fun hh => ?_), ?_, ?_, fun k => ?_, fun hh => ?_,
    fun hh k _ => ?_⟩
  · exact (hn.trans (near_proceed ..)).trans (near_advance ..)
  · have A := advance_ctx (s.proceed v none) s.here w
    refine (((fixed_of_aside A.1).trans (advance_fixed ..)).trans (proceed_fixed ..)).trans ?_
    rw [hc]; rfl
  · obtain ⟨g1, -, -, -⟩ := ended_settled s v w _ rfl hh
    rw [g1, hc]
    simp only [State.settled, Bool.and_eq_true, Plane.dueAt] at hh
    unfold Ctx.advance
    simp only [Plane.dueAt, plane_modPlane_same]
    have : (List.filter (fun r => r.due == ((s.ctx s.turn.core s.turn.ctx).plane s.hereSys).cyc + 1)
      ((s.ctx s.turn.core s.turn.ctx).plane s.hereSys).due) = [] := List.isEmpty_iff.mp hh.1
    simp only [this, List.foldl, aside_freeBanks, aside_modPlane]
    rfl
  · rw [e1, hc]; rfl
  · rw [e4, hc]; rfl
  · rw [e2, hc]; simp; rfl
  · obtain ⟨-, g2, -, -⟩ := ended_settled s v w _ rfl hh
    rw [g2, (advance_planes ..).2.1, plane_modPlane_same]
  · obtain ⟨-, g2, -, -⟩ := ended_settled s v w _ rfl hh
    rw [g2, hc]
    simp only [State.settled, Bool.and_eq_true, Plane.dueAt] at hh
    unfold Ctx.advance
    simp only [Plane.dueAt, plane_modPlane_same]
    have : (List.filter (fun r => r.due == ((s.ctx s.turn.core s.turn.ctx).plane s.hereSys).cyc + 1)
      ((s.ctx s.turn.core s.turn.ctx).plane s.hereSys).due) = [] := List.isEmpty_iff.mp hh.1
    simp only [this, List.foldl, plane_freeBanks, plane_modPlane_same]
    rfl

/-- The end of a bundle that takes no branch changes no tile step. -/
theorem ended_steps (s v : State) (w : Nat) : ((s.proceed v none).advance s.here w).steps = v.steps := by
  have h1 : ∀ (s : State) (e : Site), (s.advance e w).steps = s.steps := by
    intro s e
    have hci : ∀ (s : State) (c x : Nat), (s.countIssue c x).steps = s.steps := by
      intro s c x
      unfold State.countIssue
      dsimp only
      split
      · split <;> rfl
      · rfl
    unfold State.advance
    exact hci ..
  rw [h1]
  have h2 : (s.loopBuffer v s.here (none : Option (BitVec 13)).isNone).steps = v.steps := by
    unfold State.loopBuffer
    dsimp only
    split
    · rfl
    · split <;> rfl
  unfold State.proceed
  refine Eq.trans ?_ h2
  dsimp only
  generalize s.loopBuffer v s.here (none : Option (BitVec 13)).isNone = v
  split <;> rfl

/-- A bundle that only starts its tile step and ends advances its plane and does nothing else. -/
theorem quiet_does {s : State} {out : Host.Outcome State Fault Refusal} {w : Nat}
    (h : out = .next ((s.proceed (s.startStep s.here) none).advance s.here w)) : s.Does out [] s s.hereCtx :=
  have ⟨F, I⟩ := ended_is (w := w) (fun c x => startStep_ctx s s.here c x) (near_startStep s s.here _ _) rfl rfl
  ⟨_, h, F, I⟩

/-- A NOP or a carrier advances its plane and does nothing else. -/
theorem idle_does {s : State} {kind : SlotKind} (hk : kind = .nop ∨ ∃ i, kind = .carrier i) (h : s.canRun = true)
    (hl : s.loopsFull = true) : s.Does (issueOne kind s) [] s s.hereCtx :=
  quiet_does (w := 0) (by unfold issueOne; rw [idle_attempt hk h hl])

/-- A move or trigger whose q guard is 0 is cancelled: it does nothing (R294, R358). -/
theorem cancelled_does {s : State} {kind : SlotKind} {m : Mv} {d : BitVec 10} (hk : kind = .move m d ∨ ∃ op, kind = .trigger m d op)
    (h : s.canRun = true) (hs0 : m.s ≠ 0) (hp : (srcKind m.s).plain = true) (hg : s.guardOpen m d = false)
    (hh : (!m.h || isOperandPort d) = true) (hl : s.loopsFull = true) : s.Does (issueOne kind s) [] s s.hereCtx := by
  have hlive : (s.soloItem m d kind).live = false := by
    simp only [State.guardOpen, Bool.or_eq_false_iff] at hg
    simp only [State.soloItem, Bool.or_eq_false_iff, decide_eq_false_iff_not]
    obtain ⟨⟨g1, g2⟩, g3⟩ := hg
    refine ⟨⟨fun e => ?_, g2⟩, g3⟩
    have : m.g = 0 := BitVec.eq_of_toNat_eq e
    rw [this] at g1
    exact Bool.noConfusion g1
  have hclean : tabGet false (s.core s.here.core).untagged ((s.ctx s.here.core s.here.ctx).plane s.here.sys).pc.toNat = true := by
    simp only [State.canRun, Bool.and_eq_true] at h
    exact h.2
  have hread : readSlots s s.here s [{ k := s.turn.slot, kind := kind }] = ([s.soloItem m d kind], s) := by
    rcases hk with rfl | ⟨op, rfl⟩
    · exact readSlots_one s _ m d rfl (fun _ _ _ => nofun) hp
    · exact readSlots_one s _ m d rfl (fun _ _ _ => nofun) hp
  have henc : encodingIllegal s.here (s.soloItem m d kind) = none := by
    obtain ⟨h3, h4⟩ := plain_kind hp
    have hh' : (m.h && !isOperandPort d) = false := by
      revert hh
      cases m.h <;> cases isOperandPort d <;> simp
    rcases hk with rfl | ⟨op, rfl⟩ <;> unfold encodingIllegal <;>
      simp only [State.soloItem, hh', hs0, if_false, Bool.false_eq_true]
  have hreg : ∀ extra, regEmpty s s.here (s.soloItem m d kind) extra = none := by
    intro extra
    unfold regEmpty
    rw [hlive]
    simp only [State.soloItem, Bool.not_false, Bool.or_true, if_true]
  have hcause : ∀ wr, slotsCause s wr s.here [] [s.soloItem m d kind] = none := by
    intro wr
    have hq : queueIllegal s s.here (s.soloItem m d kind) = none := by rcases hk with rfl | ⟨op, rfl⟩ <;> rfl
    have hc : slotCause s wr s.here [] (s.soloItem m d kind) = none := by
      rcases hk with rfl | ⟨op, rfl⟩
      · have hkind : (s.soloItem m d (.move m d)).kind = .move m d := rfl
        unfold slotCause
        simp only [hkind, henc, hq, hreg]
        rfl
      · have hkind : (s.soloItem m d (.trigger m d op)).kind = .trigger m d op := rfl
        unfold slotCause
        simp only [hkind, hlive, henc, hq, hreg, Bool.not_false, if_true]
        rfl
    simp only [slotsCause, hc]
  have hkeys : ∀ wr, emptyKeys s wr s.here [s.soloItem m d kind] = [] := by
    intro wr
    have hb : branchOf s wr s.here [s.soloItem m d kind] = none := by
      rcases hk with rfl | ⟨op, rfl⟩
      · rfl
      · have hkind : (s.soloItem m d (.trigger m d op)).kind = .trigger m d op := rfl
        simp only [branchOf, List.map, hkind, hlive, Bool.false_eq_true, if_false, firstOf]
    unfold emptyKeys
    rw [List.filter_eq_nil_iff]
    intro k hk
    simp only [State.loopsFull] at hl
    simp only [List.flatMap_cons, List.flatMap_nil, hlive, Bool.not_false, if_true, List.nil_append, hb] at hk
    simp only [Bool.not_eq_true]
    by_cases hs : s.hereSys = true
    · simp [State.here, hs] at hk
    · simp only [Bool.not_eq_true] at hs
      simp only [hs, Bool.false_or] at hl
      simp only [State.here, hs, Option.isSome_none, Bool.or_self, Bool.false_eq_true, if_false] at hk
      exact (Bool.not_eq_true' _).mp (List.all_eq_true.mp hl k hk)
  have hwait : ∀ wr, ([s.soloItem m d kind].any (fun it => match it.kind with
      | .trigger _ _ op => it.live && op.fmtWait (argOf s wr s.here [] it op)
      | _ => false)) = false := by
    intro wr
    simp only [List.any_cons, List.any_nil, Bool.or_false, hlive, Bool.false_and]
    rcases hk with rfl | ⟨op, rfl⟩ <;> rfl
  have hfull : ∀ wr, fullUnits s wr s.here [s.soloItem m d kind] = [] := by
    intro wr
    rcases hk with rfl | ⟨op, rfl⟩
    · rfl
    · have hkind : (s.soloItem m d (.trigger m d op)).kind = .trigger m d op := rfl
      simp only [fullUnits, hkind, List.filterMap_cons, List.filterMap_nil, hlive, Bool.not_false, if_true]
  have hgates : ∀ wr, gatesOf s wr s.here [s.soloItem m d kind] = .go := by
    intro wr
    rcases hk with rfl | ⟨op, rfl⟩
    · rfl
    · have hkind : (s.soloItem m d (.trigger m d op)).kind = .trigger m d op := rfl
      simp only [gatesOf, List.foldl, hkind, hlive, Bool.not_false, if_true]
  have hj : s.judge s.here [{ k := s.turn.slot, kind := kind }] [] = .go [s.soloItem m d kind] s := by
    unfold State.judge State.judgeOn
    simp only [hclean, Bool.not_true, if_false, Bool.false_eq_true, collision_one, hread]
    refine Eq.trans (if_neg (Bool.eq_false_iff.mp (hwait _))) ?_
    have hdry : (s.soloItem m d kind).dry = none := rfl
    rw [hcause]
    have hbanks : ∀ wr, banksOf s wr s.here [s.soloItem m d kind] = [] := by
      intro wr
      rcases hk with rfl | ⟨op, rfl⟩
      · rfl
      · have hkind : (s.soloItem m d (.trigger m d op)).kind = .trigger m d op := rfl
        simp only [banksOf, List.flatMap_cons, List.flatMap_nil, List.append_nil, hkind, hlive, Bool.false_eq_true, if_false]
    simp only [hkeys, List.find?, hdry, Option.isSome_none, hfull, hgates, hbanks, banksServe_nil, if_true]
  have hperf : ∃ w, s.perform s s.here [s.soloItem m d kind] = (s.proceed (s.startStep s.here) none).advance s.here w := by
    have hw : writeItems s.here (s.startStep s.here) [s.soloItem m d kind] = s.startStep s.here := by
      rcases hk with rfl | ⟨op, rfl⟩
      · have hkind : (s.soloItem m d (.move m d)).kind = .move m d := rfl
        simp only [writeItems, List.foldl, writeItem, hkind, hlive, Bool.not_false, Bool.true_or, if_true]
      · rfl
    have hb : ∀ wr, branchOf s wr s.here [s.soloItem m d kind] = none := by
      intro wr
      rcases hk with rfl | ⟨op, rfl⟩
      · rfl
      · have hkind : (s.soloItem m d (.trigger m d op)).kind = .trigger m d op := rfl
        simp only [branchOf, List.map, hkind, hlive, Bool.false_eq_true, if_false, firstOf]
    have hf : ∀ wr u, fireItem s wr s.here u (s.soloItem m d kind) = u := by
      intro wr u
      rcases hk with rfl | ⟨op, rfl⟩
      · rfl
      · have hkind : (s.soloItem m d (.trigger m d op)).kind = .trigger m d op := rfl
        simp only [fireItem, hkind, hlive, Bool.not_false, if_true]
    have hn : ∀ wr u, finItem s wr s.here u (s.soloItem m d kind) = u := by
      intro wr u
      rcases hk with rfl | ⟨op, rfl⟩
      · rfl
      · have hkind : (s.soloItem m d (.trigger m d op)).kind = .trigger m d op := rfl
        simp only [finItem, hkind, hlive, Bool.false_eq_true, if_false]
    refine ⟨itemWeight (s.soloItem m d kind), ?_⟩
    unfold State.perform
    simp only [hw, hb, List.foldl, hf, hn, List.map, Nat.zero_add]
    rfl
  obtain ⟨w, hw⟩ := hperf
  exact quiet_does (w := w) (by unfold issueOne; rw [attempt_runs h (by rcases hk with rfl | ⟨op, rfl⟩ <;> rfl) hj, hw])

/-! ## Queue ports -/

/-- A pop or peek that finds a line. -/
theorem queue_moves {s : State} {m : Mv} {d : BitVec 10} {k : Nat} {v : Line} {mask : BitVec 16} {after u : State}
    (hk : srcKind m.s = .pop k ∧ u = after ∨ srcKind m.s = .peek k ∧ u = s)
    (hr : s.queueRead s.turn.core s.turn.ctx k = .line v mask after) (hq : (s.inq s.turn.core k).isSome = true)
    (hrun : s.canRun = true) (hg : s.guardOpen m d = true) (hh : (!m.h || isOperandPort d) = true) (hl : s.loopsFull = true)
    (hc : u.cores = s.cores) (ht : u.turn = s.turn) (hb : s.queueTaint s.turn.core s.turn.ctx k = none) :
    s.Moves (issueOne (.move m d) s) u d m.h (s.moveMask m d) (s.source s.here s.turn.slot m.s) (s.moved m d) := by
  have hne : srcKind m.s ≠ .reserved ∧ (∀ a b, srcKind m.s ≠ .imm a b) := by
    rcases hk with ⟨e, -⟩ | ⟨e, -⟩ <;> rw [e] <;> exact ⟨nofun, nofun⟩
  have hs0 : m.s ≠ 0 := by
    intro e
    rw [e] at hk
    have h0 : srcKind 0 = .reserved := rfl
    rw [h0] at hk
    rcases hk with ⟨e, -⟩ | ⟨e, -⟩ <;> cases e
  have hkey : srcEmptyKey s.hereSys s.turn.slot m.s = none := by
    unfold srcEmptyKey
    rcases hk with ⟨e, -⟩ | ⟨e, -⟩ <;> rw [e]
  have hlive := live_move (.move m d) hg
  have hsrc : s.source s.here s.turn.slot m.s = (if sharedSrc m.s then ofDword (low64 v) else v) := by
    have hr' : s.queueRead s.here.core s.here.ctx k = .line v mask after := hr
    unfold State.source
    rcases hk with ⟨e, -⟩ | ⟨e, -⟩ <;> rw [e] <;> simp only [hr']
  have hread : readSlots s s.here s [{ k := s.turn.slot, kind := .move m d }]
      = ([{ s.soloItem m d (.move m d) with queue := some k }], u) := by
    have hr' : s.queueRead s.here.core s.here.ctx k = .line v mask after := hr
    have hb' : s.queueTaint s.here.core s.here.ctx k = none := hb
    have hopen : (decide (m.g.toNat = 0) || !sharedDst d || (s.ctx s.here.core s.here.ctx).readQ m.g.toNat) = true := hlive
    rcases hk with ⟨e, rfl⟩ | ⟨e, rfl⟩
    · unfold readSlots
      simp only [Slot.mv, e, hr', hb', readSlots, State.soloItem, State.moved, hsrc, Bool.or_false, ite_self]
      rfl
    · unfold readSlots
      have ho : (decide (m.g.toNat = 0) || !sharedDst d || u.hereCtx.readQ m.g.toNat) = true := hopen
      simp only [Slot.mv, e, hopen, hr', hb', readSlots, State.soloItem, State.moved, hsrc, Bool.or_false, if_true, ho]
      rfl
  have hcode : encodingIllegal s.here { s.soloItem m d (.move m d) with queue := some k } = none := by
    have hh' : (m.h && !isOperandPort d) = false := by
      revert hh
      cases m.h <;> cases isOperandPort d <;> simp
    unfold encodingIllegal
    simp only [State.soloItem, hh', hs0, if_false, Bool.false_eq_true]
    rcases hk with ⟨e, -⟩ | ⟨e, -⟩ <;> rw [e]
  have hp : Passes s (.move m d) m d { s.soloItem m d (.move m d) with queue := some k } u := by
    refine ⟨hrun, rfl, .inl rfl, hread, hcode, ?_, ?_, rfl, rfl, ?_, hl⟩
    · have hq' : (s.inq s.turn.core k).isNone = false := by
        revert hq; cases s.inq s.turn.core k <;> simp
      unfold queueIllegal
      simp only [State.soloItem, State.here, hq', if_false, Bool.false_eq_true]
    · unfold regEmpty
      have : srcEmptyKey s.here.sys s.turn.slot m.s = none := hkey
      simp only [State.soloItem, this, List.find?, Option.map_none, ite_self]
    · have e : srcEmptyKey s.hereSys ({ s.soloItem m d (.move m d) with queue := some k } : Item).slot
          ({ s.soloItem m d (.move m d) with queue := some k } : Item).m.s = none := hkey
      rw [e]
      split <;> rfl
  have := hp.moves_of rfl rfl rfl hlive hc ht
  have hm := mask_move (.move m d) hg
  change s.Moves _ _ _ _ (s.soloItem m d (.move m d)).mask _ _ at this
  rw [hm] at this
  exact this

end Sys2Proof.Machine
end

