-- ==== Sys2Proof/Laws/PerInstr.lean ====
section
/-!
SUPPORT. A statement about every instruction as syntax, one lemma per constructor: a trigger's word carries the four fields of
its move and names its port (R289, R310, Tables 12.3-12.7, 12.10, 12.11).
-/

namespace Sys2Proof.Laws.TriggerWord

open Sys2Proof.Machine

/-- The word of a trigger is that of its move to its port; rows that are no triggers say nothing here. -/
def Statement (i : Instr) : Prop :=
  ∀ (m : Mv) (d : BitVec 10) (op : Op), triggerOf i = some (m, d, op) → encode i = some (mvWord m d)

/-- A row that is no trigger. -/
theorem of_none {i : Instr} (h : triggerOf i = none) : Statement i := fun _ _ _ e => by rw [h] at e; cases e

/-- A trigger whose word is the one asked for. -/
theorem of_some {i : Instr} {m : Mv} {d : BitVec 10} {op : Op} (h : triggerOf i = some (m, d, op))
    (w : encode i = some (mvWord m d)) : Statement i := fun _ _ _ e => by rw [h] at e; cases e; exact w

theorem moduleReset : Statement .moduleReset := of_none rfl
theorem sillFirmwareVerify : ∀ a, Statement (.sillFirmwareVerify a) := fun _ => of_none rfl
theorem bringupComplete : ∀ a, Statement (.bringupComplete a) := fun _ => of_none rfl
theorem identCmd : Statement .identCmd := of_none rfl
theorem statusCmd : Statement .statusCmd := of_none rfl
theorem openCmd : ∀ a, Statement (.openCmd a) := fun _ => of_none rfl
theorem closeCmd : Statement .closeCmd := of_none rfl
theorem scrubCmd : Statement .scrubCmd := of_none rfl
theorem recordsCmd : Statement .recordsCmd := of_none rfl
theorem attestCmd : ∀ a, Statement (.attestCmd a) := fun _ => of_none rfl
theorem fwupd : ∀ a, Statement (.fwupd a) := fun _ => of_none rfl
theorem svncommit : ∀ a, Statement (.svncommit a) := fun _ => of_none rfl
theorem recalCmd : ∀ a, Statement (.recalCmd a) := fun _ => of_none rfl
theorem drainCmd : ∀ a, Statement (.drainCmd a) := fun _ => of_none rfl
theorem undrainCmd : ∀ a, Statement (.undrainCmd a) := fun _ => of_none rfl
theorem readcnt : Statement .readcnt := of_none rfl
theorem sessionClosingEnd : Statement .sessionClosingEnd := of_none rfl
theorem scrubComplete : Statement .scrubComplete := of_none rfl
theorem workRingPoll : Statement .workRingPoll := of_none rfl
theorem nopRequest : ∀ a, Statement (.nopRequest a) := fun _ => of_none rfl
theorem unknownRequest : ∀ a, Statement (.unknownRequest a) := fun _ => of_none rfl
theorem klaunch : ∀ a, Statement (.klaunch a) := fun _ => of_none rfl
theorem kernelLoadComplete : Statement .kernelLoadComplete := of_none rfl
theorem taskRequest : ∀ a, Statement (.taskRequest a) := fun _ => of_none rfl
theorem closeRequest : ∀ a, Statement (.closeRequest a) := fun _ => of_none rfl
theorem taskForm : ∀ a, Statement (.taskForm a) := fun _ => of_none rfl
theorem dispatcherBinDrain : Statement .dispatcherBinDrain := of_none rfl
theorem tileStepPlace : Statement .tileStepPlace := of_none rfl
theorem gangPlace : Statement .gangPlace := of_none rfl
theorem tileStepRetire : ∀ a b, Statement (.tileStepRetire a b) := fun _ _ => of_none rfl
theorem trussBalance : ∀ a, Statement (.trussBalance a) := fun _ => of_none rfl
theorem occupancySample : Statement .occupancySample := of_none rfl
theorem coreMoveTakeEffect : ∀ a, Statement (.coreMoveTakeEffect a) := fun _ => of_none rfl
theorem bundleIssue : ∀ a b, Statement (.bundleIssue a b) := fun _ _ => of_none rfl
theorem dovetailSeat : ∀ a, Statement (.dovetailSeat a) := fun _ => of_none rfl
theorem dovetailRotation : ∀ a, Statement (.dovetailRotation a) := fun _ => of_none rfl
theorem dovetailRoleSwap : ∀ a, Statement (.dovetailRoleSwap a) := fun _ => of_none rfl
theorem freezeCycle : ∀ a, Statement (.freezeCycle a) := fun _ => of_none rfl
theorem longLatencyArrival : ∀ a b c, Statement (.longLatencyArrival a b c) := fun _ _ _ => of_none rfl
theorem trapDelivery : ∀ a b, Statement (.trapDelivery a b) := fun _ _ => of_none rfl
theorem timerExpiry : ∀ a b, Statement (.timerExpiry a b) := fun _ _ => of_none rfl
theorem kChunkDrain : ∀ a, Statement (.kChunkDrain a) := fun _ => of_none rfl
theorem imageSaveComplete : ∀ a, Statement (.imageSaveComplete a) := fun _ => of_none rfl
theorem eccCorrected : ∀ a, Statement (.eccCorrected a) := fun _ => of_none rfl
theorem eccUncorrectable : ∀ a, Statement (.eccUncorrectable a) := fun _ => of_none rfl
theorem phaseOpen : ∀ a, Statement (.phaseOpen a) := fun _ => of_none rfl
theorem engineCommandAccept : ∀ a b, Statement (.engineCommandAccept a b) := fun _ _ => of_none rfl
theorem copyEligible : ∀ a b c, Statement (.copyEligible a b c) := fun _ _ _ => of_none rfl
theorem copyPiece : ∀ a b, Statement (.copyPiece a b) := fun _ _ => of_none rfl
theorem copyComplete : ∀ a b c, Statement (.copyComplete a b c) := fun _ _ _ => of_none rfl
theorem tlbWalk : ∀ a b, Statement (.tlbWalk a b) := fun _ _ => of_none rfl
theorem streamArrival : ∀ a, Statement (.streamArrival a) := fun _ => of_none rfl
theorem refusedResend : ∀ a, Statement (.refusedResend a) := fun _ => of_none rfl
theorem commitAcknowledgement : ∀ a, Statement (.commitAcknowledgement a) := fun _ => of_none rfl
theorem readRequest : ∀ a, Statement (.readRequest a) := fun _ => of_none rfl
theorem readData : ∀ a, Statement (.readData a) := fun _ => of_none rfl
theorem collectiveContribution : ∀ a, Statement (.collectiveContribution a) := fun _ => of_none rfl
theorem setupContribution : ∀ a, Statement (.setupContribution a) := fun _ => of_none rfl
theorem channelElement : ∀ a, Statement (.channelElement a) := fun _ => of_none rfl
theorem channelCredit : ∀ a, Statement (.channelCredit a) := fun _ => of_none rfl
theorem operationUnreachable : ∀ a, Statement (.operationUnreachable a) := fun _ => of_none rfl
theorem dataFlitSend : ∀ a, Statement (.dataFlitSend a) := fun _ => of_none rfl
theorem idleFlitSend : ∀ a, Statement (.idleFlitSend a) := fun _ => of_none rfl
theorem dataFlit : ∀ a b, Statement (.dataFlit a b) := fun _ _ => of_none rfl
theorem ack : ∀ a b, Statement (.ack a b) := fun _ _ => of_none rfl
theorem retryreq : ∀ a b, Statement (.retryreq a b) := fun _ _ => of_none rfl
theorem creditFlit : ∀ a b, Statement (.creditFlit a b) := fun _ _ => of_none rfl
theorem keymark : ∀ a b, Statement (.keymark a b) := fun _ _ => of_none rfl
theorem drainFlit : ∀ a b, Statement (.drainFlit a b) := fun _ _ => of_none rfl
theorem hello : ∀ a b, Statement (.hello a b) := fun _ _ => of_none rfl
theorem unknownFlit : ∀ a b, Statement (.unknownFlit a b) := fun _ _ => of_none rfl
theorem linkLockLoss : ∀ a, Statement (.linkLockLoss a) := fun _ => of_none rfl
theorem linkSilenceTimeout : ∀ a, Statement (.linkSilenceTimeout a) := fun _ => of_none rfl
theorem rdmaWrite : ∀ a b c d, Statement (.rdmaWrite a b c d) := fun _ _ _ _ => of_none rfl
theorem rdmaRead : ∀ a b c d, Statement (.rdmaRead a b c d) := fun _ _ _ _ => of_none rfl
theorem rdmaInvalidRequest : ∀ a, Statement (.rdmaInvalidRequest a) := fun _ => of_none rfl
theorem thermalLimitStep : Statement .thermalLimitStep := of_none rfl
theorem thermalShutdown : Statement .thermalShutdown := of_none rfl
theorem loaderFillBegin : ∀ a b, Statement (.loaderFillBegin a b) := fun _ _ => of_none rfl
theorem tileFillComplete : ∀ a b, Statement (.tileFillComplete a b) := fun _ _ => of_none rfl
theorem storerDrainComplete : ∀ a b, Statement (.storerDrainComplete a b) := fun _ _ => of_none rfl
theorem tileReleaseEffect : ∀ a b, Statement (.tileReleaseEffect a b) := fun _ _ => of_none rfl
theorem overflowRefill : ∀ a, Statement (.overflowRefill a) := fun _ => of_none rfl
theorem arrayPassDue : ∀ a, Statement (.arrayPassDue a) := fun _ => of_none rfl
theorem mstartGBegin : ∀ a, Statement (.mstartGBegin a) := fun _ => of_none rfl
theorem epilogueComplete : ∀ a, Statement (.epilogueComplete a) := fun _ => of_none rfl
theorem releaseComplete : ∀ a b, Statement (.releaseComplete a b) := fun _ _ => of_none rfl
theorem referenceClockCycle : Statement .referenceClockCycle := of_none rfl
theorem meshStorePerformed : ∀ a b c, Statement (.meshStorePerformed a b c) := fun _ _ _ => of_none rfl
theorem ceCommandDuePoint : ∀ a, Statement (.ceCommandDuePoint a) := fun _ => of_none rfl
theorem idleFlit : ∀ a b, Statement (.idleFlit a b) := fun _ _ => of_none rfl
theorem hostRdmaResponse : ∀ a b, Statement (.hostRdmaResponse a b) := fun _ _ => of_none rfl
theorem sillPreemptionRequest : ∀ a b, Statement (.sillPreemptionRequest a b) := fun _ _ => of_none rfl
theorem nop : ∀ a b c, Statement (.nop a b c) := fun _ _ _ => of_none rfl
theorem immediateCarrier : ∀ a, Statement (.immediateCarrier a) := fun _ => of_none rfl
theorem discardMove : ∀ a, Statement (.discardMove a) := fun _ => of_none rfl
theorem move : ∀ a b, Statement (.move a b) := fun _ _ => of_none rfl
theorem queuePush : ∀ a b, Statement (.queuePush a b) := fun _ _ => of_none rfl
theorem queuePushShared : ∀ a b, Statement (.queuePushShared a b) := fun _ _ => of_none rfl
theorem queuePop : ∀ a b c d e, Statement (.queuePop a b c d e) := fun _ _ _ _ _ => of_none rfl
theorem queuePopShared : ∀ a b c d e, Statement (.queuePopShared a b c d e) := fun _ _ _ _ _ => of_none rfl
theorem queuePeek : ∀ a b c d e, Statement (.queuePeek a b c d e) := fun _ _ _ _ _ => of_none rfl
theorem queuePeekShared : ∀ a b c d e, Statement (.queuePeekShared a b c d e) := fun _ _ _ _ _ => of_none rfl
theorem vadd : ∀ a, Statement (.vadd a) := fun _ => of_some rfl rfl
theorem vsub : ∀ a, Statement (.vsub a) := fun _ => of_some rfl rfl
theorem vadds : ∀ a, Statement (.vadds a) := fun _ => of_some rfl rfl
theorem vsubs : ∀ a, Statement (.vsubs a) := fun _ => of_some rfl rfl
theorem vmin : ∀ a, Statement (.vmin a) := fun _ => of_some rfl rfl
theorem vmax : ∀ a, Statement (.vmax a) := fun _ => of_some rfl rfl
theorem vminu : ∀ a, Statement (.vminu a) := fun _ => of_some rfl rfl
theorem vmaxu : ∀ a, Statement (.vmaxu a) := fun _ => of_some rfl rfl
theorem vand : ∀ a, Statement (.vand a) := fun _ => of_some rfl rfl
theorem vor : ∀ a, Statement (.vor a) := fun _ => of_some rfl rfl
theorem vxor : ∀ a, Statement (.vxor a) := fun _ => of_some rfl rfl
theorem vandn : ∀ a, Statement (.vandn a) := fun _ => of_some rfl rfl
theorem vshl : ∀ a, Statement (.vshl a) := fun _ => of_some rfl rfl
theorem vshr : ∀ a, Statement (.vshr a) := fun _ => of_some rfl rfl
theorem vsra : ∀ a, Statement (.vsra a) := fun _ => of_some rfl rfl
theorem vsel : ∀ a, Statement (.vsel a) := fun _ => of_some rfl rfl
theorem vclz : ∀ a, Statement (.vclz a) := fun _ => of_some rfl rfl
theorem vpopc : ∀ a, Statement (.vpopc a) := fun _ => of_some rfl rfl
theorem vfadd : ∀ a, Statement (.vfadd a) := fun _ => of_some rfl rfl
theorem vfsub : ∀ a, Statement (.vfsub a) := fun _ => of_some rfl rfl
theorem vfmin : ∀ a, Statement (.vfmin a) := fun _ => of_some rfl rfl
theorem vfmax : ∀ a, Statement (.vfmax a) := fun _ => of_some rfl rfl
theorem vfabs : ∀ a, Statement (.vfabs a) := fun _ => of_some rfl rfl
theorem vfneg : ∀ a, Statement (.vfneg a) := fun _ => of_some rfl rfl
theorem vaddB : ∀ a, Statement (.vaddB a) := fun _ => of_some rfl rfl
theorem vsubB : ∀ a, Statement (.vsubB a) := fun _ => of_some rfl rfl
theorem vaddsB : ∀ a, Statement (.vaddsB a) := fun _ => of_some rfl rfl
theorem vsubsB : ∀ a, Statement (.vsubsB a) := fun _ => of_some rfl rfl
theorem vminB : ∀ a, Statement (.vminB a) := fun _ => of_some rfl rfl
theorem vmaxB : ∀ a, Statement (.vmaxB a) := fun _ => of_some rfl rfl
theorem vminuB : ∀ a, Statement (.vminuB a) := fun _ => of_some rfl rfl
theorem vmaxuB : ∀ a, Statement (.vmaxuB a) := fun _ => of_some rfl rfl
theorem vandB : ∀ a, Statement (.vandB a) := fun _ => of_some rfl rfl
theorem vorB : ∀ a, Statement (.vorB a) := fun _ => of_some rfl rfl
theorem vxorB : ∀ a, Statement (.vxorB a) := fun _ => of_some rfl rfl
theorem vandnB : ∀ a, Statement (.vandnB a) := fun _ => of_some rfl rfl
theorem vshlB : ∀ a, Statement (.vshlB a) := fun _ => of_some rfl rfl
theorem vshrB : ∀ a, Statement (.vshrB a) := fun _ => of_some rfl rfl
theorem vsraB : ∀ a, Statement (.vsraB a) := fun _ => of_some rfl rfl
theorem vselB : ∀ a, Statement (.vselB a) := fun _ => of_some rfl rfl
theorem vclzB : ∀ a, Statement (.vclzB a) := fun _ => of_some rfl rfl
theorem vpopcB : ∀ a, Statement (.vpopcB a) := fun _ => of_some rfl rfl
theorem vfaddB : ∀ a, Statement (.vfaddB a) := fun _ => of_some rfl rfl
theorem vfsubB : ∀ a, Statement (.vfsubB a) := fun _ => of_some rfl rfl
theorem vfminB : ∀ a, Statement (.vfminB a) := fun _ => of_some rfl rfl
theorem vfmaxB : ∀ a, Statement (.vfmaxB a) := fun _ => of_some rfl rfl
theorem vfabsB : ∀ a, Statement (.vfabsB a) := fun _ => of_some rfl rfl
theorem vfnegB : ∀ a, Statement (.vfnegB a) := fun _ => of_some rfl rfl
theorem vcmpEq : ∀ a b, Statement (.vcmpEq a b) := fun _ _ => of_some rfl rfl
theorem vcmpNe : ∀ a b, Statement (.vcmpNe a b) := fun _ _ => of_some rfl rfl
theorem vcmpLt : ∀ a b, Statement (.vcmpLt a b) := fun _ _ => of_some rfl rfl
theorem vcmpLe : ∀ a b, Statement (.vcmpLe a b) := fun _ _ => of_some rfl rfl
theorem vcmpLtu : ∀ a b, Statement (.vcmpLtu a b) := fun _ _ => of_some rfl rfl
theorem vcmpLeu : ∀ a b, Statement (.vcmpLeu a b) := fun _ _ => of_some rfl rfl
theorem vcmpFeq : ∀ a b, Statement (.vcmpFeq a b) := fun _ _ => of_some rfl rfl
theorem vcmpFlt : ∀ a b, Statement (.vcmpFlt a b) := fun _ _ => of_some rfl rfl
theorem vcmpFle : ∀ a b, Statement (.vcmpFle a b) := fun _ _ => of_some rfl rfl
theorem vcmpFun : ∀ a b, Statement (.vcmpFun a b) := fun _ _ => of_some rfl rfl
theorem vmul : ∀ a, Statement (.vmul a) := fun _ => of_some rfl rfl
theorem vmulh : ∀ a, Statement (.vmulh a) := fun _ => of_some rfl rfl
theorem vmulhu : ∀ a, Statement (.vmulhu a) := fun _ => of_some rfl rfl
theorem vmad : ∀ a, Statement (.vmad a) := fun _ => of_some rfl rfl
theorem vfmul : ∀ a, Statement (.vfmul a) := fun _ => of_some rfl rfl
theorem vffma : ∀ a, Statement (.vffma a) := fun _ => of_some rfl rfl
theorem vffms : ∀ a, Statement (.vffms a) := fun _ => of_some rfl rfl
theorem vfnma : ∀ a, Statement (.vfnma a) := fun _ => of_some rfl rfl
theorem vsin : ∀ a, Statement (.vsin a) := fun _ => of_some rfl rfl
theorem vcos : ∀ a, Statement (.vcos a) := fun _ => of_some rfl rfl
theorem vexp2 : ∀ a, Statement (.vexp2 a) := fun _ => of_some rfl rfl
theorem vlog2 : ∀ a, Statement (.vlog2 a) := fun _ => of_some rfl rfl
theorem vrcp : ∀ a, Statement (.vrcp a) := fun _ => of_some rfl rfl
theorem vrsqrt : ∀ a, Statement (.vrsqrt a) := fun _ => of_some rfl rfl
theorem vsqrt : ∀ a, Statement (.vsqrt a) := fun _ => of_some rfl rfl
theorem vcvtF32I32 : ∀ a, Statement (.vcvtF32I32 a) := fun _ => of_some rfl rfl
theorem vcvtI32F32 : ∀ a, Statement (.vcvtI32F32 a) := fun _ => of_some rfl rfl
theorem vcvtF32Bf16 : ∀ a, Statement (.vcvtF32Bf16 a) := fun _ => of_some rfl rfl
theorem vcvtBf16F32 : ∀ a, Statement (.vcvtBf16F32 a) := fun _ => of_some rfl rfl
theorem vcvtF32F16 : ∀ a, Statement (.vcvtF32F16 a) := fun _ => of_some rfl rfl
theorem vcvtF16F32 : ∀ a, Statement (.vcvtF16F32 a) := fun _ => of_some rfl rfl
theorem vcvtF32E4m3 : ∀ a, Statement (.vcvtF32E4m3 a) := fun _ => of_some rfl rfl
theorem vcvtE4m3F32 : ∀ a, Statement (.vcvtE4m3F32 a) := fun _ => of_some rfl rfl
theorem vcvtF32E5m2 : ∀ a, Statement (.vcvtF32E5m2 a) := fun _ => of_some rfl rfl
theorem vcvtE5m2F32 : ∀ a, Statement (.vcvtE5m2F32 a) := fun _ => of_some rfl rfl
theorem vcvtF32Fp4 : ∀ a, Statement (.vcvtF32Fp4 a) := fun _ => of_some rfl rfl
theorem vcvtFp4F32 : ∀ a, Statement (.vcvtFp4F32 a) := fun _ => of_some rfl rfl
theorem vdecOx4 : ∀ a, Statement (.vdecOx4 a) := fun _ => of_some rfl rfl
theorem vfscale : ∀ a, Statement (.vfscale a) := fun _ => of_some rfl rfl
theorem vld : ∀ a, Statement (.vld a) := fun _ => of_some rfl rfl
theorem vst : ∀ a, Statement (.vst a) := fun _ => of_some rfl rfl
theorem vgld : ∀ a, Statement (.vgld a) := fun _ => of_some rfl rfl
theorem vsct : ∀ a, Statement (.vsct a) := fun _ => of_some rfl rfl
theorem shuf : ∀ a, Statement (.shuf a) := fun _ => of_some rfl rfl
theorem shufLd : ∀ a, Statement (.shufLd a) := fun _ => of_some rfl rfl
theorem vredadd : ∀ a, Statement (.vredadd a) := fun _ => of_some rfl rfl
theorem vredmin : ∀ a, Statement (.vredmin a) := fun _ => of_some rfl rfl
theorem vredmax : ∀ a, Statement (.vredmax a) := fun _ => of_some rfl rfl
theorem vbcast : ∀ a, Statement (.vbcast a) := fun _ => of_some rfl rfl
theorem xcl : ∀ a b, Statement (.xcl a b) := fun _ _ => of_some rfl rfl
theorem add : ∀ a, Statement (.add a) := fun _ => of_some rfl rfl
theorem sub : ∀ a, Statement (.sub a) := fun _ => of_some rfl rfl
theorem and : ∀ a, Statement (.and a) := fun _ => of_some rfl rfl
theorem or : ∀ a, Statement (.or a) := fun _ => of_some rfl rfl
theorem xor : ∀ a, Statement (.xor a) := fun _ => of_some rfl rfl
theorem andn : ∀ a, Statement (.andn a) := fun _ => of_some rfl rfl
theorem shl : ∀ a, Statement (.shl a) := fun _ => of_some rfl rfl
theorem shr : ∀ a, Statement (.shr a) := fun _ => of_some rfl rfl
theorem sra : ∀ a, Statement (.sra a) := fun _ => of_some rfl rfl
theorem min : ∀ a, Statement (.min a) := fun _ => of_some rfl rfl
theorem max : ∀ a, Statement (.max a) := fun _ => of_some rfl rfl
theorem minu : ∀ a, Statement (.minu a) := fun _ => of_some rfl rfl
theorem maxu : ∀ a, Statement (.maxu a) := fun _ => of_some rfl rfl
theorem clz : ∀ a, Statement (.clz a) := fun _ => of_some rfl rfl
theorem ctz : ∀ a, Statement (.ctz a) := fun _ => of_some rfl rfl
theorem popc : ∀ a, Statement (.popc a) := fun _ => of_some rfl rfl
theorem bfx : ∀ a, Statement (.bfx a) := fun _ => of_some rfl rfl
theorem bfxu : ∀ a, Statement (.bfxu a) := fun _ => of_some rfl rfl
theorem bfi : ∀ a, Statement (.bfi a) := fun _ => of_some rfl rfl
theorem sel : ∀ a, Statement (.sel a) := fun _ => of_some rfl rfl
theorem lea : ∀ a, Statement (.lea a) := fun _ => of_some rfl rfl
theorem sext : ∀ a, Statement (.sext a) := fun _ => of_some rfl rfl
theorem zext : ∀ a, Statement (.zext a) := fun _ => of_some rfl rfl
theorem sbase : ∀ a, Statement (.sbase a) := fun _ => of_some rfl rfl
theorem addB : ∀ a, Statement (.addB a) := fun _ => of_some rfl rfl
theorem subB : ∀ a, Statement (.subB a) := fun _ => of_some rfl rfl
theorem andB : ∀ a, Statement (.andB a) := fun _ => of_some rfl rfl
theorem orB : ∀ a, Statement (.orB a) := fun _ => of_some rfl rfl
theorem xorB : ∀ a, Statement (.xorB a) := fun _ => of_some rfl rfl
theorem andnB : ∀ a, Statement (.andnB a) := fun _ => of_some rfl rfl
theorem shlB : ∀ a, Statement (.shlB a) := fun _ => of_some rfl rfl
theorem shrB : ∀ a, Statement (.shrB a) := fun _ => of_some rfl rfl
theorem sraB : ∀ a, Statement (.sraB a) := fun _ => of_some rfl rfl
theorem minB : ∀ a, Statement (.minB a) := fun _ => of_some rfl rfl
theorem maxB : ∀ a, Statement (.maxB a) := fun _ => of_some rfl rfl
theorem minuB : ∀ a, Statement (.minuB a) := fun _ => of_some rfl rfl
theorem maxuB : ∀ a, Statement (.maxuB a) := fun _ => of_some rfl rfl
theorem clzB : ∀ a, Statement (.clzB a) := fun _ => of_some rfl rfl
theorem ctzB : ∀ a, Statement (.ctzB a) := fun _ => of_some rfl rfl
theorem popcB : ∀ a, Statement (.popcB a) := fun _ => of_some rfl rfl
theorem bfxB : ∀ a, Statement (.bfxB a) := fun _ => of_some rfl rfl
theorem bfxuB : ∀ a, Statement (.bfxuB a) := fun _ => of_some rfl rfl
theorem bfiB : ∀ a, Statement (.bfiB a) := fun _ => of_some rfl rfl
theorem selB : ∀ a, Statement (.selB a) := fun _ => of_some rfl rfl
theorem leaB : ∀ a, Statement (.leaB a) := fun _ => of_some rfl rfl
theorem sextB : ∀ a, Statement (.sextB a) := fun _ => of_some rfl rfl
theorem zextB : ∀ a, Statement (.zextB a) := fun _ => of_some rfl rfl
theorem sbaseB : ∀ a, Statement (.sbaseB a) := fun _ => of_some rfl rfl
theorem cmpEq : ∀ a b, Statement (.cmpEq a b) := fun _ _ => of_some rfl rfl
theorem cmpNe : ∀ a b, Statement (.cmpNe a b) := fun _ _ => of_some rfl rfl
theorem cmpLt : ∀ a b, Statement (.cmpLt a b) := fun _ _ => of_some rfl rfl
theorem cmpLe : ∀ a b, Statement (.cmpLe a b) := fun _ _ => of_some rfl rfl
theorem cmpLtu : ∀ a b, Statement (.cmpLtu a b) := fun _ _ => of_some rfl rfl
theorem cmpLeu : ∀ a b, Statement (.cmpLeu a b) := fun _ _ => of_some rfl rfl
theorem mul : ∀ a, Statement (.mul a) := fun _ => of_some rfl rfl
theorem mulh : ∀ a, Statement (.mulh a) := fun _ => of_some rfl rfl
theorem mulhu : ∀ a, Statement (.mulhu a) := fun _ => of_some rfl rfl
theorem mad : ∀ a, Statement (.mad a) := fun _ => of_some rfl rfl
theorem div : ∀ a, Statement (.div a) := fun _ => of_some rfl rfl
theorem divu : ∀ a, Statement (.divu a) := fun _ => of_some rfl rfl
theorem rem : ∀ a, Statement (.rem a) := fun _ => of_some rfl rfl
theorem remu : ∀ a, Statement (.remu a) := fun _ => of_some rfl rfl
theorem ldW : ∀ a, Statement (.ldW a) := fun _ => of_some rfl rfl
theorem ldD : ∀ a, Statement (.ldD a) := fun _ => of_some rfl rfl
theorem stW : ∀ a, Statement (.stW a) := fun _ => of_some rfl rfl
theorem stD : ∀ a, Statement (.stD a) := fun _ => of_some rfl rfl
theorem ldAcq : ∀ a, Statement (.ldAcq a) := fun _ => of_some rfl rfl
theorem stRel : ∀ a, Statement (.stRel a) := fun _ => of_some rfl rfl
theorem amoAdd : ∀ a, Statement (.amoAdd a) := fun _ => of_some rfl rfl
theorem amoAnd : ∀ a, Statement (.amoAnd a) := fun _ => of_some rfl rfl
theorem amoOr : ∀ a, Statement (.amoOr a) := fun _ => of_some rfl rfl
theorem amoMin : ∀ a, Statement (.amoMin a) := fun _ => of_some rfl rfl
theorem amoMax : ∀ a, Statement (.amoMax a) := fun _ => of_some rfl rfl
theorem amoSwap : ∀ a, Statement (.amoSwap a) := fun _ => of_some rfl rfl
theorem amoCas : ∀ a, Statement (.amoCas a) := fun _ => of_some rfl rfl
theorem barInit : ∀ a, Statement (.barInit a) := fun _ => of_some rfl rfl
theorem barRelease : ∀ a, Statement (.barRelease a) := fun _ => of_some rfl rfl
theorem barArr : ∀ a, Statement (.barArr a) := fun _ => of_some rfl rfl
theorem barExp : ∀ a, Statement (.barExp a) := fun _ => of_some rfl rfl
theorem copy : ∀ a b, Statement (.copy a b) := fun _ _ => of_some rfl rfl
theorem copyTr8 : ∀ a b, Statement (.copyTr8 a b) := fun _ _ => of_some rfl rfl
theorem copyTr16 : ∀ a b, Statement (.copyTr16 a b) := fun _ _ => of_some rfl rfl
theorem copyNd : ∀ a b, Statement (.copyNd a b) := fun _ _ => of_some rfl rfl
theorem rget : ∀ a b, Statement (.rget a b) := fun _ _ => of_some rfl rfl
theorem vatom : ∀ a b, Statement (.vatom a b) := fun _ _ => of_some rfl rfl
theorem rputSt : ∀ a b, Statement (.rputSt a b) := fun _ _ => of_some rfl rfl
theorem rredSt : ∀ a b, Statement (.rredSt a b) := fun _ _ => of_some rfl rfl
theorem ratomSt : ∀ a b, Statement (.ratomSt a b) := fun _ _ => of_some rfl rfl
theorem gather : ∀ a, Statement (.gather a) := fun _ => of_some rfl rfl
theorem scatter : ∀ a, Statement (.scatter a) := fun _ => of_some rfl rfl
theorem fmtWr : ∀ a, Statement (.fmtWr a) := fun _ => of_some rfl rfl
theorem cprog : ∀ a, Statement (.cprog a) := fun _ => of_some rfl rfl
theorem cflow : ∀ a, Statement (.cflow a) := fun _ => of_some rfl rfl
theorem cskew : ∀ a, Statement (.cskew a) := fun _ => of_some rfl rfl
theorem cld : ∀ a, Statement (.cld a) := fun _ => of_some rfl rfl
theorem cst : ∀ a, Statement (.cst a) := fun _ => of_some rfl rfl
theorem mstart : ∀ a, Statement (.mstart a) := fun _ => of_some rfl rfl
theorem mstartG : ∀ a, Statement (.mstartG a) := fun _ => of_some rfl rfl
theorem mzero : ∀ a, Statement (.mzero a) := fun _ => of_some rfl rfl
theorem mdrain : ∀ a, Statement (.mdrain a) := fun _ => of_some rfl rfl
theorem mepi : ∀ a, Statement (.mepi a) := fun _ => of_some rfl rfl
theorem mepiAcc : ∀ a, Statement (.mepiAcc a) := fun _ => of_some rfl rfl
theorem mepiRm : ∀ a, Statement (.mepiRm a) := fun _ => of_some rfl rfl
theorem tileDecl : ∀ a, Statement (.tileDecl a) := fun _ => of_some rfl rfl
theorem tileSub : ∀ a, Statement (.tileSub a) := fun _ => of_some rfl rfl
theorem tileRel : ∀ a, Statement (.tileRel a) := fun _ => of_some rfl rfl
theorem tileStat : ∀ a, Statement (.tileStat a) := fun _ => of_some rfl rfl
theorem chPost : ∀ a, Statement (.chPost a) := fun _ => of_some rfl rfl
theorem chWait : ∀ a, Statement (.chWait a) := fun _ => of_some rfl rfl
theorem jmp : ∀ a, Statement (.jmp a) := fun _ => of_some rfl rfl
theorem jmpR : ∀ a, Statement (.jmpR a) := fun _ => of_some rfl rfl
theorem call : ∀ a, Statement (.call a) := fun _ => of_some rfl rfl
theorem loopSet : ∀ a, Statement (.loopSet a) := fun _ => of_some rfl rfl
theorem loopBody : ∀ a, Statement (.loopBody a) := fun _ => of_some rfl rfl
theorem repeatOp : ∀ a, Statement (.repeatOp a) := fun _ => of_some rfl rfl
theorem waitCycle : ∀ a, Statement (.waitCycle a) := fun _ => of_some rfl rfl
theorem waitTdone : ∀ a, Statement (.waitTdone a) := fun _ => of_some rfl rfl
theorem waitBarrier : ∀ a, Statement (.waitBarrier a) := fun _ => of_some rfl rfl
theorem yield : ∀ a, Statement (.yield a) := fun _ => of_some rfl rfl
theorem halt : ∀ a, Statement (.halt a) := fun _ => of_some rfl rfl
theorem trapOp : ∀ a, Statement (.trapOp a) := fun _ => of_some rfl rfl
theorem breakOp : ∀ a, Statement (.breakOp a) := fun _ => of_some rfl rfl
theorem eret : ∀ a, Statement (.eret a) := fun _ => of_some rfl rfl
theorem phase : ∀ a, Statement (.phase a) := fun _ => of_some rfl rfl
theorem fence : ∀ a, Statement (.fence a) := fun _ => of_some rfl rfl
theorem fenceQ : ∀ a, Statement (.fenceQ a) := fun _ => of_some rfl rfl
theorem fenceSt : ∀ a, Statement (.fenceSt a) := fun _ => of_some rfl rfl
theorem taskPost : ∀ a, Statement (.taskPost a) := fun _ => of_some rfl rfl
theorem taskDone : ∀ a, Statement (.taskDone a) := fun _ => of_some rfl rfl
theorem csrRd : ∀ a, Statement (.csrRd a) := fun _ => of_some rfl rfl
theorem csrWr : ∀ a, Statement (.csrWr a) := fun _ => of_some rfl rfl
theorem codeMark : ∀ a, Statement (.codeMark a) := fun _ => of_some rfl rfl
theorem timer : ∀ a, Statement (.timer a) := fun _ => of_some rfl rfl
theorem tlbInv : ∀ a, Statement (.tlbInv a) := fun _ => of_some rfl rfl
theorem tlbFixMapped : ∀ a, Statement (.tlbFixMapped a) := fun _ => of_some rfl rfl
theorem tlbFixUnmappable : ∀ a, Statement (.tlbFixUnmappable a) := fun _ => of_some rfl rfl
theorem tlbFixMigrated : ∀ a, Statement (.tlbFixMigrated a) := fun _ => of_some rfl rfl
theorem coreSave : ∀ a, Statement (.coreSave a) := fun _ => of_some rfl rfl
theorem coreLoad : ∀ a, Statement (.coreLoad a) := fun _ => of_some rfl rfl
theorem lnkKey : ∀ a, Statement (.lnkKey a) := fun _ => of_some rfl rfl
theorem lnkGet : ∀ a, Statement (.lnkGet a) := fun _ => of_some rfl rfl
theorem linkDrain : ∀ a, Statement (.linkDrain a) := fun _ => of_some rfl rfl
theorem linkRelock : ∀ a, Statement (.linkRelock a) := fun _ => of_some rfl rfl
theorem linkSwitch : ∀ a, Statement (.linkSwitch a) := fun _ => of_some rfl rfl
theorem linkKdue : ∀ a, Statement (.linkKdue a) := fun _ => of_some rfl rfl
theorem linkDownCommand : ∀ a, Statement (.linkDownCommand a) := fun _ => of_some rfl rfl
theorem rtWr : ∀ a, Statement (.rtWr a) := fun _ => of_some rfl rfl
theorem chWr : ∀ a, Statement (.chWr a) := fun _ => of_some rfl rfl
theorem lnkSvc : ∀ a, Statement (.lnkSvc a) := fun _ => of_some rfl rfl
theorem perfClr : ∀ a, Statement (.perfClr a) := fun _ => of_some rfl rfl

end Sys2Proof.Laws.TriggerWord
end

