-- ==== Sys2Proof/Laws/Push.lean ====
section
/-!
SUPPORT. Pushes of engine commands: what a trigger that pushes one command leaves.
-/

namespace Sys2Proof.Machine

/-- The command that a trigger of the turn pushes. -/
def State.commandOf (s : State) (unit : Nat) (op : CmdOp) (seq : BitVec 24) : Cmd :=
  { op := op, unit := unit, core := s.turn.core, ctx := s.turn.ctx, sys := s.hereSys, serial := s.nextId, seq := seq
    issued := s.cycle, step := s.hereCtx.step }

/-- The state with a command at the end of its queue. -/
def State.enqueue (s : State) (cmd : Cmd) : State :=
  ({ s with nextId := s.nextId + 1 }).modCore s.turn.core (fun k => { k with
    queues := tabSet [] k.queues (4 * cmd.unit + s.turn.ctx) (tabGet [] k.queues (4 * cmd.unit + s.turn.ctx) ++ [cmd]) })

/-- The context of a command after its push. -/
def Ctx.addLive (cx : Ctx) (l : Nat × Nat) : Ctx := { cx with live := cx.live ++ [l] }

theorem keeps_live (l : Nat × Nat) : Keeps (fun cx => cx.addLive l) := by
  refine ⟨fun _ b => by cases b <;> rfl, fun cx cy h => ?_, fun cx cy h => ?_⟩
  · have e : ∀ cx : Ctx, (cx.addLive l).aside = cx.aside.addLive l := fun _ => rfl
    rw [e, e, h]
  · have e : ∀ cx : Ctx, (cx.addLive l).fixed = cx.fixed.addLive l := fun _ => rfl
    rw [e, e, h]

/-- The context of a push. -/
theorem ctx_pushCmd (p : State) (a : Arg) (unit : Nat) (op : CmdOp) (seq : BitVec 24) :
    (p.pushCmd a unit op seq).ctx a.core a.ctx = (p.ctx a.core a.ctx).addLive (p.nextId, unit) := by
  unfold State.pushCmd
  simp only [ctx_modCtx_same]
  rw [ctx_modCore_same]
  · rfl
  · exact fun _ => rfl

/-- A push from a state near that of the bundle. -/
theorem near_pushCmd {s p : State} {a : Arg} {unit : Nat} {op : CmdOp} {seq : BitVec 24}
    (hc : a.core = s.turn.core) (hx : a.ctx = s.turn.ctx) (hs : a.sys = s.hereSys)
    (hst : (p.ctx s.turn.core s.turn.ctx).step = s.hereCtx.step) (h : Near s p s.turn.core s.turn.ctx) :
    Near (s.enqueue (s.commandOf unit op seq)) (p.pushCmd a unit op seq) s.turn.core s.turn.ctx := by
  have hid : p.nextId = s.nextId := (show p.aside.nextId = s.aside.nextId from by rw [h.device])
  have hcy : p.cycle = s.cycle := (show p.aside.cycle = s.aside.cycle from by rw [h.device])
  have hcmd : ({ op := op, unit := unit, core := a.core, ctx := a.ctx, sys := a.sys, serial := p.nextId, seq := seq
                 issued := p.cycle, step := (p.ctx a.core a.ctx).step } : Cmd) = s.commandOf unit op seq := by
    rw [hid, hcy, hs, hc, hx, hst]; rfl
  unfold State.pushCmd
  simp only [hcmd]
  rw [hc, hx, hid]
  refine Near.trans ?_ (near_modCtx ..)
  refine ⟨?_, fun c hne => ?_, ?_, fun y hy => ?_⟩
  · change { p.aside with nextId := s.nextId + 1 } = { s.aside with nextId := s.nextId + 1 }
    rw [h.device]
  · unfold State.enqueue
    rw [core_modCore_other _ _ hne, core_modCore_other _ _ hne]
    exact h.cores c hne
  · have key : ∀ (K : Nat) (cmd : Cmd) (k k' : Core), k.aside = k'.aside →
        ({ k with queues := tabSet [] k.queues K (tabGet [] k.queues K ++ [cmd]) } : Core).aside
          = ({ k' with queues := tabSet [] k'.queues K (tabGet [] k'.queues K ++ [cmd]) } : Core).aside := by
      intro K cmd k k' e
      have e' : ∀ k : Core, ({ k with queues := tabSet [] k.queues K (tabGet [] k.queues K ++ [cmd]) } : Core).aside
          = { k.aside with queues := tabSet [] k.aside.queues K (tabGet [] k.aside.queues K ++ [cmd]) } := fun _ => rfl
      rw [e', e', e]
    unfold State.enqueue
    rw [core_modCore_same, core_modCore_same]
    exact key _ _ _ _ h.core
  · unfold State.enqueue
    rw [ctx_modCore_same, ctx_modCore_same]
    · exact h.contexts y hy
    · exact fun _ => rfl
    · exact fun _ => rfl

/-- A trigger that fires, changes its context by g and pushes one command. -/
theorem fires_pushes {s : State} {m : Mv} {d : BitVec 10} {op : Op} {unit : Nat} {c : CmdOp} {seq : BitVec 24} {p : State} {g : Ctx → Ctx}
    (h : s.fires m d op = true) (hbr : op.branch (s.argHere m d op) = none)
    (hact : s.acted m d op = p.pushCmd (s.argHere m d op) unit c seq)
    (hfin : ∀ s', op.fin (s.argHere m d op) s' = s') (hn : Near s p s.turn.core s.turn.ctx)
    (hp : p.ctx s.turn.core s.turn.ctx = g ((s.primed m d op).ctx s.turn.core s.turn.ctx)) (hg : Keeps g)
    (hstep : ∀ cx, (g cx).step = cx.step) :
    s.Does (issueTrigger m d op s) (usedPorts s m d op) (s.enqueue (s.commandOf unit c seq)) ((g s.hereCtx).addLive (s.nextId, unit)) := by
  have P := primed_spec s m d op
  have hid : p.nextId = s.nextId := (show p.aside.nextId = s.aside.nextId from by rw [hn.device])
  have hst : (p.ctx s.turn.core s.turn.ctx).step = s.hereCtx.step := by
    rw [hp, hstep]
    exact (show ((s.primed m d op).ctx s.turn.core s.turn.ctx).aside.step = s.hereCtx.aside.step from by rw [P.aside])
  have hctx : (s.acted m d op).ctx s.turn.core s.turn.ctx
      = (g ((s.primed m d op).ctx s.turn.core s.turn.ctx)).addLive (s.nextId, unit) := by
    rw [hact]
    have := ctx_pushCmd p (s.argHere m d op) unit c seq
    rw [show (s.argHere m d op).core = s.turn.core from rfl, show (s.argHere m d op).ctx = s.turn.ctx from rfl, hp, hid] at this
    exact this
  refine fires_does h hbr hfin (fun b => ?_) ?_ rfl ?_ ?_
  · rw [hctx, (keeps_live _).planes, hg.planes]
  · rw [hact]; exact near_pushCmd rfl rfl rfl hst hn
  · unfold State.settled State.herePlane State.hereSys State.hereCtx State.enqueue
    rw [ctx_modCore_same]
    · rfl
    · exact fun _ => rfl
  · rw [hctx]
    exact (keeps_live _).aside _ _ (hg.aside _ _ P.aside)

end Sys2Proof.Machine
end

