-- ==== Sys2Proof/Laws/Triggers.lean ====
section
/-!
SUPPORT. The triggers: each instruction of `triggerOf` issues as its operation says.
-/

namespace Sys2Proof.Machine

/-- An instruction of `triggerOf` issues its trigger. -/
theorem exec_trigger {i : Instr} {m : Mv} {d : BitVec 10} {op : Op} (h : triggerOf i = some (m, d, op)) (s : State) :
    exec i s = issueTrigger m d op s := by
  cases i <;> first
    | (injection h with h; injection h with h1 h; injection h with h2 h3; subst h1 h2 h3; rfl)
    | injection h

end Sys2Proof.Machine
end

