-- ==== Sys2Proof/Laws/Traps.lean ====
section
/-!
SUPPORT. A trigger that one of its checks stops (R247): the bundle does nothing but trap.
-/

namespace Sys2Proof.Machine

theorem firstOf_skip {α : Type} (a b : Option α) (t : List (Option α)) : firstOf (a :: b :: none :: t) = firstOf (a :: b :: t) := by
  cases a <;> cases b <;> rfl

/-- Its judgement is the trap of its first cause. -/
theorem slotCause_here {s : State} {m : Mv} {d : BitVec 10} {op : Op} {wr : Ctx} (hs : m.s ≠ 0)
    (hp : (srcKind m.s).plain = true) (hg : s.guardOpen m d = true) (hw : wr = s.hereCtx) :
    slotCause s wr s.here [] (s.soloItem m d (.trigger m d op)) = s.causeHere m d op := by
  have hlive : (s.soloItem m d (.trigger m d op)).live = true := by
    simp only [State.guardOpen, Bool.or_eq_true] at hg
    simp only [State.soloItem, Bool.or_eq_true, decide_eq_true_eq]
    rcases hg with (g | g) | g
    · left; left; rw [eq_of_beq g]; rfl
    · left; right; exact g
    · right; exact g
  have harg := argOf_solo s wr m d op hw
  have henc : encodingIllegal s.here (s.soloItem m d (.trigger m d op)) = if (m.h && !isOperandPort d) = true then some d.toNat else none := by
    obtain ⟨h3, h4⟩ := plain_kind hp
    unfold encodingIllegal
    simp only [State.soloItem, hs, if_false, Bool.false_eq_true]
  have hq : queueIllegal s s.here (s.soloItem m d (.trigger m d op)) = none := rfl
  have hn : emptyOperand wr s.here (s.soloItem m d (.trigger m d op)) op (s.argHere m d op).val
      = (op.needs (s.argHere m d op).val).find? (fun p => !(s.operandLatch p).valid) := by
    subst hw; rfl
  have hr : regEmpty s s.here (s.soloItem m d (.trigger m d op)) (op.reads (s.argHere m d op)) = s.emptySource m d op := by
    unfold regEmpty State.emptySource
    rw [hlive]
    simp only [State.soloItem, Bool.not_true, Bool.or_false]
    cases m.e <;> rfl
  have hkind : (s.soloItem m d (.trigger m d op)).kind = .trigger m d op := rfl
  have hsm : (s.soloItem m d (.trigger m d op)).m = m := rfl
  generalize s.soloItem m d (.trigger m d op) = it at *
  unfold slotCause State.causeHere
  simp only [hkind, hlive, Bool.not_true, if_false, Bool.false_eq_true, harg, henc, hq, hn, hr]
  exact firstOf_skip _ _ _

/-- A trigger that its checks stop does nothing but trap. -/
theorem issueTrigger_traps {s : State} {m : Mv} {d : BitVec 10} {op : Op} {c : BitVec 8} {aux addr : Nat} (hrun : s.canRun = true)
    (hs : m.s ≠ 0) (hp : (srcKind m.s).plain = true) (hg : s.guardOpen m d = true)
    (hf : op.fmtWait (s.argHere m d op) = false) (hc : s.causeHere m d op = some (c, aux, addr)) :
    s.Traps (issueTrigger m d op s) c aux addr := by
  obtain ⟨h1, h2, hd, h3⟩ := canRun_parts hrun
  have hclean : tabGet false (s.core s.here.core).untagged ((s.ctx s.here.core s.here.ctx).plane s.here.sys).pc.toNat = true := by
    simp only [State.canRun, Bool.and_eq_true] at hrun
    exact hrun.2
  have hitems : readSlots s s.here s [{ k := s.turn.slot, kind := .trigger m d op }]
      = ([s.soloItem m d (.trigger m d op)], s) :=
    readSlots_one s _ m d rfl (fun _ _ _ => nofun) hp
  have hwait : ∀ wr, wr = s.hereCtx → ([s.soloItem m d (.trigger m d op)].any (fun it => match it.kind with
      | .trigger _ _ op => it.live && op.fmtWait (argOf s wr s.here [] it op)
      | _ => false)) = false := by
    intro wr hw
    have := argOf_solo s wr m d op hw
    have hkind : (s.soloItem m d (.trigger m d op)).kind = .trigger m d op := rfl
    simp only [List.any_cons, List.any_nil, Bool.or_false, hkind, this, hf, Bool.and_false]
  have hcause : ∀ wr, wr = s.hereCtx → slotsCause s wr s.here [] [s.soloItem m d (.trigger m d op)]
      = some (s.turn.slot, c, aux, addr) := by
    intro wr hw
    simp only [slotsCause, slotCause_here hs hp hg hw, hc]
    rfl
  have hj : s.judge s.here [{ k := s.turn.slot, kind := .trigger m d op }] [] = .trap
      { cause := c, info := trapInfoWord (if c = causeXlatePerm then none else some s.turn.slot) aux addr } := by
    unfold State.judge State.judgeOn
    simp only [hclean, Bool.not_true, if_false, Bool.false_eq_true, collision_one, hitems]
    refine Eq.trans (if_neg (Bool.eq_false_iff.mp (hwait _ rfl))) ?_
    rw [hcause]
    rfl
  have hsite : s.site s.turn.core s.turn.ctx [{ k := s.turn.slot, kind := .trigger m d op }] = s.here := rfl
  have h2' : (s.ctx s.turn.core s.turn.ctx).completing = [] := h2
  have hw : (s.ctx s.turn.core s.turn.ctx).waits = false := by unfold Ctx.waits; rw [h2']; exact hd
  have hj' : s.judgeOn s [] s.here [{ k := s.turn.slot, kind := .trigger m d op }] [] = .trap
      { cause := c, info := trapInfoWord (if c = causeXlatePerm then none else some s.turn.slot) aux addr } := hj
  unfold State.Traps issueTrigger issueOne State.attempt State.attemptOn
  congr 1
  simp only [hsite, h1, Bool.not_true, if_false, Bool.false_eq_true, hw, h2', List.isEmpty_nil, Bool.and_true, hj']
  rcases h3 with h3 | ⟨h3, h4⟩
  · have : s.here.sys = true := h3
    simp [this]
  · have h3' : (s.ctx s.turn.core s.turn.ctx).preempt = false := h3
    have h4' : (s.ctx s.turn.core s.turn.ctx).firstPending = none := h4
    simp [h3', h4']

/-- What `ready` says. -/
theorem ready_parts {s : State} {m : Mv} {d : BitVec 10} {needs : List Nat} (h : s.ready m d needs = true) :
    s.canMove m d = true ∧ needs.all (fun p => (s.operandLatch p).valid) = true ∧ s.loopsFull = true := by
  simp only [State.ready, Bool.and_eq_true] at h
  exact ⟨h.1.1, h.1.2, h.2⟩

/-- What `canMove` says. -/
theorem canMove_parts {s : State} {m : Mv} {d : BitVec 10} (h : s.canMove m d = true) :
    s.canRun = true ∧ m.s ≠ 0 ∧ (srcKind m.s).plain = true ∧ s.readable m = true ∧ s.guardOpen m d = true
      ∧ (m.h && !isOperandPort d) = false := by
  simp only [State.canMove, Bool.and_eq_true] at h
  obtain ⟨⟨⟨h1, h2⟩, h3⟩, h4⟩ := h
  have h2' := h2
  simp only [State.readable, Bool.and_eq_true, bne_iff_ne, ne_eq] at h2'
  refine ⟨h1, h2'.1.1, h2'.1.2, h2, h3, ?_⟩
  revert h4
  cases m.h <;> cases isOperandPort d <;> simp

/-- A trigger that is ready and reads no further register is stopped by the first cause among its own checks. -/
theorem ready_cause {s : State} {m : Mv} {d : BitVec 10} {op : Op} {needs : List Nat} (h : s.ready m d needs = true)
    (hn : op.needs (s.argHere m d op).val = needs) (hso : op.sysOnly = false ∨ s.hereSys = true)
    (hpr : op.priv (s.argHere m d op) = none) (huo : op.userOnly = false ∨ s.hereSys = false)
    (hr : op.reads (s.argHere m d op) = []) :
    s.causeHere m d op = firstOf [
      portCause causeSlotIllegal (op.illegal (s.argHere m d op)),
      portCause causeOperandEmpty (op.lacks (s.argHere m d op)),
      op.traps (s.argHere m d op),
      (match op.unit (s.argHere m d op) with
        | some u => if s.queueFull s.turn.core s.turn.ctx u && !(s.hereCtx.qmode.getLsbD u) then some (causeQueueFull, u, 0) else none
        | none => none),
      (op.raises (s.argHere m d op)).map (fun p => (p.1, p.2, 0))] := by
  obtain ⟨h1, h2, h3⟩ := ready_parts h
  obtain ⟨g1, g2, g3, g4, g5, g6⟩ := canMove_parts h1
  have e1 : (if (op.sysOnly && !s.hereSys) = true then some d.toNat else op.priv (s.argHere m d op)) = none := by
    rcases hso with e | e <;> rw [e] <;> simp [hpr]
  have e2 : (if (op.userOnly && s.hereSys) = true then some d.toNat else none) = (none : Option Nat) := by
    rcases huo with e | e <;> rw [e] <;> simp
  have e3 : (op.needs (s.argHere m d op).val).find? (fun p => !(s.operandLatch p).valid) = none := by
    rw [hn, List.find?_eq_none]
    intro p hp
    simpa using List.all_eq_true.mp h2 p hp
  have e4 : s.emptySource m d op = none := by
    have hread := g4
    simp only [State.readable, Bool.and_eq_true] at hread
    unfold State.emptySource
    rw [hr]
    cases hk : srcEmptyKey s.hereSys s.turn.slot m.s with
    | none => cases m.e <;> rfl
    | some k =>
      have := hread.2
      rw [hk] at this
      have : s.hereCtx.isEmpty k = false := by simpa using this
      cases m.e <;> simp [this]
  unfold State.causeHere
  simp only [e1, e2, e3, e4, g6, portCause, Option.map_none, Bool.false_eq_true, if_false, firstOf]
  cases op.illegal (s.argHere m d op) <;> cases op.lacks (s.argHere m d op) <;> rfl

/-- A ready trigger whose own checks answer a cause does nothing but trap. -/
theorem ready_traps {s : State} {m : Mv} {d : BitVec 10} {op : Op} {needs : List Nat} {c : BitVec 8} {aux addr : Nat}
    (h : s.ready m d needs = true)
    (hn : op.needs (s.argHere m d op).val = needs) (hso : op.sysOnly = false ∨ s.hereSys = true)
    (hpr : op.priv (s.argHere m d op) = none) (huo : op.userOnly = false ∨ s.hereSys = false)
    (hr : op.reads (s.argHere m d op) = []) (hf : op.fmtWait (s.argHere m d op) = false)
    (hc : firstOf [
      portCause causeSlotIllegal (op.illegal (s.argHere m d op)),
      portCause causeOperandEmpty (op.lacks (s.argHere m d op)),
      op.traps (s.argHere m d op),
      (match op.unit (s.argHere m d op) with
        | some u => if s.queueFull s.turn.core s.turn.ctx u && !(s.hereCtx.qmode.getLsbD u) then some (causeQueueFull, u, 0) else none
        | none => none),
      (op.raises (s.argHere m d op)).map (fun p => (p.1, p.2, 0))] = some (c, aux, addr)) :
    s.Traps (issueTrigger m d op s) c aux addr := by
  obtain ⟨h1, -, -⟩ := ready_parts h
  obtain ⟨g1, g2, g3, -, g5, -⟩ := canMove_parts h1
  exact issueTrigger_traps g1 g2 g3 g5 hf (by rw [ready_cause h hn hso hpr huo hr]; exact hc)

/-- A ready trigger that none of its checks and waits stops fires. -/
theorem ready_fires_all {s : State} {m : Mv} {d : BitVec 10} {op : Op} {needs : List Nat} (h : s.ready m d needs = true)
   (hn : op.needs (s.argHere m d op).val = needs)
   (h1 : op.sysOnly = false ∨ s.hereSys = true) (h2 : op.userOnly = false ∨ s.hereSys = false) (h3 : op.priv (s.argHere m d op) = none)
   (h4 : op.illegal (s.argHere m d op) = none) (h5 : op.lacks (s.argHere m d op) = none) 
   (h6 : (op.reads (s.argHere m d op)).all (fun p => !s.hereCtx.isEmpty p.1) = true)
   (h7 : (op.dests (s.argHere m d op)).all (fun k => !s.hereCtx.isEmpty k) = true) (h8 : op.traps (s.argHere m d op) = none)
   (h9 : ∀ u, op.unit (s.argHere m d op) = some u → s.queueFull s.turn.core s.turn.ctx u = false) (h10 : op.raises (s.argHere m d op) = none)
   (h11 : op.fmtWait (s.argHere m d op) = false) (h12 : op.access = false ∨ s.hereCtx.acquiring = false) (h13 : op.gate (s.argHere m d op) = .go)
   (h14 : s.banksServe s.here [] ((op.lines (s.argHere m d op)).map bankOf) = true) :
   s.fires m d op = true := by
  obtain ⟨g1,g2,g3⟩ := ready_parts h
  have e1 : (!op.sysOnly || s.hereSys) = true := by rcases h1 with e | e <;> simp [e]
  have e2 : (!(op.userOnly && s.hereSys)) = true := by rcases h2 with e | e <;> simp [e]
  have e3 : (!(op.access && s.hereCtx.acquiring)) = true := by rcases h12 with e | e <;> simp [e]
  have e4 : (match op.unit (s.argHere m d op) with
      | some u => !s.queueFull s.turn.core s.turn.ctx u
      | none => true) = true := by
    cases hk : op.unit (s.argHere m d op) with
    | none => rfl
    | some u => simp [h9 u hk]
  unfold State.fires
  simp only [g1, g3, e1, e2, e3, h3, h4, h5, h6, h7, h8, h10, h11, h13, h14, hn, g2, Gate.opened, Option.isNone_none, Bool.or_true, Bool.and_self, Bool.not_false,
    Bool.and_true, Bool.true_and]
  exact e4

end Sys2Proof.Machine
end

