-- ==== Sys2Proof/Machine/Assembler.lean ====
section
/-!
DEFINITION. Judric assembly of code (R299-R303, R317, R365, R475): names and expressions, moves with their literals, the
placement of a bundle's moves, op forms, and the code section with its pools. A source is given by its parts, not by its
characters: R299 fixes no precedence of operators. (DESIGN CHOICE, log 68.)
-/

namespace Sys2Proof.Machine

/-! ## Names and expressions (R299) -/

/-- A name, by its characters. -/
abbrev Ident := List Char

/-- Letters, digits, `_` and `.`, with a letter first (R299). -/
def identOk : Ident → Bool
  | [] => false
  | c :: t => c.isAlpha && t.all (fun d => d.isAlphanum || d == '_' || d == '.')

/-- A source line without its comment: `;` outside a quoted name begins one (R299). -/
def stripComment (quoted : Bool) : List Char → List Char
  | [] => []
  | c :: t =>
    if c == ';' && !quoted then [] else c :: stripComment (if c == '"' then !quoted else quoted) t

/-- The items of a bundle body: `|` outside every pair of parentheses separates them (R299). -/
def splitItems (depth : Nat) : List Char → List (List Char)
  | [] => [[]]
  | c :: t =>
    if c == '|' && depth == 0 then [] :: splitItems 0 t
    else
      let d := if c == '(' then depth + 1 else if c == ')' then depth - 1 else depth
      match splitItems d t with
      | [] => [[c]]
      | h :: r => (c :: h) :: r

/-- Operators of two operands (R299). -/
inductive BinOp where
  | add | sub | mul | div | rem | shl | shr | and | or
  deriving DecidableEq, Repr

/-- An expression (R299). -/
inductive Expr where
  | num (n : Nat)
  | name (x : Ident)
  | neg (a : Expr)
  | inv (a : Expr)
  | bin (op : BinOp) (a b : Expr)
  deriving DecidableEq, Repr

/-- Values of the names defined in a kernel. -/
abbrev Names := List (Ident × Dword)

/-- The value of a name, where it is defined. -/
def Names.get (x : Ident) : Names → Option Dword
  | [] => none
  | (y, v) :: t => if x = y then some v else Names.get x t

/-- A name is defined once per kernel (Table 11.8). -/
def Names.once : Names → Bool
  | [] => true
  | (x, _) :: t => !t.any (fun p => p.1 = x) && Names.once t

/-- The result of an operator, modulo 2^64: `/` and `%` truncate toward zero and refuse a zero divisor, `>>` copies bit
63 (R299). The result of a negative count is a free value. (DESIGN CHOICE, log 68.) -/
def BinOp.eval (op : BinOp) (a b : Dword) : Option Dword :=
  match op with
  | .add => some (a + b)
  | .sub => some (a - b)
  | .mul => some (a * b)
  | .div => if b = 0 then none else some (a.sdiv b)
  | .rem => if b = 0 then none else some (a.srem b)
  | .shl => some (if b.msb then Config.negativeShift false a b else a <<< b)
  | .shr => some (if b.msb then Config.negativeShift true a b else a.sshiftRight b.toNat)
  | .and => some (a &&& b)
  | .or => some (a ||| b)

/-- The value of an expression: known, or an external symbol with an addend (R309). -/
inductive Value where
  | known (v : Dword)
  | external (x : Ident) (addend : Dword)
  deriving DecidableEq, Repr

/-- The value of an operator over values: an external symbol takes an addend only. (DEDUCED, log 68.) -/
def BinOp.values (op : BinOp) (a b : Value) : Option Value :=
  match a, b with
  | .known x, .known y => (op.eval x y).map .known
  | .external s x, .known y =>
    match op with
    | .add => some (.external s (x + y))
    | .sub => some (.external s (x - y))
    | _ => none
  | .known x, .external s y => if op = .add then some (.external s (x + y)) else none
  | .external _ _, .external _ _ => none

/-- Value of an expression; nothing where it fails assembly (R299). (DEDUCED, log 68.) -/
def Expr.value (ns : Names) : Expr → Option Value
  | .num n => if n < 2 ^ 64 then some (.known (BitVec.ofNat 64 n)) else none
  | .name x => some (match ns.get x with
    | some v => .known v
    | none => .external x 0)
  | .neg a => (a.value ns).bind (fun v => BinOp.sub.values (.known 0) v)
  | .inv a => match a.value ns with
    | some (.known v) => some (.known (~~~ v))
    | _ => none
  | .bin op a b => (a.value ns).bind (fun v => (b.value ns).bind (fun w => op.values v w))

/-- Value of an expression that may not be external (R309). -/
def Expr.known (ns : Names) (x : Expr) : Option Dword :=
  match x.value ns with
  | some (.known v) => some v
  | _ => none

/-! ## Moves (R300) -/

/-- A port as a line names it: of a cluster, or shared. The discard is port 0 of no cluster. -/
structure PortRef where
  cluster : Option Nat
  port    : Nat
  deriving DecidableEq, Repr

/-- The source of a move: a port or a literal. -/
inductive SrcRef where
  | port (p : PortRef)
  | lit (x : Expr)
  deriving DecidableEq, Repr

/-- A guard: `(g n)` or `(q n)`. -/
structure GuardRef where
  vector : Bool
  n      : Nat
  deriving DecidableEq, Repr

/-- A move: `[guard] source[?] -> destination[!]`. -/
structure MoveItem where
  guard : Option GuardRef := none
  src   : SrcRef
  e     : Bool := false
  h     : Bool := false
  dst   : PortRef
  deriving DecidableEq, Repr

/-- A source as it is encoded: a port, or carriers of a literal in a form of n slots. -/
inductive SrcCode where
  | port (s : BitVec 9)
  | carried (n : Nat) (v : Dword)
  deriving DecidableEq, Repr

/-- A move with its literal's form chosen, before it has a slot. -/
structure PlacedMove where
  cluster : Option Nat
  g       : BitVec 3
  e       : Bool
  h       : Bool
  src     : SrcCode
  d       : BitVec 10
  deriving DecidableEq, Repr

/-- The shortest form that holds a literal (R300, Table 11.4): a short immediate, or one, two or three carriers. Toward a
cluster-local destination bits [31:0] are matched, as a signed value. -/
def literalCode (vector : Bool) (v : Dword) : Option SrcCode :=
  let x : Int := if vector then sextNat 32 v.toNat else sextNat 64 v.toNat
  let fits (w : Nat) : Bool := decide (-(2 ^ (w - 1)) ≤ x) && decide (x < 2 ^ (w - 1))
  if fits 5 then some (.port (BitVec.ofNat 9 (0x1C0 + (x % 32).toNat)))
  else if fits 21 then some (.carried 1 (BitVec.ofInt 64 x))
  else if fits 42 then some (.carried 2 (BitVec.ofInt 64 x))
  else if fits 63 then some (.carried 3 (BitVec.ofInt 64 x))
  else none

/-- Cluster whose slot a move takes: that of its cluster-local ports, which must agree (R301). -/
def moveCluster (src dst : Option Nat) : Option (Option Nat) :=
  match src, dst with
  | none, c => some c
  | some a, none => some (some a)
  | some a, some b => if a = b then some (some a) else none

/-- Code of a guard for a destination: `g` toward a cluster-local one, `q` toward a shared one (R300). -/
def guardCode (shared : Bool) : Option GuardRef → Option (BitVec 3)
  | none => some 0
  | some g => if g.vector != shared && 1 ≤ g.n && g.n ≤ 6 then some (BitVec.ofNat 3 g.n) else none

/-- A move with its literal and guard encoded; nothing where it fails assembly. -/
def MoveItem.code (ns : Names) (m : MoveItem) : Option PlacedMove :=
  let shared := 0x100 ≤ m.dst.port
  (guardCode shared m.guard).bind (fun g =>
    match m.src with
    | .port p => (moveCluster p.cluster m.dst.cluster).map (fun c =>
      { cluster := c, g := g, e := m.e, h := m.h, src := .port (BitVec.ofNat 9 p.port), d := BitVec.ofNat 10 m.dst.port })
    | .lit x => (x.known ns).bind (fun v => (literalCode (!shared) v).map (fun s =>
      { cluster := m.dst.cluster, g := g, e := m.e, h := m.h, src := s, d := BitVec.ofNat 10 m.dst.port })))

/-! ## The slots of a bundle (R301) -/

/-- Slots taken so far, with their words. -/
abbrev Slots := Tab (Option (BitVec 24))

/-- The n slots from k are free. -/
def Slots.free (t : Slots) (k n : Nat) : Bool :=
  decide (k + n ≤ 8) && (rangeFrom k n).all (fun i => (tabGet none t i).isNone)

/-- A carrier (R288). -/
def carrierWord (v : Dword) (i : Nat) : BitVec 24 := (7 : BitVec 3) ++ v.extractLsb' (21 * i) 21

/-- First port of the reads of an n-slot literal (Table 11.4). -/
def carrierPort : Nat → Nat
  | 1 => 0x1E0
  | 2 => 0x1E8
  | _ => 0x1B8

/-- Places the carriers of the literals of a bundle, in the order written; literals of one value and form share theirs
(R300, R301). -/
def placeCarriers : List SrcCode → List (SrcCode × Nat) → Slots → Option (List (SrcCode × Nat) × Slots)
  | [], at_, t => some (at_, t)
  | .port _ :: r, at_, t => placeCarriers r at_ t
  | .carried n v :: r, at_, t =>
    if at_.any (fun p => p.1 = .carried n v) then placeCarriers r at_ t
    else match (rangeFrom 0 8).find? (fun k => t.free k n) with
      | some k => placeCarriers r ((.carried n v, k) :: at_)
        ((rangeFrom 0 n).foldl (fun t i => tabSet none t (k + i) (some (carrierWord v i))) t)
      | none => none

/-- Word of a placed move, given where the carriers stand. -/
def PlacedMove.word (at_ : List (SrcCode × Nat)) (m : PlacedMove) : BitVec 24 :=
  let s : BitVec 9 := match m.src with
    | .port p => p
    | .carried n v => match at_.find? (fun p => p.1 = .carried n v) with
      | some p => BitVec.ofNat 9 (carrierPort n + p.2)
      | none => 0
  slotWord m.g m.e m.h s m.d

/-- Takes the slots of the moves of clusters: two of one cluster fail (R301). -/
def takeClusters : List PlacedMove → Slots → Option Slots
  | [], t => some t
  | m :: r, t => match m.cluster with
    | none => takeClusters r t
    | some k => if t.free k 1 then takeClusters r (tabSet none t k (some 0)) else none

/-- Places the remaining moves in the lowest free slots, and writes the words of all. -/
def placeMoves (at_ : List (SrcCode × Nat)) : List PlacedMove → Slots → Option Slots
  | [], t => some t
  | m :: r, t => match m.cluster with
    | some k => placeMoves at_ r (tabSet none t k (some (m.word at_)))
    | none => match (rangeFrom 0 8).find? (fun k => t.free k 1) with
      | some k => placeMoves at_ r (tabSet none t k (some (m.word at_)))
      | none => none

/-- The eight slots of a bundle (R301); nothing where it fails assembly. (DEDUCED, log 68.) -/
def placeBundle (ms : List PlacedMove) : Option (List (BitVec 24)) :=
  (takeClusters ms []).bind (fun t =>
    (placeCarriers (ms.map (·.src)) [] t).bind (fun p =>
      (placeMoves p.1 ms p.2).bind (fun t =>
        let ws := (rangeFrom 0 8).map (fun k => (tabGet none t k).getD 0)
        let slots : List Slot := ((rangeFrom 0 8).zip ws).filterMap (fun q =>
          if q.2 = 0 then none else some { k := q.1, kind := kindOf q.2 })
        if (collision {} slots).isNone then some ws else none)))

/-! ## Op forms (R302, Table 11.7) -/

/-- What a mnemonic fixes: operand ports in order, the port that takes a control word, result port and latency. -/
structure OpForm where
  ports : List Nat
  ctl   : Option Nat
  res   : Option (Nat × Nat)
  deriving DecidableEq, Repr

/-- The port of the control word that the assembler builds (R365, R382, R440). -/
def controlPort (d : Nat) : Option Nat :=
  if d == 0x1B0 || d == 0x1B1 || d == 0x1B4 || d == 0x1B5 || (0x1B6 ≤ d && d ≤ 0x1BC) || d == 0x1BE then some 0x158
  else if d == 0x030 || d == 0x032 then some 0x00A
  else if d == 0x2EB then some 0x2E9
  else none

/-- Result port and latency of a trigger (Tables 12.3, 12.4, 12.7, 12.8, 12.10, 13.1). The op form of `call` takes no
destination (R328). -/
def resultPort (d : Nat) : Option (Nat × Nat) :=
  if 0x080 ≤ d && d ≤ 0x097 then some (0x001, if d == 0x092 || d == 0x093 then 3 else 1)
  else if 0x098 ≤ d && d ≤ 0x0AF then some (0x002, if d == 0x0AA || d == 0x0AB then 3 else 1)
  else if 0x010 ≤ d && d ≤ 0x017 then some (0x003, 4)
  else if 0x018 ≤ d && d ≤ 0x01E then some (0x004, 12)
  else if 0x020 ≤ d && d ≤ 0x02D then some (0x004, 4)
  else if d == 0x038 || d == 0x03D || (0x0B0 ≤ d && d ≤ 0x0B7) then some (0x005, 2)
  else if 0x03A ≤ d && d ≤ 0x03C then some (0x005, 8)
  else if 0x160 ≤ d && d ≤ 0x177 then some (0x148, 1)
  else if 0x180 ≤ d && d ≤ 0x197 then some (0x149, 1)
  else if 0x1A0 ≤ d && d ≤ 0x1A3 then some (0x14A, 3)
  else if 0x1A4 ≤ d && d ≤ 0x1A7 then some (0x14A, 24)
  else if d == 0x31E then some (0x14C, 1)
  else if d == 0x31C || (0x324 ≤ d && d ≤ 0x327) || d == 0x32A then some (0x14C, 2)
  else if d == 0x2E5 then some (0x14D, 2)
  else none

/-- FormArg ports that an op form writes, in order: those its trigger needs; vx.o2 for `shuf` (R388), sy.o1 for `wait` and
`lnk.cmd` (Table 13.1). -/
def formPorts (d : Nat) : Option (List Nat) :=
  if d == 0x038 then some [0x00C]
  else if d == 0x312 || d == 0x328 then some [0x310]
  else match triggerKind { g := 0, e := false, h := false, s := 0 } (BitVec.ofNat 10 d) with
    | some (.trigger _ _ op) => some (op.needs 0)
    | _ => none

/-- The op form of a trigger port. -/
def formOf (d : Nat) : Option OpForm :=
  (formPorts d).map (fun ps => { ports := ps, ctl := controlPort d, res := resultPort d })

/-- Suffixes of an sl op form: width, order, scope (R365). -/
structure Suffix where
  word  : Bool := false
  ord   : Nat := 0
  scope : Option Nat := none
  deriving DecidableEq, Repr

/-- An atomic of sl (Table 12.7). -/
def isAtomic (d : Nat) : Bool := 0x1B6 ≤ d && d ≤ 0x1BC

/-- The suffixes stand where R365 and Table 14.4 allow them. -/
def Suffix.ok (x : Suffix) (d : Nat) : Bool :=
  let ordered := d == 0x1B4 || d == 0x1B5
  let reads := ordered || d == 0x1BE || (isAtomic d && x.ord != 0)
  (!x.word || ordered || isAtomic d) && (x.ord == 0 || isAtomic d) && x.ord ≤ 3
    && (match x.scope with
      | some c => reads && c ≤ 4
      | none => !reads)

/-- An operand of an op form: `_`, or a source with `?` and `!`. -/
inductive FormArg where
  | keep
  | val (src : SrcRef) (e hold : Bool)
  deriving DecidableEq, Repr

/-- An op form: `[guard] mnemonic dst = op1, ..., opn`. The trigger port stands for the mnemonic; a compare stands as that
of the first pair. -/
structure FormItem where
  guard : Option GuardRef := none
  trig  : PortRef
  dest  : Option PortRef := none
  args  : List FormArg
  sfx   : Suffix := {}
  deriving DecidableEq, Repr

/-- A compare trigger of the first pair. -/
def isCompare (d : Nat) : Bool := (0x0C0 ≤ d && d ≤ 0x0CF) || (0x1C0 ≤ d && d ≤ 0x1CF)

/-- The compare port for the guard an op form names: the first of a pair (R317). -/
def comparePort (d : Nat) (dest : Option PortRef) : Option Nat :=
  match dest with
  | none => none
  | some p =>
    let lo := if d < 0x100 then 0x0F1 else 0x141
    if p.port == lo || p.port == lo + 2 || p.port == lo + 4 then some (d + 8 * (p.port - lo)) else none

/-- The control word of an op form (R365, R382, R440): its destination's number, width, order and scope. -/
def controlWord (f : FormItem) : Option Nat :=
  let d := f.trig.port
  let base := if d < 0x100 then 0x040 else 0x100
  let word (n : Nat) : Nat := n + (if f.sfx.word then 128 else 0) + 256 * f.sfx.ord + 4096 * f.sfx.scope.getD 0
  match f.dest with
  | none => if d == 0x1B5 || d == 0x1BE then some (word 0) else none
  | some p =>
    if d == 0x1B5 || d == 0x1BE then none
    else if p.port = 0 then some (word 0)
    else if base ≤ p.port && p.port ≤ base + 63 then some (word (p.port - base)) else none

/-- Puts the control word among the written operands, in port order (R302). -/
def withControl (form : OpForm) (ctl : Option Nat) : List Nat → List FormArg → Option (List (Nat × FormArg))
  | [], [] => some []
  | [], _ :: _ => none
  | p :: ps, os =>
    if form.ctl = some p then
      ctl.bind (fun w => (withControl form ctl ps os).map (fun r => (p, FormArg.val (.lit (.num w)) false false) :: r))
    else match os with
      | [] => none
      | o :: r => (withControl form ctl ps r).map (fun t => (p, o) :: t)

/-- Cluster of a cluster-local register that an operand names. -/
def FormArg.cluster : FormArg → Option Nat
  | .val (.port p) _ _ => p.cluster
  | _ => none

/-- A form of a cluster unit names cluster-local registers of its own cluster only (R303). `xcl` names the other cluster in
its port. -/
def FormItem.oneCluster (f : FormItem) : Bool :=
  match f.trig.cluster with
  | none => true
  | some k => f.args.all (fun o => o.cluster.isNone || o.cluster == some k)
    && (match f.dest with
      | some p => p.cluster.isNone || p.cluster == some k
      | none => true)

/-- Triggers whose op form has no operand: they move the constant `zero` (R325, Table 13.1). -/
def bareForm (d : Nat) : Bool := [0x313, 0x314, 0x317, 0x318, 0x31D, 0x320].contains d

/-- The last operand of an op form, which its trigger move carries. -/
def FormItem.lastArg (f : FormItem) : Option FormArg :=
  if f.args.isEmpty && bareForm f.trig.port then some (.val (.port { cluster := none, port := 0x1F0 }) false false) else f.args.getLast?

/-- The moves of an op form with the bundle each falls in, counted from b (Table 11.7), and how many bundles it goes back. -/
def FormItem.expand (f : FormItem) : Option (List (Int × MoveItem) × Nat) :=
  let d0 := f.trig.port
  (if isCompare d0 then comparePort d0 f.dest else some d0).bind (fun d => (formOf d).bind (fun form =>
    match f.lastArg with
    | some (.val tsrc te th) =>
      (withControl form (controlWord f) form.ports f.args.dropLast).bind (fun ops =>
        let n := ops.length + 1
        let back (j : Nat) : Int := if f.trig.cluster.isSome then -((n : Int) - (j : Int)) else 0
        let opMoves : List (Int × MoveItem) := ((rangeFrom 1 ops.length).zip ops).filterMap (fun q =>
          match q.2.2 with
          | .keep => none
          | .val s e h => some (back q.1, { src := s, e := e, h := h, dst := { cluster := f.trig.cluster, port := q.2.1 } }))
        let trigger : Int × MoveItem :=
          (0, { guard := f.guard, src := tsrc, e := te, h := th, dst := { cluster := f.trig.cluster, port := d } })
        let result : Option (List (Int × MoveItem)) :=
          if isCompare d0 || form.ctl.isSome then some []
          else match f.dest, form.res with
            | none, _ => some []
            | some p, some (r, l) =>
              if p.port = 0 then some []
              else some [((l : Int), { guard := f.guard, src := .port { cluster := f.trig.cluster, port := r }, dst := p })]
            | some _, none => none
        if f.oneCluster && f.sfx.ok d && (form.ctl.isSome || f.sfx = {}) then
          result.map (fun rs => (opMoves ++ [trigger] ++ rs, if f.trig.cluster.isSome then n - 1 else 0))
        else none)
    | _ => none))

/-- The unit of an operand or trigger port (Tables 12.1, 12.4, 12.6, 12.10, 12.11). -/
def portUnit (d : Nat) : Option Nat :=
  if d == 1 || d == 2 || (0x080 ≤ d && d ≤ 0x097) || (0x0C0 ≤ d && d ≤ 0x0EF) then some 101
  else if d == 3 || d == 4 || (0x098 ≤ d && d ≤ 0x0AF) then some 102
  else if d == 5 || d == 6 || (0x010 ≤ d && d ≤ 0x017) then some 103
  else if d == 7 || (0x018 ≤ d && d ≤ 0x02F) then some 104
  else if (0x008 ≤ d && d ≤ 0x00A) || (0x030 ≤ d && d ≤ 0x033) then some 105
  else if d == 0x00B || d == 0x00C || (0x038 ≤ d && d ≤ 0x03D) || (0x0B0 ≤ d && d ≤ 0x0B7) then some 106
  else if d == 0x150 || d == 0x151 then some 1
  else if d == 0x152 || d == 0x153 then some 2
  else if d == 0x154 || d == 0x155 then some 3
  else if 0x156 ≤ d && d ≤ 0x158 then some 4
  else if 0x240 ≤ d && d ≤ 0x242 then some 5
  else if 0x248 ≤ d && d ≤ 0x24A then some 6
  else if d == 0x258 then some 7
  else if 0x2C0 ≤ d && d ≤ 0x2C2 then some 8
  else if 0x2D0 ≤ d && d ≤ 0x2D2 then some 9
  else if d == 0x2E0 || d == 0x2E1 then some 10
  else if d == 0x2E8 || d == 0x2E9 then some 11
  else if 0x308 ≤ d && d ≤ 0x30A then some 13
  else if d == 0x310 || d == 0x311 then some 14
  else sharedUnit (BitVec.ofNat 10 d)

/-! ## Code lines (R299, R303, R305) -/

/-- An item of a bundle body. -/
inductive LineItem where
  | move (m : MoveItem)
  | form (f : FormItem)
  deriving DecidableEq, Repr

/-- Data of n bytes each, from directives of a pool: an entry of the image with its fields stands as bytes and places of
expressions (byte offset of a doubleword, lowest bit, width, signed). -/
structure Field where
  off    : Nat
  lsb    : Nat
  width  : Nat
  signed : Bool := false
  val    : Expr
  deriving DecidableEq, Repr

/-- The value of an option left out (R304). -/
def noOption : Expr := .num 0

/-- A level option `lvN=bound:mark:step`. -/
structure LevelDecl where
  bound : Expr := noOption
  mark  : Expr := noOption
  step  : Expr := noOption
  deriving DecidableEq, Repr

/-- An operand option `opJ=kind:addr:pitch:auxw`. -/
structure OpDecl where
  kind  : Expr := noOption
  addr  : Expr := noOption
  pitch : Expr := noOption
  auxw  : Expr := noOption
  deriving DecidableEq, Repr

/-- The options of `.template`, and all of `.topb` but its stage (Table 11.8). -/
structure TemplateDecl where
  m      : Expr := noOption
  n      : Expr := noOption
  k      : Expr := noOption
  op     : Expr := noOption
  fmtlv  : Expr := noOption
  fmtix  : Expr := noOption
  levels : List LevelDecl := []
  ops    : List OpDecl := []
  params : List Expr := []
  deriving DecidableEq, Repr

/-- The options of `.topb`. -/
structure TopbDecl extends TemplateDecl where
  stage  : Expr := noOption
  deriving DecidableEq, Repr

/-- Fields of a TOPB of a stage (Tables 6.10, 6.11, R475). -/
def TemplateDecl.fields (t : TemplateDecl) (stage : Expr) : List Field :=
  [ { off := 0, lsb := 0, width := 8, val := t.op }, { off := 0, lsb := 8, width := 4, val := stage },
    { off := 0, lsb := 12, width := 4, val := t.fmtix }, { off := 0, lsb := 16, width := 4, val := t.fmtlv },
    { off := 0, lsb := 32, width := 11, val := t.m }, { off := 0, lsb := 44, width := 11, val := t.n },
    { off := 8, lsb := 0, width := 32, val := t.k } ]
  ++ ((rangeFrom 0 t.levels.length).zip t.levels).flatMap (fun q =>
    [ { off := 0x10 + 8 * q.1, lsb := 0, width := 32, val := q.2.bound },
      { off := 0x10 + 8 * q.1, lsb := 32, width := 2, val := q.2.mark },
      { off := 0x10 + 8 * q.1, lsb := 34, width := 1, val := q.2.step } ])
  ++ ((rangeFrom 0 t.ops.length).zip t.ops).flatMap (fun q =>
    [ { off := 0x40 + 32 * q.1, lsb := 0, width := 4, val := q.2.kind },
      { off := 0x48 + 32 * q.1, lsb := 0, width := 64, val := q.2.addr },
      { off := 0x50 + 32 * q.1, lsb := 0, width := 64, val := q.2.pitch },
      { off := 0x58 + 32 * q.1, lsb := 0, width := 64, val := q.2.auxw } ])
  ++ ((rangeFrom 0 t.params.length).zip t.params).map (fun q =>
    { off := 0xC0 + 8 * q.1, lsb := 0, width := 64, val := q.2 })

/-- The value of an expression lies in a range, or it is an external symbol, whose value the runtime judges (R309). -/
def Expr.within (ns : Names) (lo hi : Nat) (e : Expr) : Bool :=
  match e.value ns with
  | some (.known v) => lo ≤ v.toNat && v.toNat ≤ hi
  | some (.external _ _) => true
  | none => false

/-- At most six levels, four operands and eight parameters (Table 6.10, R475), M and N at most 1,024 and no reserved mark
(Tables 6.6, 6.10). (DESIGN CHOICE, log 68.) -/
def TemplateDecl.ok (ns : Names) (t : TemplateDecl) : Bool :=
  t.levels.length ≤ 6 && t.ops.length ≤ 4 && t.params.length ≤ 8 && t.m.within ns 0 1024 && t.n.within ns 0 1024
    && t.levels.all (fun l => l.mark.within ns 0 2)

/-- A microinstruction line of `.cellprog`, by the codes of Table 15.18. -/
structure Micro where
  comb : Nat
  acc  : Nat
  ty   : Nat
  x    : Nat
  y    : Nat
  k    : Nat := 0
  oa   : Nat := 6
  ob   : Nat := 6
  lw   : Nat := 0
  deriving DecidableEq, Repr

/-- The options of `.cellprog` (R476): `pk` and `flow` as the codes of Table 15.7, skews as written. -/
structure CellDecl where
  pk     : Nat := 0
  flow   : Nat := 0
  skr    : Expr := .num 1
  skc    : Expr := .num 1
  init   : Expr := noOption
  noinit : Expr := noOption
  pre    : Expr := noOption
  preoff : Expr := noOption
  words  : List Micro
  deriving DecidableEq, Repr

/-- Names of Table 15.18, options in range and one to eight lines (R476, Table 11.8). An external `preoff` fails: it fills four
fields, and R309 gives one relocation. (DESIGN CHOICE, log 68.) -/
def CellDecl.ok (ns : Names) (c : CellDecl) : Bool :=
  1 ≤ c.words.length && c.words.length ≤ 8 && c.pk ≤ 2 && c.flow ≤ 4 && c.skr.within ns 0 7 && c.skc.within ns 0 7
    && c.init.within ns 0 7 && c.noinit.within ns 0 1 && c.pre.within ns 0 1
    && (match c.preoff.known ns with
      | some v => v.toNat % 64 = 0 && v.toNat < 0x800000
      | none => false)
    && c.words.all (fun w => w.comb ≤ 11 && w.acc ≤ 7 && w.ty ≤ 2 && w.x ≤ 5 && w.y ≤ 5 && w.k ≤ 7 && w.oa ≤ 6
      && w.ob ≤ 6 && w.lw ≤ 3)

/-- A skew field: (skew - 1) mod 8, or the relocation of an external skew with its addend less 1. -/
def skewField (ns : Names) (e : Expr) : Expr :=
  match e.known ns with
  | some v => .num ((v.toNat + 7) % 8)
  | none => .bin .sub e (.num 1)

/-- A field in word j of a cell program. -/
def cellField (j lsb width : Nat) (e : Expr) : Field := { off := 8 * (j / 2), lsb := 32 * (j % 2) + lsb, width := width, val := e }

/-- Bits [4:0] of the words (Table 15.7). -/
def CellDecl.settings (ns : Names) (c : CellDecl) : List Field :=
  let off := ((c.preoff.known ns).map (·.toNat)).getD 0
  [ cellField 0 3 2 (.num c.pk), cellField 0 0 3 (.num c.flow), cellField 1 2 3 (skewField ns c.skr)
    , cellField 2 2 3 (skewField ns c.skc), cellField 3 2 3 c.init, cellField 3 1 1 c.noinit, cellField 3 0 1 c.pre
    , cellField 4 0 5 (.num (bits off 10 6)), cellField 5 0 5 (.num (bits off 15 11))
    , cellField 6 0 5 (.num (bits off 20 16)), cellField 7 0 2 (.num (bits off 22 21)) ]

/-- Bits [31:5] of a microinstruction (Table 15.1). -/
def Micro.word (w : Micro) (last : Bool) : Nat :=
  w.comb * 2 ^ 28 + w.acc * 2 ^ 25 + w.x * 2 ^ 22 + w.y * 2 ^ 19 + w.k * 2 ^ 16 + w.oa * 2 ^ 13 + w.ob * 2 ^ 10
    + w.lw * 2 ^ 8 + w.ty * 2 ^ 6 + (if last then 32 else 0)

/-- The fields of a `.cellprog` image: LAST stands on the last line, and an unused word holds its controller bits only (R476,
Table 11.8). -/
def CellDecl.fields (ns : Names) (c : CellDecl) : List Field :=
  ((rangeFrom 0 c.words.length).zip c.words).map (fun q =>
    cellField q.1 5 27 (.num (q.2.word (q.1 + 1 = c.words.length) / 32))) ++ c.settings ns

/-- An item of a pool (Table 11.8). -/
inductive Datum where
  | label (x : Ident)
  /-- `.byte`, `.half`, `.word`, `.dword`: values of w bytes. -/
  | data (w : Nat) (vs : List Expr)
  | space (n : Nat)
  | align (n : Nat)
  /-- `.topb`: 256 B, aligned to 256 B. -/
  | topb (x : Ident) (t : TopbDecl)
  /-- `.cellprog`: 32 B, aligned to 32 B. -/
  | cell (x : Ident) (c : CellDecl)
  deriving DecidableEq, Repr

/-- A line of code (R299, Table 11.8). -/
inductive CodeLine where
  | label (x : Ident)
  | bundle (items : List LineItem)
  | align (n : Nat)
  | entry (stage : Nat)
  | pool (x : Ident) (data : List Datum)
  deriving DecidableEq, Repr

/-- The next multiple of n. -/
def alignUp (a n : Nat) : Nat := if n = 0 then a else (a + n - 1) / n * n

/-- `.align` takes a power of two from 1 to 4,096 (Table 11.8). -/
def alignOk (n : Nat) : Bool := (rangeFrom 0 13).any (fun i => n == 2 ^ i)

/-- Byte offset after a pool item that begins at offset o. -/
def Datum.after (o : Nat) : Datum → Nat
  | .label _ => o
  | .data w vs => o + w * vs.length
  | .space n => o + n
  | .align n => alignUp o n
  | .topb _ _ => alignUp o 256 + 256
  | .cell _ _ => alignUp o 32 + 32

/-- Bundle index after a line that begins at index i: a pool ends at a bundle boundary (R305). -/
def CodeLine.after (i : Nat) : CodeLine → Nat
  | .label _ => i
  | .bundle _ => i + 1
  | .align n => alignUp i n
  | .entry _ => i
  | .pool _ data => alignUp (data.foldl Datum.after (24 * i)) 24 / 24

/-- Lines with the index each begins at. -/
def placeLines : Nat → List CodeLine → List (Nat × CodeLine)
  | _, [] => []
  | i, l :: t => (i, l) :: placeLines (l.after i) t

/-- Names of a pool's items from byte offset o (R299). -/
def poolNames : Nat → List Datum → Names
  | _, [] => []
  | o, .label x :: t => (x, BitVec.ofNat 64 o) :: poolNames o t
  | o, .data w vs :: t => poolNames ((Datum.data w vs).after o) t
  | o, .space n :: t => poolNames (o + n) t
  | o, .align n :: t => poolNames (alignUp o n) t
  | o, .topb x d :: t => (x, BitVec.ofNat 64 (alignUp o 256)) :: poolNames ((Datum.topb x d).after o) t
  | o, .cell x c :: t => (x, BitVec.ofNat 64 (alignUp o 32)) :: poolNames ((Datum.cell x c).after o) t

/-- Names that the lines define: a code label is the index of the next bundle, a pool's name its first byte offset (R299,
R304). -/
def lineNames (ls : List (Nat × CodeLine)) : Names :=
  ls.flatMap (fun p => match p.2 with
    | .label x => [(x, BitVec.ofNat 64 p.1)]
    | .pool x data => (x, BitVec.ofNat 64 (24 * p.1)) :: poolNames (24 * p.1) data
    | _ => [])

/-- Bundles of the code section that lie in a pool: first index and count. -/
def poolRuns (ls : List (Nat × CodeLine)) : List (Nat × Nat) :=
  ls.filterMap (fun p => match p.2 with
    | .pool x data => some (p.1, (CodeLine.pool x data).after p.1 - p.1)
    | _ => none)

/-- The bundle lies in a pool. -/
def inPool (ls : List (Nat × CodeLine)) (i : Nat) : Bool := (poolRuns ls).any (fun r => r.1 ≤ i && i < r.1 + r.2)

/-- A move with the bundle it falls in and the item it comes from. -/
structure Emitted where
  bundle : Nat
  item   : Nat
  move   : MoveItem
  deriving DecidableEq, Repr

/-- An op form as it stands in the code: item, trigger bundle, first bundle that it uses, unit and cluster. -/
structure FormSite where
  item    : Nat
  first   : Nat
  bundle  : Nat
  unit    : Option Nat
  cluster : Option Nat
  deriving DecidableEq, Repr

/-- Moves of an item that stands in bundle b; nothing where a bundle of it lies before the code (R303). -/
def LineItem.emit (b id : Nat) : LineItem → Option (List Emitted × List FormSite)
  | .move m => some ([{ bundle := b, item := id, move := m }], [])
  | .form f => f.expand.bind (fun q =>
    if q.2 ≤ b then
      let ms : List Emitted := q.1.map (fun p => { bundle := ((b : Int) + p.1).toNat, item := id, move := p.2 })
      some (ms, [{ item := id, first := (ms.map (·.bundle)).foldl min b, bundle := b, unit := portUnit f.trig.port, cluster := f.trig.cluster }])
    else none)

/-- All moves of the code, in the order written, with its op forms. (DEDUCED, log 68.) -/
def emitAll : Nat → List (Nat × LineItem) → Option (List Emitted × List FormSite)
  | _, [] => some ([], [])
  | id, (b, it) :: t => (it.emit b id).bind (fun p => (emitAll (id + 1) t).map (fun q => (p.1 ++ q.1, p.2 ++ q.2)))

/-- Between its first operand move and its trigger no other move writes a port of the form's unit, and no label stands on
a bundle after its first up to its trigger (R303). -/
def FormSite.ok (labels : List Nat) (ms : List Emitted) (f : FormSite) : Bool :=
  !labels.any (fun i => f.first < i && i ≤ f.bundle)
    && !(ms.any (fun (m : Emitted) => m.item != f.item && f.first < m.bundle && m.bundle < f.bundle
      && m.move.dst.cluster == f.cluster && (portUnit m.move.dst.port).isSome && portUnit m.move.dst.port == f.unit
      && ms.any (fun (o : Emitted) => o.item == f.item && o.bundle < m.bundle)))

/-- Items of the code with their bundles. -/
def codeItems (ls : List (Nat × CodeLine)) : List (Nat × LineItem) :=
  ls.flatMap (fun p => match p.2 with
    | .bundle items => items.map (fun it => (p.1, it))
    | _ => [])

/-- Bundles on which a label stands. -/
def codeLabels (ls : List (Nat × CodeLine)) : List Nat :=
  ls.filterMap (fun p => match p.2 with
    | .label _ => some p.1
    | _ => none)

/-- Names that an expression mentions. -/
def Expr.names : Expr → List Ident
  | .num _ => []
  | .name x => [x]
  | .neg a => a.names
  | .inv a => a.names
  | .bin _ a b => a.names ++ b.names

/-- Labels and names of the pools: byte offsets, at which no bundle stands (R299), and code labels whose bundle is one of a pool
(R305). -/
def poolIdents (ls : List (Nat × CodeLine)) : List Ident :=
  ls.flatMap (fun p => match p.2 with
    | .pool x data => x :: (poolNames 0 data).map (·.1)
    | .label x => if inPool ls p.1 then [x] else []
    | _ => [])

/-- Names that a branch, call or loop operation mentions: they may not lie in a pool (R305). -/
def LineItem.targets : LineItem → List Ident
  | .move m => match m.src with
    | .lit x => if 0x301 ≤ m.dst.port && m.dst.port ≤ 0x30D then x.names else []
    | .port _ => []
  | .form f => if 0x301 ≤ f.trig.port && f.trig.port ≤ 0x30D then
      f.args.flatMap (fun o => match o with
        | .val (.lit x) _ _ => x.names
        | _ => [])
    else []

/-- The words of one bundle of code. -/
def bundleCode (ns : Names) (ms : List Emitted) (i : Nat) : Option (List (BitVec 24)) :=
  ((ms.filter (fun (m : Emitted) => m.bundle == i)).mapM (fun (m : Emitted) => m.move.code ns)).bind placeBundle

/-- The code section as bundles of eight words, pools left as zero words: all-NOP bundles follow the last line as result
moves require (R303). Nothing where assembly fails. -/
def assembleCode (ns : Names) (lines : List CodeLine) : Option (List (List (BitVec 24))) :=
  let ls := placeLines 0 lines
  (emitAll 0 (codeItems ls)).bind (fun p =>
    let last := (lines.foldl (fun i l => l.after i) 0) :: p.1.map (fun m => m.bundle + 1)
    let n := last.foldl max 0
    let aligned := lines.all (fun l => match l with
      | .align k => alignOk k
      | .pool _ data => data.all (fun d => match d with
        | .align k => alignOk k
        | _ => true)
      | _ => true)
    let targets := (codeItems ls).flatMap (fun q => q.2.targets)
    if aligned && !targets.any (poolIdents ls).contains && p.2.all (fun f => f.ok (codeLabels ls) p.1)
        && p.1.all (fun m => !inPool ls m.bundle) && ns.once then
      (rangeFrom 0 n).mapM (bundleCode ns p.1)
    else none)

end Sys2Proof.Machine
end

