-- ==== Sys2Proof/Machine/ObjectImage.lean ====
section
/-!
DEFINITION. Directives of Judric assembly and the object image (R304-R309, R475, R476): what `judric-as` emits for a
kernel, and what the runtime makes of it.
-/

namespace Sys2Proof.Machine

/-! ## Fields of an entry (R307, R309) -/

/-- A relocation before its symbol has an index (Table 11.12). -/
structure Reloc where
  sect   : Nat
  lsb    : Nat
  width  : Nat
  off    : Nat
  sym    : Ident
  addend : Dword
  deriving DecidableEq, Repr

/-- A value stands in a field of w bits; where the field is signed, a negative value does too. -/
def fitsField (w : Nat) (signed : Bool) (v : Dword) : Bool :=
  v.toNat < 2 ^ w || (signed && 2 ^ 64 - 2 ^ (w - 1) ≤ v.toNat)

/-- An addend of a relocation: 48 bits, signed (Table 11.12). -/
def addendOk (a : Dword) : Bool := fitsField 48 true a

/-- Puts one field into doublewords by index; an external symbol writes 0 and leaves a relocation (R309). -/
def Field.put (ns : Names) (sect base : Nat) (f : Field) (ws : Tab Nat) : Option (Tab Nat × List Reloc) :=
  match f.val.value ns with
  | none => none
  | some (.external x a) =>
    if f.lsb + f.width ≤ 64 && addendOk a then
      some (ws, [{ sect := sect, lsb := f.lsb, width := f.width, off := base + f.off, sym := x, addend := a }])
    else none
  | some (.known v) =>
    if fitsField f.width f.signed v then
      let i := (base + f.off) / 8
      some (tabSet 0 ws i (tabGet 0 ws i + v.toNat % 2 ^ f.width * 2 ^ f.lsb), [])
    else none

/-- Puts the fields of an entry that begins at a byte offset of a section. -/
def putFields (ns : Names) (sect base : Nat) : List Field → Tab Nat → Option (Tab Nat × List Reloc)
  | [], ws => some (ws, [])
  | f :: t, ws => (f.put ns sect base ws).bind (fun p =>
    (putFields ns sect base t p.1).map (fun q => (q.1, p.2 ++ q.2)))

/-- The bytes of n doublewords. -/
def wordsBytes (n : Nat) (ws : Tab Nat) : List Byte := (rangeFrom 0 n).flatMap (fun i => leBytes (tabGet 0 ws i) 8)

/-- A section (Table 11.11). -/
structure Section where
  kind  : Nat
  count : Nat
  data  : List Byte
  deriving DecidableEq, Repr

/-- Puts entries of a size at their indices. -/
def putEntries (ns : Names) (sect size : Nat) : List (Nat × List Field) → Tab Nat → Option (Tab Nat × List Reloc)
  | [], ws => some (ws, [])
  | (i, fs) :: t, ws => (putFields ns sect (size * i) fs ws).bind (fun p =>
    (putEntries ns sect size t p.1).map (fun q => (q.1, p.2 ++ q.2)))

/-- A section of `count` entries; an index given twice, or out of range, fails assembly. -/
def sectionOf (ns : Names) (kind size count : Nat) (es : List (Nat × List Field)) : Option (Section × List Reloc) :=
  if (distinct (es.map (·.1))).length = es.length && es.all (fun e => e.1 < count) then
    (putEntries ns kind size es []).map (fun p =>
      ({ kind := kind, count := count, data := wordsBytes (size * count / 8) p.1 }, p.2))
  else none

/-! ## Directives (Table 11.8) -/

/-- An increment of `.loop`: register and value. -/
structure IncDecl where
  reg : Nat := 0
  val : Expr := noOption
  deriving DecidableEq, Repr

/-- `.loop`. -/
structure LoopDecl where
  level : Nat
  start : Expr := noOption
  stop  : Expr := noOption
  lb    : Expr := noOption
  inca  : IncDecl := {}
  incb  : IncDecl := {}
  deriving DecidableEq, Repr

/-- `.stage` with its loop templates. -/
structure StageDecl where
  n     : Nat
  group : Expr := noOption
  inq   : List Expr := []
  outq  : List Expr := []
  loops : List LoopDecl := []
  deriving DecidableEq, Repr

/-- `.queue`. -/
structure QueueDecl where
  q      : Nat
  base   : Expr := noOption
  lines  : Expr := noOption
  log2d  : Expr := noOption
  log2ov : Expr := noOption
  ovva   : Expr := noOption
  quota  : Expr := noOption
  deriving DecidableEq, Repr

/-- `.region`: byte addresses. -/
structure RegionDecl where
  n         : Nat
  immediate : Bool := false
  disc      : Expr := noOption
  base      : Expr := noOption
  limit     : Expr := noOption
  deriving DecidableEq, Repr

/-- `.fmt`: element formats by the codes of Table 6.4. -/
structure FmtDecl where
  i      : Nat
  a      : Nat := 0
  b      : Nat := 0
  c      : Nat := 0
  o      : Nat := 0
  /-- Code of the block length: 0 for 8, 1 for 16, 2 for 32. -/
  blk    : Nat := 0
  ue8m1  : Bool := false
  nscale : Expr := noOption
  tscale : Expr := noOption
  sat    : Expr := noOption
  deriving DecidableEq, Repr

/-- `.channel`: kind (1 send, 2 recv, 3 ring) and the fields of Table 6.15. -/
structure ChannelDecl where
  n      : Nat
  kind   : Nat
  peer   : Expr := noOption
  pcore  : Expr := noOption
  pctx   : Expr := noOption
  lcore  : Expr := noOption
  lctx   : Expr := noOption
  depth  : Expr := noOption
  credit : Expr := noOption
  elines : Expr := noOption
  buf    : Expr := noOption
  next   : Expr := noOption
  prev   : Expr := noOption
  op     : Expr := noOption
  type   : Expr := noOption
  chunk  : Expr := noOption
  seq    : Expr := noOption
  step   : Expr := noOption
  nstep  : Expr := noOption
  rtail  : Expr := noOption
  rhead  : Expr := noOption
  deriving DecidableEq, Repr

/-- `.tile`: its geometry becomes equates (Table 11.8). -/
structure TileDecl where
  name   : Ident
  index  : Expr
  base   : Expr := noOption
  rows   : Expr := noOption
  rbytes : Expr := noOption
  pitch  : Expr := noOption
  deriving DecidableEq, Repr

/-- Stage-table entry of a stage whose entry bundle is known (Table 6.7). -/
def StageDecl.fields (t : StageDecl) (entry : Nat) : List Field :=
  [ { off := 0, lsb := 0, width := 13, val := .num entry }, { off := 0, lsb := 16, width := 16, val := t.group },
    { off := 0, lsb := 32, width := 1, val := .num 1 } ]
  ++ ((rangeFrom 0 t.inq.length).zip t.inq).flatMap (fun q =>
    [ { off := 8, lsb := 8 * q.1, width := 7, val := q.2 }, { off := 8, lsb := 8 * q.1 + 7, width := 1, val := .num 1 } ])
  ++ ((rangeFrom 0 t.outq.length).zip t.outq).flatMap (fun q =>
    [ { off := 8, lsb := 32 + 8 * q.1, width := 7, val := q.2 },
      { off := 8, lsb := 39 + 8 * q.1, width := 1, val := .num 1 } ])

/-- Loop template (Table 6.6, R189). -/
def LoopDecl.fields (l : LoopDecl) : List Field :=
  [ { off := 0, lsb := 51, width := 13, val := l.stop }, { off := 0, lsb := 38, width := 13, val := l.start },
    { off := 0, lsb := 37, width := 1, val := l.lb },
    { off := 8, lsb := 58, width := 6, val := .num l.inca.reg }, { off := 8, lsb := 32, width := 26, signed := true, val := l.inca.val },
    { off := 8, lsb := 26, width := 6, val := .num l.incb.reg }, { off := 8, lsb := 0, width := 26, signed := true, val := l.incb.val } ]

/-- Queue declaration (Table 6.8); the relocation of OVVA names its 52 bits (R309). -/
def QueueDecl.fields (q : QueueDecl) : List Field :=
  [ { off := 0, lsb := 0, width := 30, val := q.base }, { off := 8, lsb := 0, width := 7, val := q.lines },
    { off := 8, lsb := 8, width := 4, val := q.log2d }, { off := 8, lsb := 12, width := 5, val := q.log2ov },
    { off := 16, lsb := 0, width := 52, val := q.ovva }, { off := 24, lsb := 0, width := 24, val := q.quota } ]

/-- A line field of a region from a byte address, `up` above which is a multiple of 64; an external symbol is relocated into the
field as it stands (DESIGN CHOICE, log 68: R309 puts the symbol's value into the field). -/
def lineExpr (ns : Names) (up : Nat) (e : Expr) : Option Expr :=
  match e.value ns with
  | some (.known v) => if (v.toNat + up) % 64 = 0 then some (.num (v.toNat / 64)) else none
  | some (.external _ _) => some e
  | none => none

/-- Region-table entry from byte addresses (Tables 6.9, 11.8); nothing where they do not stand on lines. -/
def RegionDecl.fields (ns : Names) (r : RegionDecl) : Option (List Field) :=
  (lineExpr ns 0 r.base).bind (fun b => (lineExpr ns 1 r.limit).map (fun l =>
    [ { off := 0, lsb := 0, width := 24, val := b }, { off := 0, lsb := 24, width := 24, val := l },
      { off := 0, lsb := 61, width := 1, val := r.disc },
      { off := 0, lsb := 62, width := 1, val := .num (if r.immediate then 1 else 0) },
      { off := 0, lsb := 63, width := 1, val := .num 1 } ]))

/-- Format-table entry (Tables 6.3, 6.4); nothing where a field does not accept the format. -/
def FmtDecl.fields (f : FmtDecl) : Option (List Field) :=
  if f.a ≤ 11 && f.b ≤ 11 && (f.c == 0 || f.c == 1 || f.c == 6) && f.o ≤ 10 && f.blk ≤ 2 then
    some [ { off := 0, lsb := 7, width := 1, val := f.sat },
      { off := 0, lsb := 8, width := 4, val := .num f.o }, { off := 0, lsb := 12, width := 4, val := .num f.c },
      { off := 0, lsb := 16, width := 4, val := .num f.b }, { off := 0, lsb := 20, width := 4, val := .num f.a },
      { off := 0, lsb := 25, width := 1, val := .num (if f.ue8m1 then 1 else 0) },
      { off := 0, lsb := 26, width := 2, val := .num f.blk }, { off := 0, lsb := 32, width := 16, val := f.nscale },
      { off := 0, lsb := 48, width := 16, val := f.tscale } ]
  else none

/-- Channel declaration (Table 6.15). -/
def ChannelDecl.fields (c : ChannelDecl) : List Field :=
  [ { off := 0, lsb := 62, width := 2, val := .num c.kind }, { off := 0, lsb := 50, width := 11, val := c.peer },
    { off := 0, lsb := 43, width := 7, val := c.pcore }, { off := 0, lsb := 41, width := 2, val := c.pctx },
    { off := 0, lsb := 34, width := 7, val := c.lcore }, { off := 0, lsb := 32, width := 2, val := c.lctx },
    { off := 0, lsb := 16, width := 16, val := c.depth }, { off := 0, lsb := 0, width := 16, val := c.credit },
    { off := 8, lsb := 32, width := 6, val := c.elines }, { off := 8, lsb := 0, width := 30, val := c.buf },
    { off := 16, lsb := 53, width := 11, val := c.next }, { off := 16, lsb := 42, width := 11, val := c.prev },
    { off := 16, lsb := 38, width := 4, val := c.op }, { off := 16, lsb := 34, width := 4, val := c.type },
    { off := 16, lsb := 0, width := 32, val := c.chunk }, { off := 24, lsb := 40, width := 24, val := c.seq },
    { off := 24, lsb := 24, width := 16, val := c.step }, { off := 24, lsb := 8, width := 16, val := c.nstep },
    { off := 32, lsb := 32, width := 32, val := c.rtail }, { off := 32, lsb := 0, width := 32, val := c.rhead } ]

/-- The values that an expression may take of those from 0 to n: its own, or of an external symbol every one, since the runtime
gives it (R309). -/
def Expr.choices (ns : Names) (n : Nat) (e : Expr) : List Nat :=
  (rangeFrom 0 (n + 1)).filter (fun v => e.within ns v v)

/-- The kind is one of Table 6.15, depth and element size are in its ranges, TYPE is a code of its own, CHUNK a multiple of 64;
a ring's operator accepts its type (R204). -/
def ChannelDecl.ok (ns : Names) (c : ChannelDecl) : Bool :=
  1 ≤ c.kind && c.kind ≤ 3 && c.depth.within ns 1 4096 && c.elines.within ns 1 63
    && (match c.chunk.value ns with
      | some (.known v) => v.toNat % 64 = 0
      | some (.external _ _) => true
      | none => false)
    && (c.type.choices ns 6).any (fun t => (t = 0 || t = 1 || t = 6)
      && (c.kind != 3 || (c.op.choices ns 15).any (fun o => opTypeOk o t)))

/-- Names of a tile: its index, `.base`, `.rows`, `.rbytes` and `.pitch` (Table 11.8); nothing where R199 refuses its
geometry, a field of Table 6.13 does not hold it or the index is above 255. -/
def TileDecl.names (ns : Names) (t : TileDecl) : Option Names :=
  match t.index.known ns, t.base.known ns, t.rows.known ns, t.rbytes.known ns, t.pitch.known ns with
  | some i, some b, some r, some w, some p =>
    if i.toNat ≤ 255 && r.toNat ≤ 4095 && w.toNat ≤ 65535 && p.toNat < 2 ^ 20 && r != 0 && w != 0 && p != 0 && w.toNat ≤ p.toNat && p.toNat % 64 = 0 && b.toNat % 64 = 0
        && b.toNat + (r.toNat - 1) * p.toNat + w.toNat ≤ 0x800000 then
      some [(t.name, i), (t.name ++ ".base".toList, b), (t.name ++ ".rows".toList, r), (t.name ++ ".rbytes".toList, w),
        (t.name ++ ".pitch".toList, p)]
    else none
  | _, _, _, _, _ => none

/-! ## A kernel (R304) -/

/-- A definition of names: `.equ` or `.tile`. -/
inductive NameDecl where
  | equ (x : Ident) (v : Expr)
  | tile (t : TileDecl)
  deriving DecidableEq, Repr

/-- The source of a kernel. -/
structure KernelSource where
  name     : Ident
  log2bal  : Nat := 0
  lines    : List CodeLine
  names    : List NameDecl := []
  stages   : List StageDecl := []
  queues   : List QueueDecl := []
  regions  : List RegionDecl := []
  fmts     : List FmtDecl := []
  channels : List ChannelDecl := []
  templates : List (Nat × TemplateDecl) := []
  deriving DecidableEq, Repr

/-- Adds the names of the equates and tiles, in order; one that needs an undefined name fails. -/
def declareNames : List NameDecl → Names → Option Names
  | [], ns => some ns
  | .equ x v :: t, ns => (v.known ns).bind (fun w => declareNames t (ns ++ [(x, w)]))
  | .tile d :: t, ns => (d.names ns).bind (fun m => declareNames t (ns ++ m))

/-- Bytes from byte offset o of an aligned block with its fields, before what follows it. -/
def blockBytes (ns : Names) (o align size : Nat) (fs : List Field) (rest : Option (List Byte × List Reloc)) :
    Option (List Byte × List Reloc) :=
  let b := alignUp o align
  (putFields ns 1 0 fs []).bind (fun p => rest.map (fun q =>
    (List.replicate (b - o) 0 ++ wordsBytes (size / 8) p.1 ++ q.1, p.2.map (fun r => { r with off := b + r.off }) ++ q.2)))

/-- Bytes of a pool from byte offset o of the code image, with its relocations (R305, R309). -/
def poolBytes (ns : Names) : Nat → List Datum → Option (List Byte × List Reloc)
  | _, [] => some ([], [])
  | o, .label _ :: t => poolBytes ns o t
  | o, .space n :: t => (poolBytes ns (o + n) t).map (fun q => (List.replicate n 0 ++ q.1, q.2))
  | o, .align n :: t => (poolBytes ns (alignUp o n) t).map (fun q => (List.replicate (alignUp o n - o) 0 ++ q.1, q.2))
  | o, .data w vs :: t =>
    let parts := ((rangeFrom 0 vs.length).zip vs).mapM (fun (q : Nat × Expr) =>
      let at_ := o + w * q.1
      match q.2.value ns with
      | some (.known v) =>
        if fitsField (8 * w) true v then some (leBytes v.toNat w, ([] : List Reloc)) else none
      | some (.external x a) =>
        if 8 * (at_ % 8) + 8 * w ≤ 64 && addendOk a then
          some (List.replicate w 0,
            [{ sect := 1, lsb := 8 * (at_ % 8), width := 8 * w, off := at_ / 8 * 8, sym := x, addend := a }])
        else none
      | none => none)
    parts.bind (fun ps => (poolBytes ns (o + w * vs.length) t).map (fun q =>
      (ps.flatMap (·.1) ++ q.1, ps.flatMap (·.2) ++ q.2)))
  | o, .topb _ d :: t => if d.ok ns then blockBytes ns o 256 256 (d.fields d.stage) (poolBytes ns (alignUp o 256 + 256) t) else none
  | o, .cell _ c :: t => if c.ok ns then blockBytes ns o 32 32 (c.fields ns) (poolBytes ns (alignUp o 32 + 32) t) else none

/-- The alignment that a pool's items need (R306). -/
def poolAlign (data : List Datum) : Nat :=
  (data.map (fun d => match d with
    | .align n => n
    | .topb _ _ => 256
    | .cell _ _ => 32
    | _ => 1)).foldl max 64

/-- The image's alignment (R306). -/
def imageAlign (lines : List CodeLine) : Nat :=
  (lines.map (fun l => match l with
    | .pool _ data => poolAlign data
    | _ => 64)).foldl max 64

/-- Lays the pools over the code image (R305). -/
def overlayPools (ns : Names) : List (Nat × CodeLine) → List Byte → Option (List Byte × List Reloc)
  | [], code => some (code, [])
  | (i, .pool x data) :: t, code => (poolBytes ns (24 * i) data).bind (fun p =>
    let n := 24 * ((CodeLine.pool x data).after i - i)
    let padded := p.1 ++ List.replicate (n - p.1.length) 0
    (overlayPools ns t (code.take (24 * i) ++ padded ++ code.drop (24 * i + n))).map (fun q => (q.1, p.2 ++ q.2)))
  | _ :: t, code => overlayPools ns t code

/-- The code map: one POOL entry for each pool and one CODE entry for each run of code between (R183, R305). -/
def codeMap (n : Nat) : Nat → List (Nat × Nat) → List (Nat × Nat × Nat)
  | i, [] => if i < n then [(1, i, n - i)] else []
  | i, (s, l) :: t => (if i < s then [(1, i, s - i)] else []) ++ (2, s, l) :: codeMap n (s + l) t

/-- Code-map entry (Table 6.2). -/
def segFields (g : Nat × Nat × Nat) : List Field :=
  [ { off := 0, lsb := 62, width := 2, val := .num g.1 }, { off := 0, lsb := 13, width := 14, val := .num g.2.2 },
    { off := 0, lsb := 0, width := 13, val := .num g.2.1 } ]

/-- Entry bundles of the stages: `.entry n` marks the next bundle (Table 11.8), which lies in no pool (R305). -/
def entryOf (ls : List (Nat × CodeLine)) (n : Nat) : Option Nat :=
  ((ls.find? (fun p => p.2 = .entry n)).map (·.1)).filter (fun i => !inPool ls i)

/-- One more than the highest index. -/
def countOf (is : List Nat) : Nat := is.foldl (fun m i => max m (i + 1)) 0

/-- The default template's fields (R27). -/
def defaultTemplate : TemplateDecl :=
  { m := .num 1, n := .num 1, k := .num 1, fmtlv := .num 0xF, levels := List.replicate 6 { bound := .num 1 } }

/-- A signed 26-bit increment (Table 6.6). -/
def incOk (ns : Names) (x : Expr) : Bool :=
  match x.value ns with
  | some (.known v) => v.toNat < 2 ^ 25 || 2 ^ 64 - 2 ^ 25 ≤ v.toNat
  | some (.external _ _) => true
  | none => false

/-- An end of a loop template is no bundle of a pool and names nothing of one (R305). -/
def loopEndOk (ns : Names) (ls : List (Nat × CodeLine)) (x : Expr) : Bool :=
  !x.names.any (poolIdents ls).contains && (match x.value ns with
    | some (.known v) => !inPool ls v.toNat
    | some (.external _ _) => true
    | none => false)

/-- A loop template's ends lie in no pool, and its registers and increments are in range (R305, Table 6.6). -/
def LoopDecl.ok (ns : Names) (ls : List (Nat × CodeLine)) (l : LoopDecl) : Bool :=
  l.level ≤ 5 && l.inca.reg ≤ 63 && l.incb.reg ≤ 63 && incOk ns l.inca.val && incOk ns l.incb.val
    && loopEndOk ns ls l.start && loopEndOk ns ls l.stop

/-! ## External symbols in what `.endkernel` checks (R309)

The runtime gives an external symbol its value, and the launch judges it. The checks of assembly put the value in its place
that every check accepts, so that they refuse what no value would mend. (DEDUCED, log 68.) -/

/-- The expression, or a number where it is an external symbol. -/
def Expr.orNum (ns : Names) (n : Nat) (e : Expr) : Expr :=
  match e.value ns with
  | some (.external _ _) => .num n
  | _ => e

def QueueDecl.judged (ns : Names) (q : QueueDecl) : QueueDecl :=
  { q with
    base := q.base.orNum ns 0, lines := q.lines.orNum ns 1, log2d := q.log2d.orNum ns 1
    log2ov := q.log2ov.orNum ns (if (q.quota.orNum ns 0).within ns 0 0 then 0 else 24)
    ovva := q.ovva.orNum ns 0, quota := q.quota.orNum ns 0 }

def RegionDecl.judged (ns : Names) (r : RegionDecl) : RegionDecl :=
  { r with base := r.base.orNum ns 0, limit := r.limit.orNum ns (2 ^ 30 - 1) }

def TemplateDecl.judged (ns : Names) (t : TemplateDecl) : TemplateDecl :=
  { t with
    m := t.m.orNum ns 1, n := t.n.orNum ns 1
    levels := t.levels.map (fun l => { l with bound := l.bound.orNum ns 1, mark := l.mark.orNum ns 0 }) }

/-- The queues that the stages name are all known. -/
def KernelSource.queuesKnown (ns : Names) (k : KernelSource) : Bool :=
  k.stages.all (fun t => (t.inq ++ t.outq).all (fun e => (e.known ns).isSome))

def KernelSource.judged (ns : Names) (k : KernelSource) : KernelSource :=
  { k with
    queues := k.queues.map (·.judged ns), regions := k.regions.map (·.judged ns)
    templates := k.templates.map (fun q => (q.1, q.2.judged ns)) }

/-- The names of a kernel. -/
def KernelSource.idents (k : KernelSource) : Option Names := declareNames k.names (lineNames (placeLines 0 k.lines))

/-- The sections of a kernel before symbols are numbered, in the order of their kinds; nothing where assembly fails.
(DEDUCED, log 68.) -/
def KernelSource.sections (k : KernelSource) : Option (List Section × List Reloc) := do
  let ls := placeLines 0 k.lines
  let ns ← k.idents
  let bundles ← assembleCode ns k.lines
  let nstage := countOf (k.stages.map (·.n))
  let (code, codeRel) ← overlayPools ns ls (bundles.flatMap (fun ws => ws.flatMap (fun w => leBytes w.toNat 3)))
  let segs := codeMap bundles.length 0 (poolRuns ls)
  guard (k.stages.all (fun t => t.inq.length ≤ 4 && t.outq.length ≤ 4 && t.loops.all (·.ok ns ls)))
  guard (k.templates.all (fun q => q.2.ok ns && k.stages.any (fun t => t.n == q.1 && !t.inq.isEmpty)))
  guard (k.channels.all (·.ok ns))
  guard ((distinct (k.templates.map (·.1))).length = k.templates.length)
  let stages ← k.stages.mapM (fun t => (entryOf ls t.n).map (fun e => (t.n, t.fields e)))
  let loops := k.stages.flatMap (fun t => t.loops.map (fun l => (6 * t.n + l.level, l.fields)))
  let regions ← k.regions.mapM (fun r => (r.fields ns).map (fun fs => (r.n, fs)))
  let fmts ← k.fmts.mapM (fun f => f.fields.map (fun fs => (f.i, fs)))
  let tmpl (i : Nat) : TemplateDecl := match k.templates.find? (fun q => q.1 == i) with
    | some q => q.2
    | none => defaultTemplate
  let cmap ← sectionOf ns 2 8 segs.length ((rangeFrom 0 segs.length).zip (segs.map segFields))
  let stage ← sectionOf ns 3 16 nstage stages
  let queue ← sectionOf ns 4 32 (countOf (k.queues.map (·.q))) (k.queues.map (fun q => (q.q, q.fields)))
  let chan ← sectionOf ns 5 64 (countOf (k.channels.map (·.n))) (k.channels.map (fun c => (c.n, c.fields)))
  let fmt ← sectionOf ns 6 8 16 fmts
  let loop ← sectionOf ns 7 16 (6 * nstage) loops
  let region ← sectionOf ns 8 8 (countOf (k.regions.map (·.n))) regions
  let tmpls ← sectionOf ns 11 256 nstage ((rangeFrom 0 nstage).map (fun i => (i, (tmpl i).fields noOption)))
  let optional (p : Section × List Reloc) (used : Bool) : List (Section × List Reloc) := if used then [p] else []
  let parts := ({ kind := 1, count := bundles.length, data := code }, codeRel) :: cmap :: stage
    :: (optional queue (!k.queues.isEmpty) ++ optional chan (!k.channels.isEmpty) ++ optional fmt (!k.fmts.isEmpty)
      ++ [loop] ++ optional region (!k.regions.isEmpty) ++ optional tmpls (!k.templates.isEmpty))
  pure (parts.map (·.1), parts.flatMap (·.2))

/-- Section of a kind. -/
def findSection (ss : List Section) (kind : Nat) : Section :=
  (ss.find? (fun s => s.kind == kind)).getD { kind := kind, count := 0, data := [] }

/-- The image satisfies R19 and R182, as `.endkernel` asks (Table 11.8); the graph of the stages is judged where all its queues
are known. -/
def sectionsOk (log2bal : Nat) (graph : Bool) (ss : List Section) : Bool :=
  let entries (kind size : Nat) : List (List Byte) :=
    let s := findSection ss kind
    entriesOf s.data size s.count
  let nbund := (findSection ss 1).count
  let segs := (entries 2 8).map segOf
  let loops := (rangeFrom 0 (entries 3 16).length).map (fun i => ((findSection ss 7).data.drop (96 * i)).take 96)
  let full := ((entries 3 16).zip loops).map (fun b => stageEntry b.1 b.2)
  let queues := (entries 4 32).map queueOf
  1 ≤ nbund && nbund ≤ 8192 && 1 ≤ full.length && full.length ≤ 16 && segs.length ≤ 32
    && queues.length ≤ 128 && (findSection ss 5).count ≤ 2047 && (findSection ss 8).count ≤ 64
    && (log2bal = 0 || (12 ≤ log2bal && log2bal ≤ 24))
    && segsOk nbund segs && queues.all queueOk && (!graph || stagesOk full (entries 3 16) queues.length nbund segs)
    && [0, 1].all (fun die => (queues.filter (fun q => queueDie q = die)).length ≤ 64)
    && !((entries 8 8).map dwordOf).any regionRefused
    && ((full.zip (entries 11 256)).all (fun p => !p.1.hasInput || topbOk p.2))

/-! ## The object image (R307-R309) -/

/-- Symbols of the relocations, each once, in order. -/
def relocSymbols (rs : List Reloc) : List Ident :=
  rs.foldl (fun acc r => if acc.contains r.sym then acc else acc ++ [r.sym]) []

/-- ASCII characters padded with zero bytes to n (Tables 11.9, 11.11). -/
def asciiBytes (n : Nat) (x : Ident) : List Byte :=
  let b := x.map (fun c => BitVec.ofNat 8 c.toNat)
  (b ++ List.replicate (n - b.length) 0).take n

/-- A relocation entry (Table 11.12). -/
def Reloc.bytes (syms : List Ident) (r : Reloc) : List Byte :=
  leBytes r.sect 1 ++ leBytes r.lsb 1 ++ leBytes r.width 1 ++ [0] ++ leBytes r.off 4
    ++ leBytes (syms.findIdx (fun s => s = r.sym)) 2 ++ leBytes r.addend.toNat 6

/-- A symbol entry (Table 11.11). (DEDUCED, log 68.) -/
def symbolBytes (x : Ident) : List Byte := asciiBytes 24 x ++ leBytes (Config.symbolValue x).toNat 8

/-- The sections of relocations and symbols. -/
def relocSections (rs : List Reloc) : List Section :=
  if rs.isEmpty then [] else
    let syms := relocSymbols rs
    [{ kind := 9, count := rs.length, data := rs.flatMap (Reloc.bytes syms) },
      { kind := 10, count := syms.length, data := syms.flatMap symbolBytes }]

/-- Section headers with the offsets of their sections, each aligned to 64 B (R307, Table 11.10). -/
def sectionHeaders : Nat → List Section → List (List Byte)
  | _, [] => []
  | o, s :: t => (leBytes s.kind 4 ++ leBytes s.count 4 ++ leBytes o 4 ++ leBytes s.data.length 4)
    :: sectionHeaders (alignUp (o + s.data.length) 64) t

/-- A section padded to the next multiple of 64 B. -/
def padSection (b : List Byte) : List Byte := b ++ List.replicate (alignUp b.length 64 - b.length) 0

/-- The object image of a kernel (R307, Table 11.9): header, section headers, sections. -/
def objectBytes (name : Ident) (align log2bal : Nat) (ss : List Section) : List Byte :=
  let header := leBytes 0x4F52444A 4 ++ leBytes 1 2 ++ leBytes ss.length 2 ++ leBytes align 2 ++ leBytes log2bal 2
    ++ leBytes 0 4 ++ asciiBytes 32 name ++ leBytes 0 16
  let first := alignUp (64 + 16 * ss.length) 64
  padSection (header ++ (sectionHeaders first ss).flatMap id) ++ ss.flatMap (fun s => padSection s.data)

/-- What `judric-as` emits for a kernel; nothing where assembly fails. -/
def KernelSource.assemble (k : KernelSource) : Option (List Byte) :=
  k.idents.bind (fun ns => k.sections.bind (fun p => (k.judged ns).sections.bind (fun j =>
    if sectionsOk k.log2bal (k.queuesKnown ns) j.1 && identOk k.name then
      some (objectBytes k.name (imageAlign k.lines) k.log2bal (p.1 ++ relocSections p.2))
    else none)))

/-! ## The runtime (R308, R309) -/

/-- The sections of an object image; nothing where the runtime refuses it: a header that is not of Table 11.9, an unknown
kind, a kind twice, or no CODE section. -/
def objectSections (b : List Byte) : Option (List Section) :=
  let n := fieldAt b 6 2
  let heads := (rangeFrom 0 n).map (fun i => (b.drop (64 + 16 * i)).take 16)
  let ss : List Section := heads.map (fun h =>
    { kind := fieldAt h 0 1, count := fieldAt h 4 4, data := (b.drop (fieldAt h 8 4)).take (fieldAt h 12 4) })
  if fieldAt b 0 4 = 0x4F52444A && fieldAt b 4 2 = 1 && 1 ≤ n && n ≤ 16 && ss.all (fun s => 1 ≤ s.kind && s.kind ≤ 11)
      && (distinct (ss.map (·.kind))).length = n && ss.any (fun s => s.kind == 1) then some ss
  else none

/-- Writes one relocation entry into the bytes of the section it names, with the symbols' values: nothing where the sum does
not fit (R309). -/
def applyReloc (vals : Nat → Nat) (r : List Byte) (kind : Nat) (b : List Byte) : Option (List Byte) :=
  if fieldAt r 0 1 ≠ kind then some b
  else
    let lsb := fieldAt r 1 1
    let w := fieldAt r 2 1
    let off := fieldAt r 4 4
    let sum := (vals (fieldAt r 8 2) : Int) + sextNat 48 (fieldAt r 10 6)
    if 0 ≤ sum && sum < 2 ^ w && lsb + w ≤ 64 then
      let old := fieldAt b off 8
      some (b.take off ++ leBytes (old - bits old (lsb + w - 1) lsb * 2 ^ lsb + sum.toNat * 2 ^ lsb) 8 ++ b.drop (off + 8))
    else none

/-- The sections as the runtime copies them to V-space, relocations applied. -/
def relocate (vals : Nat → Nat) (ss : List Section) : Option (List Section) :=
  let rel := findSection ss 9
  let rs := entriesOf rel.data 16 rel.count
  (ss.filter (fun s => s.kind != 9 && s.kind != 10)).mapM (fun s =>
    (rs.foldlM (fun b r => applyReloc vals r s.kind b) s.data).map (fun b => { s with data := b }))

/-- A missing FMT section gives 16 zero entries (R308). -/
def withFmt (ss : List Section) : List Section :=
  if ss.any (fun s => s.kind == 6) then ss else ss ++ [{ kind := 6, count := 16, data := List.replicate 128 0 }]

/-- The kernel descriptor from the addresses of the sections (R308, Table 6.1); a missing TMPL section gives TMPLVA 0. -/
def descriptorBytes (va : Nat → Nat) (log2bal : Nat) (ss : List Section) : List Byte :=
  let count (kind : Nat) : Nat := (findSection ss kind).count
  [1, 3, 4, 5, 6, 7, 8, 2].flatMap (fun kind => leBytes (va kind) 8)
    ++ leBytes (count 1 + 2 ^ 16 * count 3 + 2 ^ 24 * count 4 + 2 ^ 32 * count 5 + 2 ^ 48 * count 8 + 2 ^ 56 * count 2) 8
    ++ leBytes log2bal 8 ++ leBytes (if ss.any (fun s => s.kind == 11) then va 11 else 0) 8 ++ List.replicate 40 0

/-- The runtime makes V-space structures and a descriptor of an object image: bytes by address. Addresses of the sections
and the descriptor, and the symbols' values, are its own choice (R306, R308, R309). -/
def loadObject (va vals : Nat → Nat) (descVa : Nat) (b : List Byte) : Option (List (Nat × List Byte)) :=
  (objectSections b).bind (fun ss => (relocate vals ss).map (fun rs =>
    let full := withFmt rs
    (descVa, descriptorBytes va (bits (fieldAt b 0x0A 2) 4 0) full) :: full.map (fun s => (va s.kind, s.data))))

end Sys2Proof.Machine
end

