-- ==== Sys2Proof/Tests/Slice0.lean ====
section
/-!
SUPPORT. Tests: ill-formed terms that the checks of WellFormed refuse, a word of every slot instruction written out from its
encoding, single steps whose results the rules give, and for every statement with hypotheses a state that meets them.
-/

namespace Sys2Proof.Tests

open Sys2Proof.Machine Sys2Proof.Claims

set_option Elab.async false

/-! ## Ill-formed terms -/

/-- The check refuses every term of the list. -/
def refused (is : List Instr) : Bool := is.all (fun i => !WellFormed i)
/-- A move slot from source s without guard, E and H. -/
def mv (s : BitVec 9) : Mv := { g := 0, e := false, h := false, s := s }
/-- The fields of the words below: G 5, E 1, H 0, S 0x105. -/
def tm : Mv := { g := 5, e := true, h := false, s := 0x105 }
/-- G 7 is no guard. -/
def g7 : Mv := { g := 7, e := false, h := false, s := 0x100 }

theorem test_ill_formed_guards : refused [.nop 7 false false, .move g7 0x100, .discardMove g7, .queuePush g7 0, .queuePushShared g7 3,
    .queuePop 7 false false 0 0x100, .queuePopShared 7 false false 1 0x100, .queuePeek 7 true false 2 0x100,
    .queuePeekShared 7 false true 3 0x100, .vadd g7, .cmpEq g7 0, .xcl g7 1, .copy g7 0, .rputSt g7 0, .jmp g7, .perfClr g7] = true := by
  decide

theorem test_ill_formed_ports : refused [.discardMove (mv 0), .discardMove (mv 0x080), .discardMove (mv 0x157), .move (mv 0x100) 0,
    .move (mv 0x100) 0x00D, .move (mv 0x100) 0x080, .move (mv 0x100) 0x0F0, .move (mv 0x100) 0x0F7, .move (mv 0x100) 0x140,
    .move (mv 0x100) 0x147, .move (mv 0x100) 0x159, .move (mv 0x100) 0x312, .move (mv 0x084) 0x100, .move (mv 0x150) 0x100,
    .queuePop 0 false false 0 0x160, .queuePopShared 0 false false 0 0x2EA, .queuePeek 0 false false 0 0x3FF,
    .queuePeekShared 0 false false 0 0x0F8, .vcmpEq (mv 0x041) 3, .vcmpFun (mv 0x041) 3, .cmpLeu (mv 0x101) 3] = true := by
  decide

theorem test_ill_formed_parts : refused [.drainCmd 128, .undrainCmd 128, .nopRequest 64, .unknownRequest 64, .klaunch 64, .taskRequest 64,
    .closeRequest 64, .taskForm 16, .tileStepRetire 128 0, .tileStepRetire 0 4, .trussBalance 2, .coreMoveTakeEffect 128,
    .bundleIssue 128 none, .dovetailSeat 128, .dovetailRotation 128, .dovetailRoleSwap 128, .freezeCycle 128,
    .longLatencyArrival 0 4 0, .meshStorePerformed 128 0 0, .trapDelivery 0 4, .timerExpiry 128 3, .kChunkDrain 128,
    .imageSaveComplete 128, .phaseOpen 128, .releaseComplete 127 4, .arrayPassDue 128, .ceCommandDuePoint 128, .mstartGBegin 128,
    .epilogueComplete 128, .sillPreemptionRequest 128 []] = true := by
  decide

theorem test_ill_formed_engines : refused [.engineCommandAccept 128 0, .engineCommandAccept 0 15, .copyEligible 128 0 0, .copyEligible 0 8 0,
    .copyPiece 2 0, .copyPiece 0 16, .copyComplete 0 8 0, .tlbWalk 2 0, .dataFlitSend 47, .idleFlitSend 47, .linkLockLoss 47,
    .linkSilenceTimeout 47, .loaderFillBegin 0 64, .tileFillComplete 0 256, .storerDrainComplete 0 256, .tileReleaseEffect 128 0,
    .overflowRefill 128] = true := by
  decide

/-- A flit of all zeros. -/
def noFlit : Flit := { header := 0, payload := [], tag := 0 }

theorem test_ill_formed_links : refused [.dataFlit 47 noFlit, .ack 47 noFlit, .retryreq 47 noFlit, .creditFlit 47 noFlit, .keymark 47 noFlit,
    .drainFlit 47 noFlit, .hello 47 noFlit, .unknownFlit 47 noFlit, .idleFlit 47 noFlit] = true := by
  decide

/-! ## Decoding -/

/-- Every word, with the value its move carries, decodes to its instruction, and the instruction encodes to the word. A word
is written G, E, H, S, D (Table 11.1); the numbers of the ports are those of Tables 12.1-12.11. -/
noncomputable def reads (ps : List (Dword × BitVec 24 × Instr)) : Bool :=
  ps.all (fun p => decodeSlot p.2.1 p.1 == some p.2.2 && encode p.2.2 == some p.2.1)

theorem test_decode_moves : reads [
    (0x0, 0b101_1_0_000000000_0000000000, .nop 5 true false),
    (0x0, 0b111_0_0_000000000_0000000001, .immediateCarrier 1),
    (0x0, 0b101_1_0_100000101_0000000000, .discardMove tm),
    (0x0, 0b101_1_0_100000101_0011111001, .queuePush tm 1),
    (0x0, 0b101_1_0_100000101_1001010001, .queuePushShared tm 1),
    (0x0, 0b101_1_0_010000001_0001000010, .queuePop 5 true false 1 0x042),
    (0x0, 0b101_1_0_101010001_0001000010, .queuePopShared 5 true false 1 0x042),
    (0x0, 0b101_1_0_010000101_0001000010, .queuePeek 5 true false 1 0x042),
    (0x0, 0b101_1_0_101010101_0001000010, .queuePeekShared 5 true false 1 0x042)] = true := by decide +kernel

theorem test_decode_va0 : reads [
    (0x0, 0b101_1_0_100000101_0010000000, .vadd tm),
    (0x0, 0b101_1_0_100000101_0010000001, .vsub tm),
    (0x0, 0b101_1_0_100000101_0010000010, .vadds tm),
    (0x0, 0b101_1_0_100000101_0010000011, .vsubs tm),
    (0x0, 0b101_1_0_100000101_0010000100, .vmin tm),
    (0x0, 0b101_1_0_100000101_0010000101, .vmax tm),
    (0x0, 0b101_1_0_100000101_0010000110, .vminu tm),
    (0x0, 0b101_1_0_100000101_0010000111, .vmaxu tm),
    (0x0, 0b101_1_0_100000101_0010001000, .vand tm),
    (0x0, 0b101_1_0_100000101_0010001001, .vor tm),
    (0x0, 0b101_1_0_100000101_0010001010, .vxor tm),
    (0x0, 0b101_1_0_100000101_0010001011, .vandn tm),
    (0x0, 0b101_1_0_100000101_0010001100, .vshl tm),
    (0x0, 0b101_1_0_100000101_0010001101, .vshr tm),
    (0x0, 0b101_1_0_100000101_0010001110, .vsra tm),
    (0x0, 0b101_1_0_100000101_0010001111, .vsel tm),
    (0x0, 0b101_1_0_100000101_0010010000, .vclz tm),
    (0x0, 0b101_1_0_100000101_0010010001, .vpopc tm),
    (0x0, 0b101_1_0_100000101_0010010010, .vfadd tm),
    (0x0, 0b101_1_0_100000101_0010010011, .vfsub tm),
    (0x0, 0b101_1_0_100000101_0010010100, .vfmin tm),
    (0x0, 0b101_1_0_100000101_0010010101, .vfmax tm),
    (0x0, 0b101_1_0_100000101_0010010110, .vfabs tm),
    (0x0, 0b101_1_0_100000101_0010010111, .vfneg tm)] = true := by decide +kernel

theorem test_decode_va1 : reads [
    (0x0, 0b101_1_0_100000101_0010011000, .vaddB tm),
    (0x0, 0b101_1_0_100000101_0010011001, .vsubB tm),
    (0x0, 0b101_1_0_100000101_0010011010, .vaddsB tm),
    (0x0, 0b101_1_0_100000101_0010011011, .vsubsB tm),
    (0x0, 0b101_1_0_100000101_0010011100, .vminB tm),
    (0x0, 0b101_1_0_100000101_0010011101, .vmaxB tm),
    (0x0, 0b101_1_0_100000101_0010011110, .vminuB tm),
    (0x0, 0b101_1_0_100000101_0010011111, .vmaxuB tm),
    (0x0, 0b101_1_0_100000101_0010100000, .vandB tm),
    (0x0, 0b101_1_0_100000101_0010100001, .vorB tm),
    (0x0, 0b101_1_0_100000101_0010100010, .vxorB tm),
    (0x0, 0b101_1_0_100000101_0010100011, .vandnB tm),
    (0x0, 0b101_1_0_100000101_0010100100, .vshlB tm),
    (0x0, 0b101_1_0_100000101_0010100101, .vshrB tm),
    (0x0, 0b101_1_0_100000101_0010100110, .vsraB tm),
    (0x0, 0b101_1_0_100000101_0010100111, .vselB tm),
    (0x0, 0b101_1_0_100000101_0010101000, .vclzB tm),
    (0x0, 0b101_1_0_100000101_0010101001, .vpopcB tm),
    (0x0, 0b101_1_0_100000101_0010101010, .vfaddB tm),
    (0x0, 0b101_1_0_100000101_0010101011, .vfsubB tm),
    (0x0, 0b101_1_0_100000101_0010101100, .vfminB tm),
    (0x0, 0b101_1_0_100000101_0010101101, .vfmaxB tm),
    (0x0, 0b101_1_0_100000101_0010101110, .vfabsB tm),
    (0x0, 0b101_1_0_100000101_0010101111, .vfnegB tm)] = true := by decide +kernel

theorem test_decode_compares_of_lanes : reads [
    (0x0, 0b101_1_0_100000101_0011100000, .vcmpEq tm 2),
    (0x0, 0b101_1_0_100000101_0011100001, .vcmpNe tm 2),
    (0x0, 0b101_1_0_100000101_0011100010, .vcmpLt tm 2),
    (0x0, 0b101_1_0_100000101_0011100011, .vcmpLe tm 2),
    (0x0, 0b101_1_0_100000101_0011100100, .vcmpLtu tm 2),
    (0x0, 0b101_1_0_100000101_0011100101, .vcmpLeu tm 2),
    (0x0, 0b101_1_0_100000101_0011100110, .vcmpFeq tm 2),
    (0x0, 0b101_1_0_100000101_0011100111, .vcmpFlt tm 2),
    (0x0, 0b101_1_0_100000101_0011101000, .vcmpFle tm 2),
    (0x0, 0b101_1_0_100000101_0011101001, .vcmpFun tm 2),
    (0x0, 0b101_1_0_100000101_0010110110, .xcl tm 6)] = true := by decide +kernel

theorem test_decode_vm : reads [
    (0x0, 0b101_1_0_100000101_0000010000, .vmul tm),
    (0x0, 0b101_1_0_100000101_0000010001, .vmulh tm),
    (0x0, 0b101_1_0_100000101_0000010010, .vmulhu tm),
    (0x0, 0b101_1_0_100000101_0000010011, .vmad tm),
    (0x0, 0b101_1_0_100000101_0000010100, .vfmul tm),
    (0x0, 0b101_1_0_100000101_0000010101, .vffma tm),
    (0x0, 0b101_1_0_100000101_0000010110, .vffms tm),
    (0x0, 0b101_1_0_100000101_0000010111, .vfnma tm),
    (0x0, 0b101_1_0_100000101_0000011000, .vsin tm),
    (0x0, 0b101_1_0_100000101_0000011001, .vcos tm),
    (0x0, 0b101_1_0_100000101_0000011010, .vexp2 tm),
    (0x0, 0b101_1_0_100000101_0000011011, .vlog2 tm),
    (0x0, 0b101_1_0_100000101_0000011100, .vrcp tm),
    (0x0, 0b101_1_0_100000101_0000011101, .vrsqrt tm),
    (0x0, 0b101_1_0_100000101_0000011110, .vsqrt tm)] = true := by decide +kernel

theorem test_decode_vf : reads [
    (0x0, 0b101_1_0_100000101_0000100000, .vcvtF32I32 tm),
    (0x0, 0b101_1_0_100000101_0000100001, .vcvtI32F32 tm),
    (0x0, 0b101_1_0_100000101_0000100010, .vcvtF32Bf16 tm),
    (0x0, 0b101_1_0_100000101_0000100011, .vcvtBf16F32 tm),
    (0x0, 0b101_1_0_100000101_0000100100, .vcvtF32F16 tm),
    (0x0, 0b101_1_0_100000101_0000100101, .vcvtF16F32 tm),
    (0x0, 0b101_1_0_100000101_0000100110, .vcvtF32E4m3 tm),
    (0x0, 0b101_1_0_100000101_0000100111, .vcvtE4m3F32 tm),
    (0x0, 0b101_1_0_100000101_0000101000, .vcvtF32E5m2 tm),
    (0x0, 0b101_1_0_100000101_0000101001, .vcvtE5m2F32 tm),
    (0x0, 0b101_1_0_100000101_0000101010, .vcvtF32Fp4 tm),
    (0x0, 0b101_1_0_100000101_0000101011, .vcvtFp4F32 tm),
    (0x0, 0b101_1_0_100000101_0000101100, .vdecOx4 tm),
    (0x0, 0b101_1_0_100000101_0000101101, .vfscale tm)] = true := by decide +kernel

theorem test_decode_vl_vx : reads [
    (0x0, 0b101_1_0_100000101_0000110000, .vld tm),
    (0x0, 0b101_1_0_100000101_0000110001, .vst tm),
    (0x0, 0b101_1_0_100000101_0000110010, .vgld tm),
    (0x0, 0b101_1_0_100000101_0000110011, .vsct tm),
    (0x0, 0b101_1_0_100000101_0000111000, .shuf tm),
    (0x0, 0b101_1_0_100000101_0000111001, .shufLd tm),
    (0x0, 0b101_1_0_100000101_0000111010, .vredadd tm),
    (0x0, 0b101_1_0_100000101_0000111011, .vredmin tm),
    (0x0, 0b101_1_0_100000101_0000111100, .vredmax tm),
    (0x0, 0b101_1_0_100000101_0000111101, .vbcast tm)] = true := by decide +kernel

theorem test_decode_sa0 : reads [
    (0x0, 0b101_1_0_100000101_0101100000, .add tm),
    (0x0, 0b101_1_0_100000101_0101100001, .sub tm),
    (0x0, 0b101_1_0_100000101_0101100010, .and tm),
    (0x0, 0b101_1_0_100000101_0101100011, .or tm),
    (0x0, 0b101_1_0_100000101_0101100100, .xor tm),
    (0x0, 0b101_1_0_100000101_0101100101, .andn tm),
    (0x0, 0b101_1_0_100000101_0101100110, .shl tm),
    (0x0, 0b101_1_0_100000101_0101100111, .shr tm),
    (0x0, 0b101_1_0_100000101_0101101000, .sra tm),
    (0x0, 0b101_1_0_100000101_0101101001, .min tm),
    (0x0, 0b101_1_0_100000101_0101101010, .max tm),
    (0x0, 0b101_1_0_100000101_0101101011, .minu tm),
    (0x0, 0b101_1_0_100000101_0101101100, .maxu tm),
    (0x0, 0b101_1_0_100000101_0101101101, .clz tm),
    (0x0, 0b101_1_0_100000101_0101101110, .ctz tm),
    (0x0, 0b101_1_0_100000101_0101101111, .popc tm),
    (0x0, 0b101_1_0_100000101_0101110000, .bfx tm),
    (0x0, 0b101_1_0_100000101_0101110001, .bfxu tm),
    (0x0, 0b101_1_0_100000101_0101110010, .bfi tm),
    (0x0, 0b101_1_0_100000101_0101110011, .sel tm),
    (0x0, 0b101_1_0_100000101_0101110100, .lea tm),
    (0x0, 0b101_1_0_100000101_0101110101, .sext tm),
    (0x0, 0b101_1_0_100000101_0101110110, .zext tm),
    (0x0, 0b101_1_0_100000101_0101110111, .sbase tm)] = true := by decide +kernel

theorem test_decode_sa1 : reads [
    (0x0, 0b101_1_0_100000101_0110000000, .addB tm),
    (0x0, 0b101_1_0_100000101_0110000001, .subB tm),
    (0x0, 0b101_1_0_100000101_0110000010, .andB tm),
    (0x0, 0b101_1_0_100000101_0110000011, .orB tm),
    (0x0, 0b101_1_0_100000101_0110000100, .xorB tm),
    (0x0, 0b101_1_0_100000101_0110000101, .andnB tm),
    (0x0, 0b101_1_0_100000101_0110000110, .shlB tm),
    (0x0, 0b101_1_0_100000101_0110000111, .shrB tm),
    (0x0, 0b101_1_0_100000101_0110001000, .sraB tm),
    (0x0, 0b101_1_0_100000101_0110001001, .minB tm),
    (0x0, 0b101_1_0_100000101_0110001010, .maxB tm),
    (0x0, 0b101_1_0_100000101_0110001011, .minuB tm),
    (0x0, 0b101_1_0_100000101_0110001100, .maxuB tm),
    (0x0, 0b101_1_0_100000101_0110001101, .clzB tm),
    (0x0, 0b101_1_0_100000101_0110001110, .ctzB tm),
    (0x0, 0b101_1_0_100000101_0110001111, .popcB tm),
    (0x0, 0b101_1_0_100000101_0110010000, .bfxB tm),
    (0x0, 0b101_1_0_100000101_0110010001, .bfxuB tm),
    (0x0, 0b101_1_0_100000101_0110010010, .bfiB tm),
    (0x0, 0b101_1_0_100000101_0110010011, .selB tm),
    (0x0, 0b101_1_0_100000101_0110010100, .leaB tm),
    (0x0, 0b101_1_0_100000101_0110010101, .sextB tm),
    (0x0, 0b101_1_0_100000101_0110010110, .zextB tm),
    (0x0, 0b101_1_0_100000101_0110010111, .sbaseB tm)] = true := by decide +kernel

theorem test_decode_sm : reads [
    (0x0, 0b101_1_0_100000101_0110100000, .mul tm),
    (0x0, 0b101_1_0_100000101_0110100001, .mulh tm),
    (0x0, 0b101_1_0_100000101_0110100010, .mulhu tm),
    (0x0, 0b101_1_0_100000101_0110100011, .mad tm),
    (0x0, 0b101_1_0_100000101_0110100100, .div tm),
    (0x0, 0b101_1_0_100000101_0110100101, .divu tm),
    (0x0, 0b101_1_0_100000101_0110100110, .rem tm),
    (0x0, 0b101_1_0_100000101_0110100111, .remu tm)] = true := by decide +kernel

theorem test_decode_sl : reads [
    (0x0, 0b101_1_0_100000101_0110110000, .ldW tm),
    (0x0, 0b101_1_0_100000101_0110110001, .ldD tm),
    (0x0, 0b101_1_0_100000101_0110110010, .stW tm),
    (0x0, 0b101_1_0_100000101_0110110011, .stD tm),
    (0x0, 0b101_1_0_100000101_0110110100, .ldAcq tm),
    (0x0, 0b101_1_0_100000101_0110110101, .stRel tm),
    (0x0, 0b101_1_0_100000101_0110110110, .amoAdd tm),
    (0x0, 0b101_1_0_100000101_0110110111, .amoAnd tm),
    (0x0, 0b101_1_0_100000101_0110111000, .amoOr tm),
    (0x0, 0b101_1_0_100000101_0110111001, .amoMin tm),
    (0x0, 0b101_1_0_100000101_0110111010, .amoMax tm),
    (0x0, 0b101_1_0_100000101_0110111011, .amoSwap tm),
    (0x0, 0b101_1_0_100000101_0110111100, .amoCas tm),
    (0x0, 0b101_1_0_100000101_0110111101, .barInit tm),
    (0x80000000, 0b101_1_0_100000101_0110111101, .barRelease tm),
    (0x0, 0b101_1_0_100000101_0110111110, .barArr tm),
    (0x0, 0b101_1_0_100000101_0110111111, .barExp tm)] = true := by decide +kernel

theorem test_decode_scalar_compares : reads [
    (0x0, 0b101_1_0_100000101_0111100000, .cmpEq tm 2),
    (0x0, 0b101_1_0_100000101_0111100001, .cmpNe tm 2),
    (0x0, 0b101_1_0_100000101_0111100010, .cmpLt tm 2),
    (0x0, 0b101_1_0_100000101_0111100011, .cmpLe tm 2),
    (0x0, 0b101_1_0_100000101_0111100100, .cmpLtu tm 2),
    (0x0, 0b101_1_0_100000101_0111100101, .cmpLeu tm 2)] = true := by decide +kernel

theorem test_decode_cp_ga_ft : reads [
    (0x0, 0b101_1_0_100000101_1000101000, .copy tm 5),
    (0x0, 0b101_1_0_100000101_1000101001, .copyTr8 tm 5),
    (0x0, 0b101_1_0_100000101_1000101010, .copyTr16 tm 5),
    (0x0, 0b101_1_0_100000101_1000101011, .copyNd tm 5),
    (0x0, 0b101_1_0_100000101_1000101100, .rget tm 5),
    (0x0, 0b101_1_0_100000101_1000101101, .vatom tm 5),
    (0x0, 0b101_1_0_100000101_1001110011, .rputSt tm 19),
    (0x0, 0b101_1_0_100000101_1010010011, .rredSt tm 19),
    (0x0, 0b101_1_0_100000101_1010110011, .ratomSt tm 19),
    (0x0, 0b101_1_0_100000101_1001001011, .gather tm),
    (0x0, 0b101_1_0_100000101_1001001100, .scatter tm),
    (0x0, 0b101_1_0_100000101_1001011001, .fmtWr tm)] = true := by decide +kernel

theorem test_decode_ce_me : reads [
    (0x0, 0b101_1_0_100000101_1011000100, .cprog tm),
    (0x0, 0b101_1_0_100000101_1011000101, .cflow tm),
    (0x0, 0b101_1_0_100000101_1011000110, .cskew tm),
    (0x0, 0b101_1_0_100000101_1011000111, .cld tm),
    (0x0, 0b101_1_0_100000101_1011001000, .cst tm),
    (0x0, 0b101_1_0_100000101_1011001001, .mstart tm),
    (0x0, 0b101_1_0_100000101_1011001010, .mstartG tm),
    (0x0, 0b101_1_0_100000101_1011001011, .mzero tm),
    (0x0, 0b101_1_0_100000101_1011010100, .mdrain tm),
    (0x0, 0b101_1_0_100000101_1011010101, .mepi tm),
    (0x0, 0b101_1_0_100000101_1011010110, .mepiAcc tm),
    (0x0, 0b101_1_0_100000101_1011010111, .mepiRm tm)] = true := by decide +kernel

theorem test_decode_tt_co : reads [
    (0x0, 0b101_1_0_100000101_1011100010, .tileDecl tm),
    (0x0, 0b101_1_0_100000101_1011100011, .tileSub tm),
    (0x0, 0b101_1_0_100000101_1011100100, .tileRel tm),
    (0x0, 0b101_1_0_100000101_1011100101, .tileStat tm),
    (0x0, 0b101_1_0_100000101_1011101010, .chPost tm),
    (0x0, 0b101_1_0_100000101_1011101011, .chWait tm)] = true := by decide +kernel

theorem test_decode_ct : reads [
    (0x0, 0b101_1_0_100000101_1100000001, .jmp tm),
    (0x0, 0b101_1_0_100000101_1100000010, .jmpR tm),
    (0x0, 0b101_1_0_100000101_1100000011, .call tm),
    (0x0, 0b101_1_0_100000101_1100001011, .loopSet tm),
    (0x0, 0b101_1_0_100000101_1100001100, .loopBody tm),
    (0x0, 0b101_1_0_100000101_1100001101, .repeatOp tm),
    (0x0, 0b101_1_0_100000101_1100010010, .waitCycle tm),
    (0x1, 0b101_1_0_100000101_1100010010, .waitTdone tm),
    (0x2, 0b101_1_0_100000101_1100010010, .waitBarrier tm),
    (0x0, 0b101_1_0_100000101_1100010011, .yield tm),
    (0x0, 0b101_1_0_100000101_1100010100, .halt tm),
    (0x0, 0b101_1_0_100000101_1100010101, .trapOp tm),
    (0x0, 0b101_1_0_100000101_1100010110, .breakOp tm),
    (0x0, 0b101_1_0_100000101_1100010111, .eret tm),
    (0x0, 0b101_1_0_100000101_1100011000, .phase tm),
    (0x0, 0b101_1_0_100000101_1100011001, .fence tm),
    (0x0, 0b101_1_0_100000101_1100011010, .fenceQ tm),
    (0x0, 0b101_1_0_100000101_1100011011, .fenceSt tm),
    (0x0, 0b101_1_0_100000101_1100011100, .taskPost tm),
    (0x0, 0b101_1_0_100000101_1100011101, .taskDone tm),
    (0x0, 0b101_1_0_100000101_1100011110, .csrRd tm),
    (0x0, 0b101_1_0_100000101_1100011111, .csrWr tm),
    (0x0, 0b101_1_0_100000101_1100100000, .codeMark tm),
    (0x0, 0b101_1_0_100000101_1100100001, .timer tm)] = true := by decide +kernel

theorem test_decode_sy : reads [
    (0x0, 0b101_1_0_100000101_1100100010, .tlbInv tm),
    (0x0, 0b101_1_0_100000101_1100100011, .tlbFixMapped tm),
    (0x1, 0b101_1_0_100000101_1100100011, .tlbFixUnmappable tm),
    (0x2, 0b101_1_0_100000101_1100100011, .tlbFixMigrated tm),
    (0x0, 0b101_1_0_100000101_1100100100, .coreSave tm),
    (0x0, 0b101_1_0_100000101_1100100101, .coreLoad tm),
    (0x0, 0b101_1_0_100000101_1100100110, .lnkKey tm),
    (0x0, 0b101_1_0_100000101_1100100111, .lnkGet tm),
    (0x0, 0b101_1_0_100000101_1100101000, .linkDrain tm),
    (0x100, 0b101_1_0_100000101_1100101000, .linkRelock tm),
    (0x200, 0b101_1_0_100000101_1100101000, .linkSwitch tm),
    (0x300, 0b101_1_0_100000101_1100101000, .linkKdue tm),
    (0x400, 0b101_1_0_100000101_1100101000, .linkDownCommand tm),
    (0x0, 0b101_1_0_100000101_1100101001, .rtWr tm),
    (0x0, 0b101_1_0_100000101_1100101010, .chWr tm),
    (0x0, 0b101_1_0_100000101_1100101011, .lnkSvc tm),
    (0x0, 0b101_1_0_100000101_1100101100, .perfClr tm)] = true := by decide +kernel

/-- Words that the examples of the spec print (chapters 11 and 18). -/
theorem test_decode_worked_words : reads [(0, 0x07A109, .move (mv 0x1E8) 0x109), (0, 0x041150, .move (mv 0x104) 0x150),
    (0, 0x012401, .move (mv 0x049) 0x001), (0, 0x07CD0A, .move (mv 0x1F3) 0x10A), (0, 0x078308, .move (mv 0x1E0) 0x308),
    (0, 0x07A709, .move (mv 0x1E9) 0x309), (0, 0x07030A, .move (mv 0x1C0) 0x30A), (0, 0xF6789A, .immediateCarrier 0x16789A),
    (0, 0xE1C00D, .immediateCarrier 0x01C00D)] = true := by decide +kernel

/-- Reserved destinations decode to nothing (R310). -/
theorem test_decode_refuses : ([0x04000D, 0x0400F0, 0x0400F7, 0x040140, 0x040147, 0x040159, 0x0401A8, 0x040206, 0x0402CC, 0x0402EC,
    0x040300, 0x04032D] : List (BitVec 24)).all (fun w => decodeWord w == none) = true := by decide +kernel

/-! ## States of the tests -/

/-- Valid operand latches of slot 0. -/
def latches (ps : List (Nat × Line)) : Tab Latch :=
  ps.foldl (fun t p => tabPut t (latchKey 0 p.1) { val := p.2, valid := true }) []
/-- A context with a seat on a plane; its loop levels have bound 1. -/
def seat (sys : Bool) (sregs : Tab Dword) (ops : List (Nat × Line)) : Ctx :=
  { state := if sys then .system else .seated, seatedNow := true, modeSys := sys, sreg := sregs
    user := if sys then {} else { latches := latches ops }, sys := if sys then { latches := latches ops } else {} }
/-- The device after reset, but for context 0 of core 0 and data tag 0 of its instruction store. -/
def with0 (cx : Ctx) : State := { State.reset with cores := [(0, { ctxs := [(0, cx)], untagged := [(0, true)] })] }
/-- The same on the user plane and on the system plane; s4 is v. -/
def user (v : Dword) (ops : List (Nat × Line)) : State := with0 (seat false [(4, v)] ops)
def sys (v : Dword) (ops : List (Nat × Line)) : State := with0 (seat true [(4, v)] ops)
/-- A move from s4, and one from v4. -/
def s4 : Mv := mv 0x104
def v4 : Mv := mv 0x044

/-- The state after an instruction; the state before where it answers none. -/
def run (i : Instr) (s : State) : State :=
  match exec i s with
  | .next t => t
  | _ => s
/-- The context of the turn. -/
def cx0 (s : State) : Ctx := s.ctx 0 0
/-- A result latch of the user plane, as a scalar; the values that wait in its due buffer. -/
def latchOf (s : State) (k : Nat) : Dword := low64 (tabGet 0 (cx0 s).user.results k)
def dueOf (s : State) : List Dword := (cx0 s).user.due.map (fun r => low64 r.val)

/-! ## Single steps, with results worked out by hand from the rule named -/

/-- The result latch after a one-cycle scalar operation on s4 = v. -/
def alu (i : Mv → Instr) (a b : Line) (v : Dword) : Dword := latchOf (run (i s4) (user v [(0x150, a), (0x151, b)])) 0x148
/-- The value that a multiply operation of s4 = v leaves in the due buffer. -/
def mulu (i : Mv → Instr) (a b : Line) (v : Dword) : List Dword := dueOf (run (i s4) (user v [(0x154, a), (0x155, b)]))

theorem test_add_wraps : alu .add 0xFFFFFFFFFFFFFFFF 0 3 = 2 := by decide +kernel
theorem test_sub_is_o1_minus_v : alu .sub 5 0 7 = 0xFFFFFFFFFFFFFFFE := by decide +kernel
theorem test_sra_takes_six_bits : alu .sra 0x8000000000000000 0 0x41 = 0xC000000000000000 := by decide +kernel
theorem test_min_is_signed : alu .min 0xFFFFFFFFFFFFFFFF 0 1 = 0xFFFFFFFFFFFFFFFF := by decide +kernel
theorem test_clz_of_zero : alu .clz 0 0 0 = 64 := by decide +kernel
theorem test_bfx_extends : alu .bfx 0xF0 0 0x0304 = 0xFFFFFFFFFFFFFFFF := by decide +kernel
theorem test_bfi_inserts : alu .bfi 0xFFFF 0xA 0x0304 = 0xFFAF := by decide +kernel
theorem test_lea_scales : alu .lea 100 3 3 = 124 := by decide +kernel
theorem test_div_by_zero : mulu .div 7 0 0 = [0xFFFFFFFFFFFFFFFF] := by decide +kernel
theorem test_div_most_negative : mulu .div 0x8000000000000000 0 0xFFFFFFFFFFFFFFFF = [0x8000000000000000] := by decide +kernel
theorem test_rem_takes_sign_of_dividend : mulu .rem 0xFFFFFFFFFFFFFFF9 0 2 = [0xFFFFFFFFFFFFFFFF] := by decide +kernel
theorem test_mulh_is_signed : mulu .mulh 0xFFFFFFFFFFFFFFFF 0 2 = [0xFFFFFFFFFFFFFFFF] := by decide +kernel
theorem test_cmp_lt_writes_pair : (let t := run (.cmpLt s4 2) (user 1 [(0x150, 0xFFFFFFFFFFFFFFFF)]); ((cx0 t).readQ 5, (cx0 t).readQ 6))
    = (true, false) := by decide +kernel

/-- A line of 16 equal words, and one with two words of its own. -/
def splat (w : Word) : Line := mapLanes (fun _ => w)
/-- The user state with line x in v4 and operand latches of cluster 0. -/
def lanesOf (x : Line) (ops : List (Nat × Line)) : State :=
  with0 { seat false [] ops with vreg := [(4, x)], g := [(1, 0x0002)] }
/-- Lanes 0 and 1 of a result latch after an instruction whose move is guarded by g1 (lane 1 alone). -/
def va (i : Mv → Instr) (k : Nat) (x : Word) (ops : List (Nat × Line)) : Word × Word :=
  let t := run (i { v4 with g := 1 }) (lanesOf (splat x) ops)
  (lane (tabGet 0 (cx0 t).user.results k) 0, lane (tabGet 0 (cx0 t).user.results k) 1)
/-- Lane 1 of the value in the due buffer, and its flags. -/
def late (i : Mv → Instr) (x : Word) (ops : List (Nat × Line)) : List (Word × BitVec 6) :=
  (cx0 (run (i { v4 with g := 1 }) (lanesOf (splat x) ops))).user.due.map (fun r => (lane r.val 1, r.flags))

theorem test_vadd_masks_lanes : va .vadd 0x001 3 [(0x001, splat 0xFFFFFFFF)] = (0, 2) := by decide +kernel
theorem test_vadds_saturates : va .vadds 0x001 1 [(0x001, splat 0x7FFFFFFF)] = (0, 0x7FFFFFFF) := by decide +kernel
theorem test_vsel_tests_v : va .vsel 0x001 0 [(0x001, splat 5), (0x002, splat 9)] = (0, 9) := by decide +kernel
theorem test_vfadd_one_and_two : late .vfadd 0x3F800000 [(0x001, splat 0x40000000)] = [(0x40400000, 0)] := by decide +kernel
theorem test_vfmul_overflow_is_infinite : late .vfmul 0x7F7FFFFF [(0x005, splat 0x40000000)] = [(0x7F800000, 3)] := by decide +kernel
theorem test_vffma_rounds_once : late .vffma 0xBF800000 [(0x005, splat 0x3F800001), (0x006, splat 0x3F800001)]
    = [(0x34800000, 1)] := by decide +kernel
theorem test_vcvt_saturates_int : late .vcvtI32F32 0x4F800000 [(0x007, 0)] = [(0x7FFFFFFF, 8)] := by decide +kernel
theorem test_vcmp_lt_is_signed : (let t := run (.vcmpLt { v4 with g := 1 } 0) (lanesOf (splat 0) [(0x001, splat 0xFFFFFFFF)])
    ((cx0 t).readG 0 1, (cx0 t).readG 0 2)) = (0x0002, 0x0000) := by decide +kernel

/-- The state with all of S-space IMMEDIATE (Table 6.9). -/
def immediate (s : State) : State := { s with regions := [(0, 0xC000FFFFFF000000)] }
/-- A user state whose s4 holds an offset and whose IMMEDIATE memory holds bytes 1-8 at 0x40. -/
def memory (off : Dword) (ops : List (Nat × Line)) : State := (immediate (user off ops)).sWrite 0x40 [1, 2, 3, 4, 5, 6, 7, 8]

theorem test_ldw_lands_in_six : ((cx0 (run (.ldW s4) (memory 4 [(0x156, 0x40), (0x158, 5)]))).user.due.map
    (fun r => (r.due, r.dst, low64 r.val))) = [(6, .sreg 5, 0x08070605)] := by decide +kernel
theorem test_std_is_little_endian : ((run (.stD s4) (memory 8 [(0x156, 0x40), (0x157, 0x0102030405060708)])).sRead 0x46 4)
    = [7, 8, 8, 7] := by decide +kernel
theorem test_stw_leaves_neighbours : ((run (.stW s4) (memory 0 [(0x156, 0x40), (0x157, 0xAABBCCDDEEFF0011)])).sRead 0x40 8)
    = [0x11, 0x00, 0xFF, 0xEE, 5, 6, 7, 8] := by decide +kernel
theorem test_amo_min_is_signed : ((run (.amoMin s4) (memory 0xFFFFFFFF [(0x156, 0x40), (0x158, 0x80)])).sRead 0x40 5)
    = [0xFF, 0xFF, 0xFF, 0xFF, 5] := by decide +kernel
theorem test_misaligned_load_traps : (let cx := cx0 (run (.ldD s4) (memory 4 [(0x156, 0x40), (0x158, 5)]));
    (cx.trapCause, cx.modeSys, cx.trapInfo)) = (0x0A, true, 0x1030000000000044) := by decide +kernel
theorem test_bar_init_word : (let t := run (.barInit s4) (memory 3 [(0x156, 0x40)]); (t.sRead 0x40 8, t.tagged 0x40, t.tagged 0x44))
    = ([0, 0, 3, 0, 0, 0, 0, 0], true, true) := by decide +kernel

theorem test_jmp_goes : (cx0 (run (.jmp s4) (user 0x1234 []))).user.pc = 0x1234 := by decide +kernel
theorem test_jmp_r_is_relative : (cx0 (run (.jmpR s4) (user 0xFFFFFFFFFFFFFFFF []))).user.pc = 0x1FFF := by decide +kernel
theorem test_call_links : (let t := run (.call s4) (user 9 []); ((cx0 t).user.pc, latchOf t 0x14B)) = (9, 1) := by decide +kernel
theorem test_trap_delivers : (let cx := cx0 (run (.trapOp s4) (user 0x5A []));
    (cx.trapCause, cx.trapPc, cx.modeSys, cx.state, cx.trapInfo)) = (0x10, 0, true, .system, 0x15A0000000000000) := by decide +kernel
theorem test_eret_returns : (let cx := cx0 (run (.eret s4) (with0 { seat true [] [] with trapPc := 7 }));
    (cx.modeSys, cx.state, cx.user.pc)) = (false, .seated, 7) := by decide +kernel
theorem test_eret_is_system_only : (cx0 (run (.eret s4) (user 0 []))).trapCause = 0x0F := by decide +kernel
theorem test_csr_read_power_limit : latchOf (run (.csrRd s4) (user 0x0C [])) 0x14C = 0x1C00 := by decide +kernel
theorem test_operand_empty_traps : (cx0 (run (.add s4) (user 0 []))).trapCause = 0x04 := by decide +kernel
theorem test_code_mark_on_system_plane_halts : (cx0 (run (.codeMark s4) (sys 0 []))).sysHalted = true := by decide +kernel
theorem test_queue_takes_command : ((tabGet [] ((run (.copy s4 3) (user 0 [(0x240, 1), (0x241, 2), (0x242, 0)])).core 0).queues 20).map
    (fun c => (c.op, c.unit))) = [(.copy 1 2 0 0, 5)] := by decide +kernel
theorem test_bring_up_ends : (let t := run (.bringupComplete 5) { State.reset with sill := { state := .bringup } };
    (t.sill.state, t.session.state, t.fabid)) = (.ready, .scrubbed, 5) := by decide +kernel

/-! ## Assembly: the worked examples of chapters 11, 13, 14 and 17 -/

/-- A shared port, a cluster-local port, and operands of the examples. -/
def pShared (n : Nat) : PortRef := { cluster := none, port := n }
def pLocal (k n : Nat) : PortRef := { cluster := some k, port := n }
def aPort (p : PortRef) : FormArg := .val (.port p) false false
def aLit (n : Nat) : FormArg := .val (.lit (.num n)) false false

/-- The worked bundle of R301. -/
theorem test_worked_bundle_is_assembled :
    assembleCode [] [.bundle [
      .move { src := .lit (.num 0x123456789A), dst := pShared 0x109 },
      .move { guard := some { vector := true, n := 2 }, src := .port (pShared 0x104), dst := pLocal 3 0x047 },
      .move { src := .lit (.neg (.num 3)), dst := pShared 0x10A },
      .move { src := .port (pLocal 5 0x041), e := true, dst := pLocal 5 0x042 }]]
    = some [[0xF6789A, 0xE091A2, 0x07A109, 0x441047, 0x07750A, 0x110442, 0, 0]] := by decide +kernel

/-- Bundle 13 of chapter 17: an op form of the ce unit with an IMM and an IMMX literal. -/
theorem test_mstart_is_assembled :
    assembleCode [] [.bundle [.form { trig := pShared 0x2C9
                                      args := [aPort (pShared 0x10A), aLit 0x80000, aPort (pShared 0x10C), aLit 0x0100000000080000] }]]
    = some [[0xE80000, 0xE80000, 0xE00000, 0xE04000, 0x042AC0, 0x0782C1, 0x0432C2, 0x06E6C9]] := by decide +kernel

/-- An op form of a vector multiply-add in cluster 2. -/
def exForm (d a : Nat) (b : FormArg) (v : Nat) : LineItem :=
  .form { trig := pLocal 2 0x015, dest := some (pLocal 2 (0x040 + d))
          args := [aPort (pLocal 2 (0x040 + a)), b, aPort (pLocal 2 (0x040 + v))] }

/-- Lines 20 to 24 of the example of R303, counted from 0. -/
def exLines : List CodeLine :=
  [.bundle [.move { src := .port (pShared 0x103), dst := pShared 0x104 }],
    .bundle [.move { src := .lit (.neg (.num 1)), dst := pLocal 6 0x040 }],
    .bundle [exForm 5 1 (.val (.port (pLocal 2 0x042)) false true) 3, .move { src := .lit (.num 5), dst := pShared 0x106 }],
    .bundle [], .bundle []]

/-- The example of R303: operand moves fall back, a held latch is kept, result moves append bundles. -/
theorem test_op_forms_spread_over_bundles :
    (assembleCode [] (exLines ++ [.bundle [exForm 6 8 .keep 7]])).map (fun bs => bs.map (fun ws => ws.getD 2 0))
    = some [slotWord 0 false false 0x041 0x005, slotWord 0 false true 0x042 0x006, slotWord 0 false false 0x043 0x015,
      slotWord 0 false false 0x048 0x005, 0, slotWord 0 false false 0x047 0x015, slotWord 0 false false 0x003 0x045, 0, 0,
      slotWord 0 false false 0x003 0x046] := by decide +kernel

/-- Written one bundle earlier, its operand move needs a slot that the first trigger holds (R303). -/
theorem test_op_form_without_its_slot_fails :
    assembleCode [] (exLines.dropLast ++ [.bundle [exForm 6 8 .keep 7]]) = none := by decide +kernel

/-- `amo.add.w.rel.die s7 = s3, 1` moves the control word 0x2287 (R365). -/
theorem test_control_word_of_an_atomic :
    controlWord { trig := pShared 0x1B6, dest := some (pShared 0x107), args := [aPort (pShared 0x103), aLit 1]
                  sfx := { word := true, ord := 2, scope := some 2 } } = some 0x2287 := by decide +kernel

/-- The queue declaration of R309: one relocation of 52 bits at offset 0x70. -/
theorem test_external_symbol_leaves_a_relocation :
    (sectionOf [] 4 32 4 [(3, QueueDecl.fields { q := 3, base := .num 0x02801000, lines := .num 2, log2d := .num 6
                                                 log2ov := .num 10, ovva := .name ['x'], quota := .num 900 })]).map (·.2)
    = some [{ sect := 4, lsb := 0, width := 52, off := 0x70, sym := ['x'], addend := 0 }] := by decide +kernel

/-! ## States that meet the hypotheses of the statements, clause by clause -/

/-- Every operand port of slot 0, with value 0. -/
def allPorts : List (Nat × Line) :=
  (rangeFrom 1 12 ++ rangeFrom 0x150 9 ++ rangeFrom 0x240 3 ++ rangeFrom 0x248 3 ++ [0x258] ++ rangeFrom 0x2C0 3 ++ rangeFrom 0x2D0 3
    ++ [0x2E0, 0x2E1, 0x2E8, 0x2E9] ++ rangeFrom 0x308 3 ++ [0x310, 0x311]).map (fun p => (p, 0))
/-- A context whose operand latches are all valid; those listed hold values of their own, s4 is v and v4 is x. -/
def armedCtx (onSys : Bool) (v : Dword) (ops : List (Nat × Line)) : Ctx := seat onSys [(4, v)] (allPorts ++ ops)
def userR (v : Dword) (ops : List (Nat × Line)) : State := with0 (armedCtx false v ops)
def sysR (v : Dword) (ops : List (Nat × Line)) : State := with0 (armedCtx true v ops)
/-- A tile step of context 0 of core 0 that reads and stages queue entries, of a kernel with one stage. -/
def step0 : TileStep :=
  { id := 1, task := 1, inst := 0, die := none, rank := 0, counters := [], state := .running, emark := false, core := some 0, ctx := some 0
    since := 0, groupCmds := 0, staging := [], reads := [(0, some { lines := [7, 8], vmask := 3, cursor := 0 })], lastMask := 0
    image := none, saved := none }
def stage0 : Stage := { inq := [some 0, some 1, none, none], outq := [some 2, none, none, some 3] }
/-- The user state with that tile step. -/
def working (v : Dword) (ops : List (Nat × Line)) : State :=
  { State.reset with
    cores := [(0, { ctxs := [(0, { armedCtx false v ops with step := some 1 })], untagged := [(0, true)], stage := some 0 })]
    steps := [step0], kernel := { state := .running, nstage := 1, stages := [(0, stage0)] } }

theorem witness_PlainMovesCopy : (([0x001, 0x00C, 0x040, 0x07F, 0x0F1, 0x0F6, 0x100, 0x13F, 0x141, 0x146, 0x150, 0x158, 0x240, 0x2E9, 0x311] :
    List (BitVec 10)).all (fun d => d != 0 && isPlainDest d && (user 5 []).canMove s4 d && (user 5 []).canMove v4 d)
    && (user 5 []).canMove { s4 with h := true } 0x150 && (user 5 []).canMove s4 0 && (user 5 []).loopsFull) = true := by decide +kernel

/-- A bundle whose carriers 0 to 2 hold values. -/
def carried : Site := (user 0 []).site 0 0 (bundleSlots 0xE00003E00002E00001)
theorem witness_PlainMovesCopy_immediates : (srcKind 0x1E0 = .imm 0 1 ∧ srcKind 0x1EE = .imm 6 2 ∧ srcKind 0x1BD = .imm 5 3)
    ∧ (List.map (tabGet none carried.carriers) [0, 1, 2] = [some 1, some 2, some 3])
    ∧ (List.map (fun n => low64 ((user 0 []).source carried 7 n)) [0x1C7, 0x1D7, 0x1E2, 0x1E9, 0x1B8]
        = [7, 0xFFFFFFFFFFFFFFF7, 3, 0x0000000000600002, 0x00000C0000400001])
    ∧ (user 0 []).canRun = true ∧ (cx0 (run (.move (mv 0x1E0) 0x109) (user 0 []))).trapCause = 0x02
    ∧ (cx0 (run (.discardMove (mv 0x1EE)) (user 0 []))).trapCause = 0x02
    ∧ (userR 0 []).guardOpen (mv 0x1BD) 0x160 = true ∧ (cx0 (run (.add (mv 0x1BD)) (userR 0 []))).trapInfo = 0x10000000000001BD
    ∧ (mv 0x104).g = 0 := by decide +kernel
theorem witness_IdleSlotsDoNothing : ((user 0 []).canRun && (user 0 []).loopsFull && s4.s != 0 && (srcKind s4.s).plain
    && !(user 0 []).guardOpen { s4 with g := 1 } 0x160 && !s4.h) = true
    ∧ triggerOf (.add { s4 with g := 1 }) = some ({ s4 with g := 1 }, 0x160, opAdd) := ⟨by decide +kernel, rfl⟩

theorem witness_QueueReadsMove : (∃ v mask after, (working 0 []).queueRead 0 0 0 = .line v mask after) ∧
    ([0x20#7 ++ 0#2, 0x54#7 ++ 0#2, 0x21#7 ++ 0#2, 0x55#7 ++ 0#2].all (fun s => (working 0 []).canRun && (working 0 []).loopsFull
      && ((working 0 []).inq 0 0).isSome && (working 0 []).guardOpen (mv s) 0x102 && isPlainDest 0x102 && !(mv s).h)) = true :=
  ⟨⟨_, _, _, rfl⟩, by decide +kernel⟩

/-- The trigger is ready on the user plane with every port of a list. -/
def readyOn (m : Mv) (ps : List Nat) (needs : List Nat) : Bool := ps.all (fun p => (userR 1 []).ready m (BitVec.ofNat 10 p) needs)

theorem witness_ScalarAluComputes : (readyOn s4 (rangeFrom 0x160 24) [0x150, 0x151] && readyOn s4 (rangeFrom 0x180 24) [0x152, 0x153]) = true
    ∧ (1 : Dword) ≠ 0 := by decide +kernel
theorem witness_ScalarComparesWriteQPair : (readyOn s4 (rangeFrom 0x1E0 6) [0x150] && 7#4 ++ (2#2 ++ 5#4) == 0x1E5#10) = true
    ∧ (2#2).toNat < 3 := by decide +kernel
theorem witness_ScalarMultiplyComputes : readyOn s4 (rangeFrom 0x1A0 8) [0x154, 0x155] = true := by decide +kernel
theorem witness_VectorAluComputes : (readyOn v4 (rangeFrom 0x080 24) [0x001, 0x002] && readyOn v4 (rangeFrom 0x098 24) [0x003, 0x004]) = true := by
  decide +kernel
theorem witness_VectorComparesWriteGPair : (readyOn v4 (rangeFrom 0x0E0 10) [0x001] && 3#4 ++ (2#2 ++ 9#4) == 0x0E9#10) = true
    ∧ (2#2).toNat < 3 := by decide +kernel
theorem witness_VectorMultiplyComputes : readyOn v4 (rangeFrom 0x010 8) [0x005, 0x006] = true := by decide +kernel

theorem witness_FloatingResultsRoundOnce : (fp32.round .rne false (.fin false 1 200)).2.getLsbD 1 = true
    ∧ (fp4.round .rne false (.fin true 100 0)).2.getLsbD 1 = true ∧ (e4m3.round .rtz false (.fin true 3 (-12))).2.getLsbD 1 = false
    ∧ FVal.isNumber (dec32 0x00000001) = true ∧ FVal.isNumber (dec32 0x7F7FFFFF) = true := by decide +kernel

/-- The mode word of vf with field POS. -/
def pos (p : Nat) : List (Nat × Line) := [(0x007, BitVec.ofNat 512 (16 * p))]
/-- Format entry 0 with its block size field at 3. -/
def badEntry : State := with0 { armedCtx false 0 [] with fmt := [(0, 0x0C000000)] }
theorem witness_FloatingResultsRoundOnce_ends : (fp32.round .rtz false (.fin true 1 200)) = (0xFF7FFFFF, 3)
    ∧ (fp16.round .rup false (.fin false 1 100)) = (0x7C00, 3) ∧ (e5m2.round .rne true (.fin false 1 100)) = (0x7B, 3)
    ∧ (fp32.round .rne false (.fin false 3 (-150))) = (2, 5) ∧ (fp32.round .rne false (.fin false 1 (-149))) = (1, 0)
    ∧ f32Add 0x3F800000 0xBF800000 = (0, 0) ∧ f32Add 0x80000000 0x80000000 = (0x80000000, 0)
    ∧ f32Sub 0x7F800001 0x3F800000 = (0x7FC00000, 8) ∧ f32Mul 0x3F800000 0x7FC00000 = (0x7FC00000, 0)
    ∧ (dec32 0x7FC00001).isNan = true ∧ FVal.isNumber (dec32 0x80000000) = true := by decide +kernel
theorem witness_ConversionsRound : (readyOn v4 (rangeFrom 0x020 14) [0x007]
    && ([0x022, 0x023, 0x024, 0x025].all (fun d => (userR 0 (pos 1)).ready v4 d [0x007] && (userR 0 (pos 2)).ready v4 d [0x007])
      && [0x026, 0x027, 0x028, 0x029].all (fun d => (userR 0 (pos 3)).ready v4 d [0x007] && (userR 0 (pos 4)).ready v4 d [0x007])
      && fieldPos (userR 0 (pos 1)) == 1 && fieldPos (userR 0 (pos 2)) == 2 && fieldPos (userR 0 (pos 3)) == 3
      && fieldPos (userR 0 (pos 4)) == 4 && fieldPos (userR 0 (pos 7)) == 7 && !fmtPending (userR 0 []) && fmtEntry (userR 0 []) == 0)
    && badEntry.ready v4 0x02C [0x007] && !fmtPending badEntry && (fmtEntry badEntry).toNat / 2 ^ 26 % 4 == 3) = true := by decide +kernel
theorem witness_SpecialFunctionsCompute : readyOn v4 (rangeFrom 0x018 7) [] = true := by decide +kernel
theorem witness_CrossLaneOperationsMove : (readyOn v4 [0x03D] [0x00B] && readyOn v4 (rangeFrom 0x0B0 8) [] && readyOn v4 [0x038] []
    && !(userR 1 []).hereCtx.isEmpty (vEmptyKey 7 63) && shufClusters (userR 1 []) v4 == [0]
    && (vxO2 (userR 1 []) 0).valid && (user 1 []).ready v4 0x038 [] && !(vxO2 (user 1 []) 0).valid) = true := by decide +kernel
theorem witness_ShuffleLoadWritesInactiveBank : readyOn v4 [0x039] [0x00B] = true := by decide +kernel
/-- vx.o1 asks for a reduction over the clusters of type 2, and every cluster's vx.o2 is valid. -/
def across : State :=
  let cx := armedCtx false 0 [(0x00B, 6)]
  with0 { cx with user := { latches := cx.user.latches ++ (rangeFrom 1 7).map (fun c => (latchKey c 0x00C, { valid := true })) } }
theorem witness_ReductionsFoldLanes : (readyOn v4 [0x03A, 0x03B, 0x03C] [0x00B] && ctl0 (userR 1 []) == 0
    && ctl0 (userR 1 [(0x00B, 3)]) == 3 && (userR 1 [(0x00B, 3)]).ready v4 0x03A [0x00B]
    && across.ready v4 0x03C [0x00B] && ctl0 across == 6 && (lane (across.operand 0x00B) 0).getLsbD 2
    && (rangeFrom 0 8).all (fun c => (vxO2 across c).valid)) = true := by decide +kernel

/-- IMMEDIATE memory, a base in sl.o1, a control word in sl.o3 and an offset in s4. -/
def acc (base ctl : Nat) (off : Dword) : State := immediate (userR off [(0x156, BitVec.ofNat 512 base), (0x158, BitVec.ofNat 512 ctl)])
/-- The same where every address is PHASED. -/
def phased (base ctl : Nat) (off : Dword) : State := userR off [(0x156, BitVec.ofNat 512 base), (0x158, BitVec.ofNat 512 ctl)]
/-- An access of size n of port d, with its checks. -/
def okAt (s : State) (d : BitVec 10) (n : Nat) (ordered : Bool) : Bool :=
  s.ready s4 d slUsed && calm s && addrOk s (offAddr s s4 d) n ordered && !s.anyTagged (offAddr s s4 d) n && !s.anyPoison (offAddr s s4 d) n

theorem witness_LoadsReadSspace : ([(0x1B0#10, 4), (0x1B1, 8), (0x1B4, 8)].all (fun p =>
    okAt (acc (0x7FFFF8 - p.2) 5 8) p.1 p.2 true && ownSlice (acc 0 5 0) (offAddr (acc (0x7FFFF8 - p.2) 5 8) s4 p.1)
      && slSize (acc 0 5 0) == 8 && slCtl (acc 0 5 0) / 4096 % 8 == 0
      && okAt (acc 0x7FFFF8 5 8) p.1 p.2 true && !ownSlice (acc 0 5 0) (offAddr (acc 0x7FFFF8 5 8) s4 p.1)
      && !(acc 0 5 0).hereCtx.isEmpty (sEmptyKey (sKey false 5)))) = true := by decide +kernel

/-- A phase write buffer of 8,192 lines. -/
def fullBuffer : State :=
  { phased 0x100000 0 0 with cores := [(0, { (phased 0x100000 0 0).core 0 with
      pwb := (rangeFrom 0 8192).map (fun i => (i, some { mask := 1, data := 0, poison := false })) })] }
theorem length_rangeFrom (a n : Nat) : (rangeFrom a n).length = n := by
  induction n generalizing a with
  | zero => rfl
  | succ n ih => simp [rangeFrom, ih]
theorem tabGet_past (v : Option PwbLine) (a n k : Nat) (h : a + n ≤ k) : tabGet none ((rangeFrom a n).map (fun i => (i, v))) k = none := by
  induction n generalizing a with
  | zero => rfl
  | succ n ih =>
    have : a ≠ k := by omega
    simpa [rangeFrom, tabGet, this] using ih (a + 1) (by omega)
theorem witness_StoresWriteSspace_full : 8192 ≤ (fullBuffer.core 0).occ ∧ ((fullBuffer.core 0).pwbLine (0x100000 / 64)).isSome = false := by
  refine ⟨?_, ?_⟩
  · show 8192 ≤ List.length (List.map _ _)
    simp [length_rangeFrom]
  · show (tabGet none (List.map _ _) (0x100000 / 64)).isSome = false
    rw [tabGet_past _ _ _ _ (by decide)]; rfl
theorem witness_StoresWriteSspace : ([(0x1B2#10, 4), (0x1B3, 8)].all (fun p =>
    okAt (acc 0x40 0 8) p.1 p.2 false && !(acc 0x40 0 8).phased 0x48 && ownSlice (acc 0x40 0 8) 0x48 && offAddr (acc 0x40 0 8) s4 p.1 == 0x48
      && okAt (acc 0x800000 0 8) p.1 p.2 false && !ownSlice (acc 0x800000 0 8) 0x800008
      && okAt (phased 0x40 0 8) p.1 p.2 false && (phased 0x40 0 8).phased 0x48 && (phased 0x40 0 8).hereCtx.late.isEmpty
      && decide (((phased 0x40 0 8).core 0).occ < 8192)
      && okAt fullBuffer p.1 p.2 false && fullBuffer.phased 0x100000)) = true := by decide +kernel

theorem witness_AtomicsReadAndWrite : ((rangeFrom 0x1B6 7).all (fun d => [0x005, 0x105, 0x205, 0x4305, 0x085].all (fun ctl =>
    [0x7FFFF8, 0x800000].all (fun a => let s := acc a ctl 3
      s.ready s4 (BitVec.ofNat 10 d) slUsed && calm s && decide (slCtl s / 4096 % 8 ≤ 4) && addrOk s (baseAddr s) (slSize s) true
        && !s.anyTagged (baseAddr s) (slSize s) && ownSlice s (baseAddr s) == (a == 0x7FFFF8)
        && !s.hereCtx.isEmpty (sEmptyKey (sKey false 5)))))
    && [0x005, 0x105, 0x205, 0x4305].map (fun ctl => slCtl (acc 0 ctl 0) / 256 % 4) == [0, 1, 2, 3]) = true := by decide +kernel

/-- A barrier word at 0x40: PEND 2, PH 1, EXP 3, ARR 1. -/
def barrier (off : Dword) : State := (((acc 0x40 0 off).sWrite 0x40 [1, 0, 3, 0x80, 2, 0, 0, 0]).setTag 16 true).setTag 17 true
theorem witness_ReleasesBegin : (okAt (acc 0x40 0x4000 0) 0x1B5 8 true && decide (slCtl (acc 0x40 0x4000 0) / 4096 % 8 = 4)
    && (barrier 0).ready s4 0x1BE slUsed && addrOk (barrier 0) (baseAddr (barrier 0)) 8 true && calm (barrier 0)
    && (barrier 0).tagged (baseAddr (barrier 0)) && (barrier 0).tagged (baseAddr (barrier 0) + 4)
    && (acc 0x40 0 0).ready s4 0x1BE slUsed && !(acc 0x40 0 0).tagged 0x40) = true := by decide +kernel
theorem witness_BarrierOperationsChangeWord : ([0, 0x80000000].all (fun v => (barrier v).ready s4 0x1BD [0x156] && calm (barrier v)
      && addrOk (barrier v) (baseAddr (barrier v)) 8 true && ownSlice (barrier v) (baseAddr (barrier v)))
    && !((barrier 0).movedVal s4 0x1BD).getLsbD 31 && ((barrier 0x80000000).movedVal s4 0x1BD).getLsbD 31
    && (barrier 0).ready s4 0x1BF [0x156] && (barrier 0).tagged 0x40 && (barrier 0).tagged 0x44 && baseAddr (barrier 0) == 0x40
    && barHere (barrier 0) == barOf 2 true 3 1 && (acc 0x40 0 0).ready s4 0x1BF [0x156] && !(acc 0x40 0 0).tagged 0x40) = true := by
  decide +kernel

theorem witness_AddressChecksTrap : ((rangeFrom 0x1B0 16).all (fun d =>
      [acc 0x40000000 0 0, acc 0x3FFFFFFF 0 0, phased 0x40 0 0, barrier 0].all (fun s => s.ready s4 (BitVec.ofNat 10 d) slUsed))
    && offAddr (acc 0x40000000 0 0) s4 0x1B0 == 2 ^ 30 && offAddr (acc 0x3FFFFFFF 0 0) s4 0x1B0 == 2 ^ 30 - 1
    && baseAddr (acc 0x3FFFFFFF 0 0) % 4 == 3 && slCtl (acc 0 0 0) / 4096 % 8 == 0 && (phased 0x40 0 0).phased 0x40
    && addrOk (barrier 0) 0x40 8 true && (barrier 0).anyTagged 0x40 4) = true := by decide +kernel

/-- A vector access: base lanes in vl.o1, offsets in v4. -/
def vacc (base : Word) (x : Line) (imm : Bool) : State :=
  let s := with0 { armedCtx false 0 [(0x008, splat base), (0x00A, 5)] with vreg := [(4, x)] }
  if imm then immediate s else s
/-- Offsets 0, 4, ..., 60. -/
def ramp : Line := mapLanes (fun l => BitVec.ofNat 32 (4 * l))
/-- The buffer holds 8,191 lines. -/
def nearlyFull (s : State) : State :=
  { s with cores := [(0, { s.core 0 with pwb := (rangeFrom 0 8191).map (fun i => (i, some { mask := 1, data := 0, poison := false })) })] }
/-- Cause, AUX and address of the trap that an instruction takes. -/
def trapOf (i : Instr) (s : State) : Nat × Nat × Nat :=
  let cx := cx0 (run i s)
  (cx.trapCause.toNat, bits cx.trapInfo.toNat 59 52, bits cx.trapInfo.toNat 51 0)
/-- Offsets of lanes 0 and 1 alone, a page apart. -/
def apart : Line := mapLanes (fun l => if l = 1 then 0x10000 else 0)
theorem witness_AddressChecksTrap_lines : (([0x030, 0x031] : List (BitVec 10)).all (fun d =>
      [vacc 0x40000000 0 true, vacc 0x3FFFFFFF 0 true, (vacc 0x40 0 true).setTag 31 true].all (fun s => s.ready v4 d vlUsed && s.moveMask v4 d != 0))) = true
    ∧ trapOf (.vld v4) (vacc 0x40000000 0 true) = (0x0B, 6, 0x40000000) ∧ trapOf (.vld v4) (vacc 0x3FFFFFFF 0 true) = (0x0A, 6, 0x3FFFFFFF)
    ∧ trapOf (.vst v4) ((vacc 0x40 0 true).setTag 31 true) = (0x07, 6, 0x40) := by decide +kernel
theorem witness_AddressChecksTrap_lanes : trapOf (.vgld v4) (vacc 0x3FFFFFC4 ramp true) = (0x0B, 2, 0x40000000)
    ∧ trapOf (.vsct v4) (vacc 0x3FFFFFC6 ramp true) = (0x0A, 2, 0x3FFFFFC6)
    ∧ trapOf (.vsct v4) ((vacc 0x40 ramp true).setTag 31 true) = (0x07, 2, 0x7C)
    ∧ ((vacc 0x40 ramp true).moveMask v4 0x033).getLsbD 15 = true := by decide +kernel
theorem witness_AddressChecksTrap_full : trapOf (.vsct v4) (nearlyFull (vacc 0x100000 apart false)) = (0x0C, 2, 0x110000)
    ∧ (cx0 (run (.vsct v4) (nearlyFull (vacc 0x100000 0 false)))).modeSys = false := by decide +kernel
theorem witness_VectorAccessesMoveLanes : (([0x030, 0x031, 0x032, 0x033] : List (BitVec 10)).all (fun d =>
      [vacc 0x7FFFC0 (if d.toNat % 4 < 2 then 0 else ramp) true, vacc 0x7FFFC0 (if d.toNat % 4 < 2 then 0 else ramp) false,
       vacc 0x800000 (if d.toNat % 4 < 2 then 0 else ramp) true].all (fun s =>
        s.ready v4 d vlUsed && calm s && addrOk s (lineBase s v4 d) 64 false
          && (laneAddrs s v4 d (gatherAddr s v4 d)).all (fun p => addrOk s p.2 4 false && !s.anyTagged p.2 4 && !s.anyPoison p.2 4)
          && (laneAddrs s v4 d (gatherAddr s v4 d)).length == 16 && !s.hereCtx.isEmpty (vEmptyKey 0 5)))
    && ownSlice (vacc 0 0 true) 0x7FFFFC && !ownSlice (vacc 0 0 true) 0x800000 && !(vacc 0 0 true).phased 0x7FFFC0
    && (vacc 0 0 false).phased 0x7FFFC0 && decide (((vacc 0 0 false).core 0).occ + 16 ≤ 8192)
    && gatherAddr (vacc 0x7FFFC0 ramp true) v4 0x032 15 == 0x7FFFFC) = true := by decide +kernel

theorem witness_CopyTriggersPush : ([0#3, 7#3].all (fun n => let s := userR 0 []
      s.fires s4 (0x8#4 ++ (n ++ 0#3)) opCopy && s.fires s4 (0x8#4 ++ (n ++ 1#3)) opCopyTr8 && s.fires s4 (0x8#4 ++ (n ++ 2#3)) opCopyTr16
        && s.fires s4 (0x8#4 ++ (n ++ 3#3)) opCopyNd && s.fires s4 (0x8#4 ++ (n ++ 4#3)) opRget && s.fires s4 (0x8#4 ++ (n ++ 5#3)) opVatom)
    && [0#5, 31#5].all (fun t => let s := userR 0 []
      s.fires s4 (0x13#5 ++ t) opRputSt && s.fires s4 (0x15#5 ++ t) opRatomSt
        && (userR 0 [(0x242, 3)]).fires s4 (0x14#5 ++ t) opRredSt)) = true := by decide +kernel

/-- Tile 0 of core 0 is declared and EMPTY; channel 0 is a sender and channel 1 a receiver of context 0. -/
def furnished (v : Dword) (ops : List (Nat × Line)) : State :=
  let s := userR v ops
  { s with
    cores := [(0, { s.core 0 with tiles := [(0, { v := true, pitch := 1, rows := 1, rbytes := 64 })] })]
    chans := [(0, { kind := 1, depth := 1, elines := 1 }), (1, { kind := 2, depth := 1, elines := 1 })] }
/-- The same tile, READY. -/
def readyTile (v : Dword) : State :=
  let s := furnished v []
  { s with cores := [(0, { s.core 0 with tiles := [(0, { s.tile 0 0 with state := .ready })] })] }
/-- Geometry of a tile: pitch 64, 1 row of 64 bytes. -/
def geometry : List (Nat × Line) := [(0x2E0, 0x4000000000), (0x2E1, 0x400001)]
theorem witness_EngineTriggersPush : (let s := furnished 0 []
    s.fires s4 0x24B opGather && s.fires s4 0x24C opScatter && s.fires s4 0x259 opFmtWr && s.fires s4 0x2C4 opCprog
      && s.fires s4 0x2C5 opCflow && s.fires s4 0x2C6 opCskew && (furnished 0x200000 []).fires s4 0x2C7 opCld
      && (furnished 0x200000 []).fires s4 0x2C8 opCst && s.fires s4 0x2CB opMzero && s.fires s4 0x2D4 opMdrain
      && s.fires s4 0x2D5 opMepi && s.fires s4 0x2D6 opMepiAcc && s.fires s4 0x2D7 opMepiRm && s.fires s4 0x2C9 opMstart
      && s.fires s4 0x2CA opMstartG && (furnished 0 geometry).fires s4 0x2E2 opTileDecl && s.fires s4 0x2E3 opTileSub
      && (readyTile 0).fires s4 0x2E4 opTileRel && !s.fires s4 0x2E4 opTileRel && s.fires s4 0x2EA opChPost && (furnished 1 []).fires s4 0x2EB opChWait) = true := by decide +kernel
theorem witness_EngineTriggersPush_released : ((furnished 0 []).ready s4 0x2E4 [] && calm (furnished 0 []) && (furnished 255 []).ready s4 0x2E4 []
    && (cx0 (run (.tileRel s4) (furnished 0 []))).block == .tileReady 0 && (cx0 (run (.tileRel s4) (furnished 255 []))).trapCause == 0x02) = true := by
  decide +kernel
theorem witness_TileStatReadsEntry : ((furnished 0 []).ready s4 0x2E5 [] && ((furnished 0 []).tile 0 0).v
    && (furnished 255 []).ready s4 0x2E5 [] && !((furnished 255 []).tile 0 255).v) = true := by decide +kernel

theorem witness_BranchesGo : ((userR 0 []).canMove s4 0x301 && (userR 0 []).canMove s4 0x302 && (userR 0 []).canMove s4 0x303
    && (sysR 0 []).canMove s4 0x301) = true := by decide +kernel

/-- A kernel of 4 untagged bundles; loop level 0 is active from bundle 0 to bundle 1 with bound 2, or not at all. -/
def looping (active : Bool) (v : Dword) (ops : List (Nat × Line)) : State :=
  let cx := armedCtx false v ops
  { State.reset with
    cores := [(0, { ctxs := [(0, { cx with loops := if active then [(0, 2 ||| (1 <<< 51))] else [] })]
                    untagged := (rangeFrom 0 4).map (fun i => (i, true)) })]
    kernel := { state := .running, nbund := 4 } }
theorem witness_LoopOperationsSetLevel : (let s := looping false 0 [(0x308, 5)]; let z := looping false 5 []
    let b := looping false 0 [(0x308, 0x3FFFFFF)]; let r := looping false 2 [(0x308, 0x100)]
    s.ready s4 0x30B [0x308] && z.ready s4 0x30B [0x308] && !s.hereSys && loopFits s 0 5 && !loopFits z 5 0
      && b.ready s4 0x30C [0x308, 0x309, 0x30A] && !loopFits b 0 (0x3FFFFFF <<< 38)
      && (looping true 0 [(0x308, 0x2000)]).ready s4 0x30C [0x308, 0x309, 0x30A]
      && loopFits (looping true 0 []) 0 (2 ||| (1 <<< 51))
      && r.ready s4 0x30D [0x308] && loopFits r 0 (2 ||| (1 <<< 37) ||| (1 <<< 38) ||| (1 <<< 51))
      && z.ready s4 0x30D [0x308] && (z.operandVal 0x308).extractLsb' 8 6 == 0
      && (sysR 0 []).canMove s4 0x30B && (sysR 0 []).hereSys) = true
    ∧ triggerOf (.loopSet s4) = some (s4, 0x30B, opLoopSet) := ⟨by decide +kernel, rfl⟩

/-- The same level where the program counter stands at its end: it goes on, or its counter has reached the bound. -/
def atEnd (ctr : Word) : State :=
  let s := looping true 0 []
  { s with cores := [(0, { s.core 0 with ctxs := [(0, { s.ctx 0 0 with
      user := { (s.ctx 0 0).user with pc := 1 }, loopctr := [(0, ctr)] })] })] }
theorem witness_LoopLevelsStep : ([0, 1].all (fun c => (atEnd c).canRun && !(atEnd c).hereSys && (atEnd c).loopsFull
    && ((atEnd c).herePlane.dueAt ((atEnd c).herePlane.cyc + 1)).isEmpty && (atEnd c).hereCtx.endLevels 1 == [0]
    && levelExits (atEnd c) 0 == (c == 1))) = true := by decide +kernel

/-- A wait of word v with x in ct.o1. -/
def waiting (v x : Nat) : State := immediate (userR (BitVec.ofNat 64 v) [(0x310, BitVec.ofNat 512 x)])
theorem witness_WaitsHoldTheirBundle : ([0, 1, 0x72, 3, 15, 2].all (fun v => (waiting v 0x40).ready s4 0x312 [0x310])
    && (waiting 0 0).ready s4 0x312 [0x310] && decide (((waiting 0 0).operandVal 0x310).toNat ≤ 0) && (waiting 0 1).cycle == 0
    && (waiting 1 0xFFFFFFFF).operandVal 0x310 == 0xFFFFFFFF && (waiting 1 0xFFFFFFFF).ready s4 0x312 [0x310]
    && (waiting 1 0x80000000).ready s4 0x312 [0x310] && (waiting 0x4002 0x40).ready s4 0x312 [0x310]
    && addrOk (waiting 0x4002 0x40) 0x40 8 true && !(waiting 2 0x40).anyPoison 0x40 8
    && leNat ((waiting 2 0x40).sRead 0x40 8) == 0 && (waiting 0x102 0x40).ready s4 0x312 [0x310]
    && calm (waiting 2 0x40) && !(waiting 2 0x40).hereCtx.lateAt 0x40 8
    && (waiting 0x5002 0x40).ready s4 0x312 [0x310]) = true := by decide +kernel
/-- The same with a store of the context to that word still under way. -/
def held (v : Dword) (ops : List (Nat × Line)) (sys : Bool) (a : Nat) : State :=
  with0 { armedCtx sys v ops with late := [{ kind := .store [(a, 1)], dst := none, issued := 0, earliest := 20, acq := false }] }
theorem witness_WaitsHoldTheirBundle_early : (let s := immediate (held 2 [(0x310, 0x40)] false 0x47)
    s.ready s4 0x312 [0x310] && addrOk s 0x40 8 true && s.hereCtx.lateAt 0x40 8 && !s.hereCtx.lateAt 0x48 8) = true := by decide +kernel

theorem witness_SeatsAreGivenUp : (readyOn s4 [0x313, 0x314, 0x318] [] && [0x313, 0x314, 0x318].all (fun d => (sysR 0 []).ready s4 d [])
    && !(userR 1 []).hereSys && (sysR 0 []).hereSys) = true := by decide +kernel
theorem witness_FencesAndTimerAct : (readyOn s4 [0x319, 0x31A, 0x31B, 0x320, 0x321] [] && (sysR 0 []).ready s4 0x320 []
    && (userR 4 []).movedVal s4 0x319 == 4 && (userR 5 []).movedVal s4 0x319 == 5 && (userR 5 []).ready s4 0x319 []
    && (userR 0 []).ready s4 0x31A [] && (userR 0 []).ready s4 0x321 [] && (userR 0x8000 []).ready s4 0x31A []) = true := by decide +kernel
theorem witness_CausesAreTaken : (userR 0 []).hereSys = false ∧ (sysR 0 []).hereSys = true
    ∧ (∀ k, some 7 = some k → k < 8) ∧ (255 : Nat) < 256 ∧ (2 ^ 52 - 1 : Nat) < 2 ^ 52 :=
  ⟨by decide +kernel, by decide +kernel, fun _ h => by cases h; decide, by decide, by decide⟩
theorem witness_SoftwareTrapsAreTaken : ((userR 0xFF []).ready s4 0x315 [] && (userR 0xFF []).ready s4 0x316 [] && !(userR 0 []).hereSys
    && decide ((userR 0 []).turn.slot < 8)) = true := by decide +kernel

/-- A context with a value that lands three bundles on, and one with an empty register. -/
def dueCtx (onSys : Bool) : Ctx := (armedCtx onSys 0 []).modPlane onSys (fun p => { p with
  due := [{ due := 3, dst := .latch 0x14A, val := 0, mask := 0xFFFF, flags := 0 }] })
def emptyCtx : Ctx := { armedCtx false 0 [] with empty := [(9, true)] }
theorem witness_ReturnsAndEnds : ((sysR 0 []).ready s4 0x317 [] && (sysR 0 []).hereCtx.sys.due.isEmpty
    && ((sysR 0 []).core 0).rotate == none && (with0 (dueCtx true)).ready s4 0x317 [] && !(with0 (dueCtx true)).hereCtx.sys.due.isEmpty
    && (userR 0 []).canMove s4 0x317 && (userR 0 []).ready s4 0x31D [] && (userR 0 []).hereCtx.user.due.isEmpty
    && (userR 0 []).hereCtx.empty.isEmpty && (with0 (dueCtx false)).ready s4 0x31D [] && !(with0 (dueCtx false)).hereCtx.user.due.isEmpty
    && (with0 emptyCtx).ready s4 0x31D [] && !(with0 emptyCtx).hereCtx.empty.isEmpty && (sysR 0 []).canMove s4 0x31D) = true := by
  decide +kernel

/-- The session is OPEN, and V-space 0-16 GiB is mapped to the same physical addresses, readable and writable; TOPB bytes
stand at 0x100. -/
def mapped (topb : List Byte) (s : State) : State :=
  { s with session := { state := .opened, key := 9 }, sill := { state := .ready }, hbm := writeBytes [(0, 0x1F)] 0x100 topb }
/-- With a running kernel of one source stage, or of a stage in another state. -/
def serving (st : StageState) (topb : List Byte) (v : Dword) : State :=
  mapped topb { userR v [] with kernel := { state := .running, nstage := 1, stages := [(0, { state := st })] } }
/-- A task in BINNED. -/
def binned : Task :=
  { id := 1, topb := defaultTopb, stage := 0, topbVa := 0x100, origin := none, state := .binned, bin := 0, bound := none, order := 0
    released := 0, lastCore := none, answered := false }
theorem witness_TaskPostAnswers_full : 4096 ≤ ((List.replicate 4096 binned).filter (fun t => t.state == .binned)).length := by
  rw [List.filter_replicate_of_pos rfl, List.length_replicate]
theorem witness_TaskPostAnswers : (let s := serving .opened defaultTopb 0x100
    s.ready s4 0x31C [] && postedTopb s 0x100 == some (defaultTopb) && (postedTopb s 0x140).isNone && (serving .opened [] 0x140).ready s4 0x31C []
      && topbOk defaultTopb && topbStage defaultTopb == 0 && (postedTopb (serving .opened [] 0x100) 0x100).map topbOk == some false
      && decide ((s.tasks.filter (fun t => t.state == .binned)).length < 4096)
      && ((tabGet {} s.kernel.stages 0).inq).all (·.isNone) && (tabGet {} s.kernel.stages 0).state == .opened
      && (serving .closed defaultTopb 0x100).ready s4 0x31C [] && (tabGet {} (serving .closed [] 0).kernel.stages 0).state == .closed
      && (postedTopb (mapped defaultTopb (userR 0x100 [])) 0x100).isSome && (mapped defaultTopb (userR 0x100 [])).kernel.nstage == 0
      && (s.hostMissing (some (0, 0)) (postRanges 0x100)).isEmpty && s.canRead (some (0, 0)) (postRanges 0x100) && (s.hostPieces (postRanges 0x100)).isEmpty) = true := by decide +kernel
/-- The same where the page of the TOPB, from 16 GiB on, lies in a host window that is bound. -/
def windowed (v : Dword) : State :=
  let s := serving .opened [] v
  { s with
    hbm := writeBytes s.hbm 8 (leBytes (2 ^ 47 + 0x1F) 8)
    session := { s.session with windows := [(0, { valid := true, qpn := 1, key := 5, size := 2 ^ 40 })] } }
theorem witness_TaskPostAnswers_host : ((windowed 0x400000100).ready s4 0x31C []
    && !((windowed 0x400000100).hostMissing (some (0, 0)) (postRanges 0x400000100)).isEmpty
    && !(windowed 0x400000100).canRead (some (0, 0)) (postRanges 0x400000100)) = true := by decide +kernel

theorem witness_CsrAccessesAct : ((userR 0x061 []).ready s4 0x31E [] && ((userR 0x061 []).csr 0 0 0x061).isSome
    && (userR 0x008 []).ready s4 0x31E [] && ((userR 0 []).csr 0 0 0x008).isSome && !csrSystemOnly 0x008 && !csrSystemOnly 0x061
    && (sysR 0x00C []).ready s4 0x31F [0x310] && (sysR 0x00C []).hereSys && ((sysR 0 []).csr 0 0 0x00C).isSome
    && (userR 0x010 []).canMove s4 0x31F && csrSystemOnly 0x010 && (userR 0x3FF []).canMove s4 0x31E
    && ((userR 0 []).csr 0 0 0x3FF).isNone) = true := by decide +kernel
theorem witness_CsrWritesReadBack : (5 : Nat) % 16 < 6 ∧ (15 : Nat) % 16 = 15 ∧ (6 ≤ 6 % 16 ∧ 6 % 16 ≤ 14) ∧ (6 ≤ 14 % 16 ∧ 14 % 16 ≤ 14)
    ∧ (State.reset.core 0).capW1c = [] ∧ (0x000 : Nat) ∉ [0x018, 0x026, 0x050, 0x058] := by decide

theorem witness_SystemOperationsNeedSystemMode : (readyOn s4 (rangeFrom 0x322 11) [] && !(userR 1 []).hereSys) = true
    ∧ triggerOf (.tlbInv s4) = some (s4, 0x322, opTlbInv) ∧ triggerOf (.perfClr s4) = some (s4, 0x32C, opPerfClr) :=
  ⟨by decide +kernel, rfl, rfl⟩

/-- A read of another device, of 8 bytes at a V-address. -/
def readOp (va : Dword) : RemoteOp :=
  { op := opReadReq, rop := 0, stream := 0, sctx := 0, score := 0, seq := 0, src := 1, dst := 0, vaddr := va, tag := 0, auxop := 8, data := [] }
theorem witness_TranslationsAreInvalidatedAndFixed : ([0, 4, 5, 6, 7].all (fun v => (sysR v []).ready s4 0x322 [0x310])
    && [0, 1, 2, 3].all (fun v => (sysR v [(0x311, 4)]).ready s4 0x323 [0x310, 0x311]) && sy2 (sysR 0 [(0x311, 4)]) == 4
    && (sysR 0 [(0x311, 5)]).ready s4 0x323 [0x310, 0x311] && sy2 (sysR 0 [(0x311, 5)]) == 5 && (sysR 0 []).hereSys
    && (readOp 0x1FFFF).vaddr.toNat / codeSize 0 == 0x10000 / codeSize 0
    && (({ State.reset with heldReads := [(readOp 0x100, 0x1FFFF), (readOp 0x20000, 0x20000)] } : State).fixUnmappable 0 0x10000).heldReads
        == [(readOp 0x20000, 0x20000)]) = true := by decide +kernel

/-- A system plane on core 0 whose kernel memory holds an area table at 0x1000, with the area e of core 1, and a header at
0x10000; core 1 is as given. -/
def saver (v x : Dword) (e h : Nat) (k : Core) (ts : List TileStep) : State :=
  let s := sysR v [(0x310, x.zeroExtend 512)]
  { mapped [] s with
    cores := [(0, s.core 0), (1, k)], steps := ts
    hbm := writeBytes (writeBytes [(0, 0x1F)] 0x1008 (leBytes e 8)) 0x10000 (leBytes h 8) }
/-- Core 1 with a tile step, and with none on a stage. -/
def busyCore : Core := { ctxs := [(0, { state := .ready, step := some 1 })] }
def freeCore : Core := { stage := some 0 }
def step1 : TileStep := { step0 with core := some 1 }
def saving1 : Saving := { area := 0, live := 1, group := [1] }
/-- An array operation on core 0. -/
def mstart0 : Cmd := { op := .mstart 0 0 0 0 [] [] 0 none, unit := 0, core := 0, ctx := 0, sys := false, serial := 5, seq := 0, issued := 0, step := none }
def ceRun0 : CeRun :=
  { cmd := mstart0, stage := .due, wait := 0, tick := 0, pass := 0, done := 0, ucode := [], entry := 0, feedA := [], feedB := []
    scaleA := [], scaleB := [], scaleW := [], discarded := false }
/-- The system plane that waits for a save of core 1. -/
def awaiting (sv : Option Saving) : State :=
  let cx := armedCtx true 1 []
  { with0 { cx with saveReq := some [1] } with cores := [(0, (with0 { cx with saveReq := some [1] }).core 0), (1, { saving := sv })] }
/-- A gang of two on cores 1 and 2, the second halted on its system plane. -/
def halfGang : State :=
  { State.reset with
    cores := [(1, busyCore), (2, { ctxs := [(0, { state := .system, step := some 2, sysHalted := true })] })]
    steps := [step1, { step1 with id := 2, rank := 1, core := some 2 }] }
theorem witness_CoreSaveAndLoadAnswer_save : (let s := saver 1 0x1000 0x10000 0 busyCore [step1]
    s.ready s4 0x324 [0x310] && s.hereSys && s.hereCtx.saveReq == none && (s.areaTable 0x1000).isSome && s.affectedMask 1 == 1
      && s.requestCores 128 [1] == [1] && (s.core 1).saving == none && areaOk 0x10000 && !s.haltedMember [1]
      && halfGang.haltedMember [1]
      && (s.areaTable 0x1000).map (fun t => t.getD 1 0) == some 0x10000
      && (saver 0 0x1000 0 0 {} []).ready s4 0x324 [0x310] && (saver 1 0x1001 0 0 {} []).ready s4 0x324 [0x310]
      && ((saver 1 0x1001 0 0 {} []).areaTable 0x1001).isNone && (saver 1 0x1000 0 0 {} []).affectedMask 1 == 0
      && ((saver 1 0x1000 0 0 { busyCore with saving := some saving1 } [step1]).core 1).saving.isSome
      && (saver 1 0x1000 0 0 { busyCore with saving := some saving1 } [step1]).affectedMask 1 == 1
      && (saver 1 0x1000 0 0 busyCore [step1]).ready s4 0x324 [0x310] && !areaOk 0
      && (awaiting none).ready s4 0x324 [0x310] && (awaiting (some saving1)).ready s4 0x324 [0x310]
      && (awaiting none).hereCtx.saveReq == some [1] && ((awaiting (some saving1)).core 1).saving.isSome) = true := by decide +kernel
theorem witness_CoreSaveAndLoadAnswer_load : (let s := saver 0x1000 0 0x10000 (2 ^ 63) freeCore []
    s.ready s4 0x325 [] && s.hereSys && (s.areaTable 0x1000).map loadList == some [(1, 0x10000)] && s.canLoad 1 && (s.core 1).ce.isNone
      && s.imageHeader 0x10000 == some (2 ^ 63) && (2 ^ 63).testBit 63
      && (saver 0x1001 0 0 0 {} []).ready s4 0x325 [] && ((saver 0x1001 0 0 0 {} []).areaTable 0x1001).isNone
      && ((saver 0x1000 0 0 0 {} []).areaTable 0x1000).map loadList == some []
      && ((saver 0x1000 0 0x10000 0 { freeCore with ce := some ceRun0 } []).core 1).ce.isSome
      && (saver 0x1000 0 0x10000 0 { freeCore with ce := some ceRun0 } []).canLoad 1
      && ((saver 0x1000 0 0x10000 0 { freeCore with saving := some saving1 } []).core 1).saving.isSome
      && (saver 0x1000 0 0x10000 0 freeCore []).imageHeader 0x10000 == some 0 && !(saver 0x1000 0 0x10000 0 {} []).canLoad 1) = true := by
  decide +kernel
theorem witness_CoreSaveAndLoadAnswer_readable : (let s := saver 0x1000 0 0x10000 (2 ^ 63) freeCore []
    s.imageReadable 0x10000 && s.wholeGangs [0x10000]) = true := by decide +kernel

/-- A system plane with link 46 as given. -/
def linked (v x : Nat) (l : Link) : State := { sysR (BitVec.ofNat 64 v) [(0x310, BitVec.ofNat 512 x)] with links := [(46, l)] }
theorem witness_LinkKeysAndItems : (let s := linked 0x12E 0x7FFFC0 {}
    s.ready s4 0x326 [0x310] && s.hereSys && addrOk s 0x7FFFC0 64 false && !s.anyPoison 0x7FFFC0 64 && ((s.link 46).slot true).tx == .empty
      && ((linked 0x12E 0 { k1 := { tx := .active } }).link 46).k1.tx == .active
      && (linked 0x12E 0 { k1 := { tx := .active } }).ready s4 0x326 [0x310] && (linked 47 0 {}).ready s4 0x326 [0x310]
      && (linked 46 0x40000000 {}).ready s4 0x326 [0x310] && (linked 46 0x20 {}).ready s4 0x326 [0x310]
      && calm s && !s.hereCtx.lateAt 0x7FFFC0 64
      && (let t := held 0x12E [(0x310, 0x7FFFC0)] true 0x7FFFFF; t.ready s4 0x326 [0x310] && t.hereCtx.lateAt 0x7FFFC0 64
        && addrOk t 0x7FFFC0 64 false)
      && (linked 0x92E 0 {}).ready s4 0x327 [] && (linked 0xA2E 0 {}).ready s4 0x327 [] && (linked 0x2F 0 {}).ready s4 0x327 []) = true := by
  decide +kernel
theorem witness_LinkCommandsAct : ([0x02E, 0x12E, 0x22E, 0x32E, 0x42E, 0x52E, 0x02F].all (fun v => (linked v 0 {}).ready s4 0x328 [0x310]
      && (linked v 0 {}).hereSys)
    && ((linked 0 0 { state := .up }).link 46).state == .up && !((linked 0 0 { state := .up }).link 46).drainSent
    && ((linked 0 0 { state := .dark }).link 46).state == .dark && ((linked 0 0 {}).link 46).readySlot == none
    && (let l : Link := { state := .up, k0 := { tx := .active }, k1 := { tx := .ready } }
        l.readySlot == some true && l.activeSlot == some false && l.keymark == none && l.retryBuf.length == 0)) = true := by decide +kernel
/-- A flit of the retry buffer. -/
def keptFlit : RetryFlit :=
  { kind := 2, vc := 0, dst := 0, src := 0, lseq := 0, hops := 0, len := 0, payload := [], resend := false }
theorem witness_LinkCommandsAct_full : 64 ≤ (List.replicate 64 keptFlit).length := by rw [List.length_replicate]

/-- An entry of a ring with an operation that its type does not have. -/
def ringImage : List Byte := leBytes 0 7 ++ [0xC0#8] ++ leBytes 0 8 ++ leBytes (0xF <<< 38) 8
theorem witness_RoutesChannelsAndCounters : ([0x000, 0x100, 0x200, 0x23F].all (fun v => (sysR v [(0x310, 0x2E0100)]).ready s4 0x329 [0x310])
    && [0x000003, 0x2F0101, 0x2E0101].all (fun e => (sysR 0 [(0x310, BitVec.ofNat 512 e)]).ready s4 0x329 [0x310]) && (sysR 0 []).hereSys
    && [0x40000000, 0x20, 0x40].all (fun a => (sysR 0x7FF [(0x310, BitVec.ofNat 512 a)]).ready s4 0x32A [0x310])
    && (let t := held 0x7FF [(0x310, 0x7FFFC0)] true 0x7FFFFF; t.ready s4 0x32A [0x310] && t.hereSys && addrOk t 0x7FFFC0 64 false
      && t.hereCtx.lateAt 0x7FFFC0 64)
    && addrOk (sysR 0 []) 0x40 64 false && !(sysR 0 []).anyPoison 0x40 64 && ringBad (chanOf ringImage)
    && !ringBad (chanOf (leBytes 0 64)) && !(sysR 0 []).chanBusy 0x7FF
    && ({ sysR 0 [] with chans := [(0, { kind := 3, running := some mstart0 })] } : State).chanBusy 0
    && (sysR 0x27F []).ready s4 0x32B [] && (sysR 0x10F []).ready s4 0x32C [] && (sysR 0x00F []).ready s4 0x32C []) = true := by
  decide +kernel

theorem witness_TriggersComplete : (userR 3 []).fires s4 0x1A4 opDiv = true ∧ triggerOf (.div s4) = some (s4, 0x1A4, opDiv) :=
  ⟨by decide +kernel, rfl⟩

/-- 16 commands wait in queue cp0 of context 0; QMODE asks to hold or not. -/
def crowded (q : BitVec 15) : State :=
  let s := with0 { armedCtx false 0 [] with qmode := q }
  { s with cores := [(0, { s.core 0 with queues := [(8, List.replicate 16 mstart0)] })] }
theorem witness_TriggerChecksAreOrdered : ([0, 4].all (fun q => (crowded q).ready s4 0x200 cpUsed
      && (opCopy.lacks ((crowded q).argHere s4 0x200 opCopy)).isNone && (opCopy.priv ((crowded q).argHere s4 0x200 opCopy)).isNone
      && (opCopy.illegal ((crowded q).argHere s4 0x200 opCopy)).isNone && (opCopy.traps ((crowded q).argHere s4 0x200 opCopy)).isNone
      && (opCopy.reads ((crowded q).argHere s4 0x200 opCopy)).isEmpty && !opCopy.fmtWait ((crowded q).argHere s4 0x200 opCopy)
      && opCopy.unit ((crowded q).argHere s4 0x200 opCopy) == some 2 && (opCopy.dests ((crowded q).argHere s4 0x200 opCopy)).isEmpty
      && (crowded q).hereCtx.qmode.getLsbD 2 == (q == 4) && !opCopy.sysOnly && !opCopy.userOnly
      && (tabGet [] ((crowded q).core 0).queues 8).length == 16)
    && (user 0 []).canRun && ((user 0 []).causeHere s4 0x160 opAdd).isSome && (user 0 []).guardOpen s4 0x160
    && (with0 emptyCtx).canRun && ((with0 emptyCtx).causeHere (mv 0x109) 0x160 opAdd).isNone
    && emptyHere (with0 emptyCtx) (mv 0x109) 0x160 opAdd == [9]) = true ∧ triggerOf (.add (mv 0x109)) = some (mv 0x109, 0x160, opAdd) :=
  ⟨by decide +kernel, rfl⟩

theorem witness_QueuePushesAppend : ((working 0 []).canRun && (working 0 []).readable v4 && (working 0 []).loopsFull && !v4.h
    && ((working 0 []).outq 0 0).isSome && ((working 0 []).outq 0 3).isSome && ((working 0 []).outq 0 1).isNone
    && ((working 0 []).stepOf 0 0).isSome) = true := by decide +kernel
/-- Whether a first push into a queue completes its entry: in a queue of one line it does, in one of two it does not. -/
theorem witness_QueuePushesAppend_lines : [1, 2].map (fun n => decide ((tabGet {}
    ({ working 0 [] with queues := [(2, { used := true, lines := n })] } : State).queues 2).lines ≤ (staged step0 0 0 0).lines.length)) = [true, false] := by
  decide +kernel

theorem witness_EncodeThenDecode : WellFormed (.waitTdone s4) = true ∧ encode (.waitTdone s4) = some 0x041312 ∧ tells 1 (.waitTdone s4) := by
  refine ⟨by decide, by decide, ?_⟩
  show (1 : Dword).toNat % 16 = 1
  decide
theorem witness_DecodeThenEncode : decodeSlot 0x04113D 0 = some (.move s4 0x13D) := by decide +kernel

/-- A turn of an engine before the fetch of core 0. -/
def early : State := { State.reset with agenda := [.run (.copyPiece 0 0), .fetch 0, .run .referenceClockCycle] }
theorem witness_StepRunsDecodedSlot_held : nextTurn early = some (.run (.copyPiece 0 0), [.fetch 0, .run .referenceClockCycle])
    ∧ ({ early with agenda := [.fetch 0, .run .referenceClockCycle] } : State).bankHeld (.run (.copyPiece 0 0)) = true
    ∧ ({ early with agenda := [.run .referenceClockCycle, .fetch 0] } : State).bankHeld (.run (.copyPiece 0 0)) = false
    ∧ (Turn.run (.add s4)).bankClass ≤ 2 := by decide +kernel
/-- Core 0 has one seat, its first bundle is b, and its turn has come. -/
def fetching (b : BitVec 192) : State :=
  { State.reset with agenda := [.fetch 0], cores := [(0, { ctxs := [(0, seat false [] [])], untagged := [(0, true)], istore := [(0, b)] })] }
theorem witness_StepRunsDecodedSlot : nextTurn (fetching 0) = some (.fetch 0, []) ∧ ((fetching 0).core 0).seats = [0]
    ∧ occupied ((fetching 0).pcBundle 0 0) = [] ∧ occupied ((fetching (0x04113D <<< 168)).pcBundle 0 0) = [7]
    ∧ decodeWord (bundleWord (0x04113D <<< 168) 7) = some (.move s4 0x13D) ∧ occupied ((fetching 0x0403FF).pcBundle 0 0) = [0]
    ∧ decodeWord (bundleWord 0x0403FF 0) = none ∧ occupied ((fetching 0x04110104110A).pcBundle 0 0) = [0, 1]
    ∧ ((({ fetching 0 with cores := [] } : State)).core 0).seats = []
    ∧ nextTurn State.reset = some (.run .workRingPoll, [.run (.trussBalance 0), .run (.trussBalance 1), .run .occupancySample,
        .run .referenceClockCycle]) := by decide +kernel

theorem witness_MemoryReadsBack : ((immediate (user 0 [])).setTag 16 true).tagged 0x41 = true ∧ Memory.wf State.reset = true
    ∧ (0x3F < 0x40 ∧ 0x40 + 8 ≤ 0x48) ∧ (0x40 / 64 ≤ 1 ∧ 64 * 1 < 0x40 + 8) ∧ (0x40 ≤ 4 * 16 ∧ 4 * 16 + 4 ≤ 0x40 + 4) := by decide +kernel
theorem witness_MemoryStaysCanonical : Memory.wf State.reset = true ∧ ∃ t, step State.reset = .next t := ⟨by decide +kernel, _, rfl⟩

/-- A Sill image of kind 1 with the greatest SVN and an empty body. -/
def goodImage : List Byte := leBytes 1 4 ++ leBytes 0xFFFFFFFF 4 ++ leBytes 0 8 ++ sha256 [] ++ leBytes 0 592
/-- It is accepted wherever its signature verifies under the key, which the model leaves free. -/
theorem witness_sillImage (s : State) (hs : s.sill.minSvn = [])
    (h : pssVerify Config.firmwareKey (goodImage.take 0x100) ((goodImage.drop 0x100).take 384) = true) : sillImage s goodImage := by
  have h1 : decide (imageLen goodImage ≤ (imageBody goodImage).length) = true := by decide +kernel
  have h2 : ((goodImage.drop 0x10).take 32 == sha256 ((imageBody goodImage).take (imageLen goodImage))) = true := by decide +kernel
  have h4 : ((goodImage.drop 0x30).take 208).all (· == 0) = true := by decide +kernel
  have h5 : imageKind goodImage = 1 := by decide +kernel
  have h6 : decide (s.fusedSvn 1 ≤ imageSvn goodImage) = true := by
    have e : imageSvn goodImage = 0xFFFFFFFF := by decide +kernel
    have a := (Config.fusedMinSvn 1).isLt
    simp only [State.fusedSvn, e, hs, decide_eq_true_eq, tabGet]
    omega
  refine ⟨?_, h5⟩
  unfold State.imageOk
  rw [h, h1, h2, h4, h5, h6]
  rfl

/-- The device with its Sill and its session in given states. -/
def sill0 (st : SillState) (se : SessState) : State := { State.reset with sill := { state := st }, session := { state := se } }
/-- A session descriptor. -/
def goodDesc : List Byte := leBytes 0 16 ++ leBytes 0x060A 8 ++ leBytes 0 1000
/-- An operation of this device that has begun to leave. -/
def sentOut : Out :=
  { op := readOp 0, kind := .read 0 1, core := 0, ctx := 0, stage := .sent, link := some 0, firstSent := some 0, issued := 0 }
theorem witness_SessionsOpenAndClose : State.reset.sill.state = .rom ∧ ¬ sillImage State.reset [] ∧ (sill0 .bringup .none).sill.state = .bringup
    ∧ takes (sill0 .ready .scrubbed) ∧ idleSill (sill0 .ready .scrubbed) ∧ takes (sill0 .ready .opened) ∧ idleSill (sill0 .ready .opened)
    ∧ descMalformed [] = true ∧ descMalformed goodDesc = false ∧ (sill0 .ready .closing).out.any Out.pending = false
    ∧ sentOut.pending = true ∧ (sill0 .ready .scrubbing).session.state = .scrubbing := by
  unfold takes idleSill sillImage
  decide +kernel

/-- A firmware update of the Sill until a cycle, with a query that waits for it. -/
def duringUpdate (until_ : Dword) : State :=
  { State.reset with sill := { state := .ready, nextImage := some (1, {}), busyUntil := until_, held := [.ident] } }
theorem witness_ManagementCommandsAnswer : (sill0 .off .none).sill.state = .off ∧ (sill0 .rom .none).sill.state ≠ .off ∧ ¬ takes (sill0 .rom .none)
    ∧ takes (sill0 .ready .closing) ∧ ¬ idleSill (sill0 .ready .closing) ∧ takes (sill0 .ready .opened) ∧ idleSill (sill0 .ready .opened)
    ∧ (sill0 .recovery .none).sill.state = .recovery ∧ ¬ sillImage (sill0 .recovery .none) [] ∧ (sill0 .ready .opened).imageOk [] = false
    ∧ ((sill0 .ready .opened).core 127).inService = true ∧ ((sill0 .ready .opened).core 127).drained = false ∧ ¬ (128 : Nat) < 128
    ∧ (({ sill0 .ready .opened with cores := [(5, { inService := false })] } : State).core 5).inService = false
    ∧ (({ sill0 .ready .opened with links := [(46, { state := .up })] } : State).link 46).state = .up := by
  unfold takes idleSill sillImage
  decide +kernel
theorem witness_ManagementCommandsAnswer_updating : updating (duringUpdate 7) ∧ ¬ updating (sill0 .ready .opened)
    ∧ (duringUpdate 7).cycle.toNat < (duringUpdate 7).sill.busyUntil.toNat ∧ (duringUpdate 0).sill.busyUntil.toNat ≤ (duringUpdate 0).cycle.toNat := by
  refine ⟨⟨_, rfl⟩, fun h => h.elim (fun _ h => nomatch h), by decide +kernel, by decide +kernel⟩

/-- Queue pair 1 of port 0. -/
def qp : QpId := { port := 0, qpn := 1 }
/-- The mapped session with a live ring 3 at 0x2000 of 4 requests, whose first has a type, an address and stage 0. -/
def ringed (type addr : Nat) (k : Kernel) : State :=
  let s := mapped defaultTopb { State.reset with kernel := k }
  { s with
    session := { s.session with rings := [(3, { base := 0x2000, log2n := 2 })] }
    hbm := writeBytes (writeBytes s.hbm 0x2000 (leBytes 1 4)) 0x2040 (leBytes (type + 256 + 7 * 65536) 8 ++ leBytes addr 8) }
/-- Kernels: loading, and running with a stage in a state. -/
def loadingK : Kernel := { state := .loading }
def runningK (st : StageState) : Kernel := { state := .running, nstage := 1, stages := [(0, { state := st })] }
/-- Type and tag of the next request of ring 3. -/
def requestOf (s : State) : Option (Nat × BitVec 16) := (s.nextRequest 3).map (fun p => (p.1.type, p.1.tag))
/-- The completion origin of a request that asks for one, or not. -/
def asked (cq : Bool) : Origin := { ring := 3, count := 0, tag := 7, cq := cq }
/-- The request itself. -/
def req (type stage : Nat) (addr : Dword) : Req := { stage := stage, tag := 7, cq := true, type := type, addr := addr }

theorem witness_HostRequestsAct_requests : ([0, 1, 2, 3, 4, 255].all (fun ty => requestOf (ringed ty 0x100 {}) == some (ty, 7))
    && ((ringed 0 0 {}).nextRequest 0).isNone) = true
    ∧ (launches (ringed 1 0x100 loadingK) (req 1 0 0x100) (asked true)).isNone = true
    ∧ (launches (ringed 1 0x100 {}) (req 1 0 0x100) (asked true)).isSome = true
    ∧ (posts (ringed 2 0x100 loadingK) (req 2 0 0x100) (asked true)).isNone = true
    ∧ (posts (ringed 2 0x100 (runningK .opened)) (req 2 0 0x100) (asked true)).isSome = true
    ∧ (closes (ringed 3 0 loadingK) (req 3 0 0) (asked true)).isNone = true
    ∧ (closes (ringed 3 0 (runningK .opened)) (req 3 0 0) (asked true)).isSome = true ∧ (asked false).cq = false
    ∧ loadingK.state = .loading ∧ ({ State.reset with kernel := loadingK } : State).running = false
    ∧ ({ State.reset with kernel := loadingK, steps := [step0] } : State).running = true
    ∧ isLoading { State.reset with kernel := loadingK } ∧ ¬ isLoading State.reset ∧ isLoading { State.reset with launching := some loadingK }
    ∧ (ringed 1 0x100 {}).canRead none ((ringed 1 0x100 {}).requestRanges (req 1 0 0x100)) = true
    ∧ (windowed 0).canRead none ((windowed 0).requestRanges (req 2 0 0x400000100)) = false := by
  unfold isLoading
  decide +kernel

/-- The mapped session, with poison at 0x4000. -/
def hosted : State := { mapped [] State.reset with hbmPoison := [(0x4000, true)] }
theorem witness_HostRequestsAct_rdma : hosted.sill.state = .ready ∧ qp ∉ hosted.qpError ∧ State.reset.sill.state ≠ .ready
    ∧ hosted.session.state = .opened ∧ (0 : BitVec 32) ≠ hosted.session.key ∧ hosted.session.key = 9
    ∧ hosted.hostRefused true 9 0x3FFFFFFFC 4 = false ∧ hosted.hostRefused false 9 0x3FFFFFFFC 4 = false
    ∧ hosted.hostRefused true 9 0x400000000 4 = true ∧ hosted.hostRefused false 9 0x400000000 4 = true
    ∧ piecesOf 0x3FFFFFFFC 4 = [(0x3FFFFFFFC, 4)] ∧ hosted.hostPage true 0x3FFFFFFFC = some 0x3FFFFFFFC
    ∧ (hosted.hostFetch 0x100 4).2 = false ∧ (hosted.hostFetch 0x4000 4).2 = true
    ∧ ({ hosted with hostPending := [{ q := qp, who := .nobody, va := none, id := 0 }] } : State).hostPending
      = [] ++ { q := qp, who := .nobody, va := none, id := 0 } :: []
    ∧ hosted.qps = [] ∧ (({ hosted with qps := [qp] } : State).qps.filter (fun p => p.port = qp.port)).length < 64
    ∧ State.reset.hostPending = [] := by decide +kernel

/-- A kernel whose stage 0 has an input queue with one entry, or with none, or has none. -/
def formed (n : Word) : State :=
  { mapped [] State.reset with
    kernel := { state := .running, nstage := 1, stages := [(0, stage0)] }
    queues := [(0, { used := true, base := 0x1000, lines := 1, log2d := 2, tail := n })] }
theorem witness_HostRequestsAct_polls : (ringed 0 0 {}).session.state = .opened ∧ (ringed 0 0 {}).cycle.toNat % 32 = 0
    ∧ (tabGet ({} : Ring) (ringed 0 0 {}).session.rings (((ringed 0 0 {}).pollAt + 3) % 64)).live = true
    ∧ (∀ j, j < 3 → (tabGet ({} : Ring) (ringed 0 0 {}).session.rings (((ringed 0 0 {}).pollAt + j) % 64)).live = false)
    ∧ (∀ i, i < 64 → (tabGet ({} : Ring) (mapped [] State.reset).session.rings i).live = false) ∧ State.reset.session.state ≠ .opened
    ∧ (tabGet ({} : Stage) (formed 1).kernel.stages 0).inq.head? = some (some 0) ∧ (tabGet ({} : StageQ) (formed 1).queues 0).count = 1
    ∧ (formed 1).mayForm 0 = true ∧ (tabGet ({} : StageQ) (formed 0).queues 0).count = 0
    ∧ (tabGet ({} : Stage) (ringed 0 0 (runningK .opened)).kernel.stages 0).inq.head? = none := by decide +kernel

/-- A running kernel whose cores 0 and 1 serve stage 0, with a single tile step or a gang of two waiting. -/
def placing (gang : Bool) : State :=
  let topb := leBytes (2 ^ 44 + 2 ^ 32 + 0xF0000) 8 ++ leBytes 1 8 ++ leBytes (if gang then 2 + 2 ^ 32 else 1) 8
    ++ (rangeFrom 0 5).flatMap (fun _ => leBytes 1 8) ++ leBytes 0 192
  { mapped [] State.reset with
    cores := [(0, { stage := some 0 }), (1, { stage := some 0 })]
    kernel := { state := .running, nstage := 1, stages := [(0, {})] }
    tasks := [{ binned with topb := topb, state := .expanded }]
    steps := { step0 with state := .pending, core := none, ctx := none }
      :: (if gang then [{ step0 with id := 2, rank := 1, state := .pending, core := none, ctx := none }] else []) }
/-- Tasks of the next placement: gang or not, and how many members. -/
def placed (s : State) : Option (Bool × Nat) := s.nextPlacement.map (fun p => (decide (1 < gangSize p.1.topb), p.2.length))
/-- A core whose context 0 is seated with a finished tile step. -/
def finishing (done : Bool) : State := with0 { seat false [] [] with step := some 1, doneIssued := done }
/-- A core with a move to stage 2, drained or not. -/
def moving (d : Bool) (busy : Bool) : Core :=
  { stage := some 1, move := some { target := some 2 }, drained := d, ctxs := if busy then [(0, { state := .ready })] else [] }
/-- A queue with an overflow ring of one entry. -/
def spilled (mem : Bool) : State :=
  { (if mem then mapped [] State.reset else State.reset) with
    queues := [(0, { used := true, base := 0x1000, lines := 1, log2d := 2, ovva := 0x10000, log2ov := 2, ovtail := 1 })] }
/-- The read of a refill gets the whole entry where its page is mapped. -/
def refilled (mem : Bool) : Prop :=
  let r := tabGet {} (State.refillRead 0 (tabGet {} (spilled mem).queues 0).refillRest (spilled mem)).queues 0
  r.ovhead = 0 ∧ 64 * (r.lines + 1) ≤ r.refillBuf.length
theorem witness_DispatcherActs : State.reset.session.state ≠ .opened ∧ (formed 0).session.state = .opened ∧ (formed 0).kernel.state = .running
    ∧ tabGet [] ({ formed 0 with bins := [(2, [1])] } : State).bins ((0 + 2) % 64) ≠ []
    ∧ (∀ j, j < 2 → tabGet [] ({ formed 0 with bins := [(2, [1])] } : State).bins ((0 + j) % 64) = [])
    ∧ placed (placing false) = some (false, 1) ∧ placed (placing true) = some (true, 2) ∧ (placing false).steps.length = 1
    ∧ (({ finishing true with steps := [step0] } : State).stepOf 0 0).isSome ∧ (finishing true).hereCtx.doneIssued = true
    ∧ (finishing true).allAccepted 0 0 = true ∧ (finishing false).hereCtx.doneIssued = false ∧ (finishing true).stepOf 0 0 = none
    ∧ (formed 1).cycle.toNat % 256 = 0 ∧ tabWf {} (formed 1).queues = true ∧ (tabGet ({} : StageQ) (formed 1).queues 0).used = true
    ∧ (moving false false).atBoundary = true ∧ (moving false false).pwb = [] ∧ (moving false false).saving = none
    ∧ (moving true false).drained = true ∧ (moving false true).atBoundary = false ∧ (moving true true).move ≠ none
    ∧ State.reset.trussDue = false ∧ (formed 0).trussDue = true
    ∧ (tabGet ({} : StageQ) (spilled true).queues 0).ringCount ≠ 0 ∧ (tabGet ({} : StageQ) (spilled true).queues 0).count < 2 ^ 2
    ∧ (tabGet ({} : StageQ) (spilled true).queues 0).refillWait = false ∧ (tabGet ({} : StageQ) (spilled true).queues 0).refillHeld = none
    ∧ refilled true ∧ ¬ refilled false
    ∧ (formed 0).kernel.nstage = 1 ∧ State.reset.discardedImage step0 = false
    ∧ (({ finishing true with pushes := [{ core := 0, ctx := 0, queue := 2, lines := [], vmask := 0 }] } : State).pushes.any
        (fun q => q.core == 0 && q.ctx == 0)) = true
    ∧ ((moving false false).move.map (·.notBefore)) = some 0 := by
  unfold refilled
  decide +kernel

/-- A core with contexts 1 and 3 READY since 5 and 4, and with both seats taken since 7 and 6. -/
def readyCore : Core := { ctxs := [(1, { state := .ready, readySince := 5 }), (3, { state := .ready, readySince := 4 })] }
def seatedCore : Core :=
  { ctxs := [(0, { state := .seated, seatedNow := true, seatedSince := 7 }), (1, { state := .ready }), (2, { state := .seated, seatedNow := true, seatedSince := 6 })] }
/-- Context 0 with one long-latency access that is due. -/
def arriving (k : LateKind) : State := with0 { seat false [] [] with late := [{ kind := k, dst := none, issued := 0, earliest := 0, acq := false }] }
/-- Context 0 completes something, or has a cause pending, or a timer armed. -/
def completing (c : Completing) : State := with0 { seat false [] [] with completing := [c] }
def pending : State := with0 { seat false [] [] with pend := [(0x41, some 0)] }
def timed (d : Dword) : State := with0 { seat false [] [] with timer := some d }
/-- Core 0 has arrived at the phase that its only context asks for. -/
def phasing : State := with0 { seat false [] [] with state := .blocked, block := .phase, seatedNow := false }
/-- A bundle that swaps s4 and s5 and moves the value of its carrier to s6. -/
def swapping : State :=
  let s := fetching 0x078106041504041105E00007
  { s with cores := [(0, { s.core 0 with ctxs := [(0, seat false [(4, 1), (5, 2)] [])] })] }
theorem witness_CoresAdvance_bundle : swapping.canRun = true ∧ swapping.loopsFull = true ∧ swapping.settled = true
    ∧ collision {} (bundleSlots (swapping.pcBundle 0 0)) = none
    ∧ List.map ((cx0 (run (.bundleIssue 0 (some 0)) swapping)).readS false) [4, 5, 6] = [2, 1, 7]
    ∧ ({ pend := [(0x20, some 0), (0x41, some 5)] } : Ctx).firstPending.map (·.cause) = some 0x20 := by decide +kernel
/-- A core over its power limit. -/
def hotCore : Core := { weights := [0x1C01] }
theorem witness_CoresAdvance : ((fetching 0).core 0).frozen = false ∧ (State.reset.core 0).seats = []
    ∧ collision {} (bundleSlots 0x04110104110A) = none ∧ (bundleSlots 0x04110104110A).length = 2
    ∧ (readyCore.seats.length < 2 ∧ First 3 readyCore.readyCtxs (fun y => (readyCore.ctx y).readySince.toNat))
    ∧ (2 ≤ seatedCore.seats.length ∧ seatedCore.rotate = none ∧ 1 ∈ seatedCore.readyCtxs
      ∧ ({ seatedCore with rotate := some 2 } : Core).rotate = some 2 ∧ (seatedCore.ctx 2).seatedNow = true ∧ (seatedCore.ctx 1).seatedNow = false
      ∧ First 2 seatedCore.seats (fun z => (seatedCore.ctx z).seatedSince.toNat) ∧ (0 : Nat) + 1024 ≤ (1024 : Dword).toNat)
    ∧ (hotCore.frozen = false ∧ hotCore.weightNow = 0 ∧ hotCore.pwrlim.toNat < hotCore.weightSum) ∧ ({} : Core).weightSum ≤ ({} : Core).pwrlim.toNat
    ∧ (∀ k ∈ [LateKind.load 0x800000 4 [], .amo .add 0x800000 false 1 0, .value 5, .store [(0x800000, 1)], .bar 0 0x800000 1],
        ((arriving k).lateReady 0 0 0).isSome = true)
    ∧ (arriving (.value 5)).lateReady 0 0 1 = none
    ∧ (pending.canIssue 0 0 && !pending.hereCtx.modeSys && pending.hereCtx.completing.isEmpty && !pending.hereCtx.preempt) = true
    ∧ pending.hereCtx.firstPending.isSome = true ∧ (user 0 []).hereCtx.firstPending.isSome = false
    ∧ (timed 0).hereCtx.timer = some 0 ∧ (timed 0).cycle = 0 ∧ (timed 1).hereCtx.timer = some 1
    ∧ (completing (.release 4 .nothing 0)).hereCtx.completing = [.release 4 .nothing 0]
    ∧ (completing (.fenceSt 1 0)).hereCtx.completing = [.fenceSt 1 0] ∧ State.reset.walks = []
    ∧ (completing (.tlbInv 0 0 [(0, 0, 0)] [7])).hereCtx.completing = [.tlbInv 0 0 [(0, 0, 0)] [7]]
    ∧ ((phasing.noteArrival 0).phaseMembers 0).all (fun d => ((phasing.noteArrival 0).core d).phaseArrived
        && (phasing.noteArrival 0).coreSettled d) = true
    ∧ (phasing.noteArrival 0).phaseAsked ((phasing.noteArrival 0).phaseMembers 0) = true
    ∧ State.reset.phaseAsked (State.reset.phaseMembers 0) = false
    ∧ (({ pwb := [(3, some { mask := 1, data := 0, poison := false })] } : Core).pwbLine 3).isSome = true
    ∧ (State.reset.cores = [] ∧ State.reset.links = [] ∧ State.reset.chans = [] ∧ State.reset.sill.recal = [] ∧ State.reset.hostPending = []
      ∧ State.reset.pushes = [] ∧ State.reset.spills = [] ∧ State.reset.sideLogs = [] ∧ State.reset.portTold = [] ∧ State.reset.sill.state ≠ .ready)
    ∧ ({} : Core).capW1c = [] := by
  unfold First
  decide +kernel

theorem witness_CoresAdvance_quiet : State.reset.heldWrites = [] ∧ State.reset.hostIn = [] ∧ State.reset.sill.nextImage = none
    ∧ tabWf none [(0x20, some (0 : Dword)), (0x41, some 5)] = true ∧ tabGet none [(0x20, some (0 : Dword)), (0x41, some 5)] 0x20 = some 0 := by
  decide +kernel

/-- A command of a unit. -/
def unitCmd (u : Nat) (op : CmdOp) : Cmd := { mstart0 with op := op, unit := u }
/-- A copy command of channel 0, and its transfer in a stage. -/
def copy0 : Cmd := { mstart0 with op := .copy 0 0 0 0, unit := 2 }
def xfer0 (st : XferStage) (teff : Dword) : Xfer :=
  { cmd := copy0, id := 1, teff := teff, accepted := 0, eligible := true, begun := false, moved := 0, counted := 0, srcDesc := [], dstDesc := []
    stage := st, buffer := [], poison := [] }
/-- Core 0 with a transfer in channel 0, with an operation of the ce unit, of the me unit. -/
def copying (st : XferStage) (teff : Dword) : State := { State.reset with cores := [(0, { buffers := [(0, [xfer0 st teff])] })] }
def ceWith (r : CeRun) (sv : Option Saving) : State := { State.reset with cores := [(0, { ce := some r, saving := sv })] }
def meRun0 (row : Nat) : MeRun :=
  { cmd := { mstart0 with op := .mdrain 0 0 0, unit := 1 }, entry := 0, row := row, words := [], poison := [], old := [], lines := 0 }
/-- A chunked array operation of 512 steps that stands after its 256th. -/
def chunkRun : CeRun :=
  { ceRun0 with cmd := { mstart0 with op := .mstart (511 <<< 30) 0 0 0 [] [] 0 none }, stage := .tick, tick := 510, ucode := [0, 0, 0, 0, 0, 0, 0, 0] }
/-- A ring of the loader whose first tile, 0, is subscribed, of 64 bytes. -/
def ring0 (filling : Option Nat) : LoadRing :=
  { ring := 5, cmd := { mstart0 with op := .tileSub 0 0 0, unit := 13 }, first := 0, count := 1, size := 64, wb := false, ldVa := 0, stVa := 0
    ldDesc := leBytes 0 4 ++ leBytes 64 4 ++ leBytes 0x3F 120, stDesc := [], fills := 0, nextTile := 0, filling := filling, moved := 0, ended := false
    pos := [], drained := [], heldVa := none, hostWait := none, buffer := [] }
def tile0 (st : TileState) : Tile := { v := true, sub := true, ring := 5, state := st, pitch := 1, rows := 1, rbytes := 64 }
def filler (st : TileState) (r : List LoadRing) (rel : List (Nat × Cmd)) : State :=
  { State.reset with cores := [(0, { tiles := [(0, tile0 st)], rings := r, tileRels := rel })] }
/-- One member of an mstart.g at its queue's head, which counted at the end of the last cycle. -/
def gangStart : State :=
  let m : Cmd := { mstart0 with op := .mstart 0 0 0 0 [] [] 0 (some 0), step := some 1 }
  { State.reset with
    cores := [(0, { ctxs := [(0, { state := .seated, step := some 1 })], queues := [(0, [m])], gReady := [5] })], steps := [step0] }
theorem witness_EnginesProceed : (({ State.reset with cores := [(0, { queues := [(8, [copy0])] })] } : State).nextCmd 0 2
      (({ State.reset with cores := [(0, { queues := [(8, [copy0])] })] } : State).cpReady 0 0)).isSome = true
    ∧ ((copying .waiting 0).xfer 0 0 1).isSome = true ∧ ((copying .waiting 0).xfer 0 0 2).isSome = false
    ∧ (0 : Dword).toNat ≤ (copying .waiting 0).cycle.toNat ∧ ¬ (1 : Dword).toNat ≤ (copying .waiting 1).cycle.toNat
    ∧ (xfer0 .finished 0).stage = .finished ∧ (xfer0 .waiting 0).stage ≠ .finished
    ∧ ((copying .waiting 0).pickXfer 0).isSome = true ∧ ((copying .waiting 0).pickXfer 1).isSome = false
    ∧ (copying .waiting 0).logFull (.copyEngine 0 0) = false
    ∧ ((ceWith ceRun0 none).core 0).ce = some ceRun0 ∧ ceRun0.isArray = true ∧ ceRun0.stage = .due ∧ (State.reset.core 0).ce = none
    ∧ ceRun0.geo.passes ≤ ceRun0.pass + 1 ∧ ({ ceRun0 with cmd := { mstart0 with op := .mstart 0 (0xFF00000000000000) 0 0 [] [] 0 none } }).pass + 1
        < ({ ceRun0 with cmd := { mstart0 with op := .mstart 0 (0xFF00000000000000) 0 0 [] [] 0 none } }).geo.passes
    ∧ ((ceWith ceRun0 none).core 0).saving = none ∧ ((ceWith ceRun0 (some saving1)).core 0).saving ≠ none ∧ ceRun0.atChunk = false
    ∧ (∀ op ∈ [CmdOp.cld 0 0, .cst 0 0, .cflow 0, .cskew 0, .mzero 0, .cprog 0], ({ ceRun0 with cmd := { mstart0 with op := op } }).isArray = false)
    ∧ (0 < regM (meRun0 0).cmd.op.region ∧ regM (meRun0 1).cmd.op.region ≤ (meRun0 1).row) := by decide +kernel
/-- A command alone in the queue of unit u of context 0 of core 0, and what stands in its unit's queue, in service and in the
format table afterwards. -/
def queued (u : Nat) (op : CmdOp) : State :=
  { State.reset with cores := [(0, { ctxs := [(0, { fmt := [(3, 9)] })], queues := [(4 * u, [unitCmd u op])] })] }
def heads (u : Nat) (op : CmdOp) (s : State) : Bool :=
  !(s.core 0).accepted.contains u && !(s.ctx 0 0).fenced (unitCmd u op) && tabGet [] (s.core 0).queues (4 * u) == [unitCmd u op]
    && [1, 2, 3].all (fun x => tabGet [] (s.core 0).queues (4 * u + x) == [])
def accepted (u : Nat) (op : CmdOp) : Core := (run (.engineCommandAccept 0 u) (queued u op)).core 0
theorem witness_EnginesProceed_units : ([(0, CmdOp.cld 0x40 0), (0, .mzero 0x50000), (0, .cflow 0), (1, .mdrain 0 0 0), (2, .copy 0 0 (2 <<< 60) 7),
      (10, .gather 0 0 0 0), (13, .tileDecl 0x4000000005 0x400001 0x107), (14, .fmtWr 0x80 0x13)] : List (Nat × CmdOp)).all
        (fun p => heads p.1 p.2 (queued p.1 p.2) && tabGet [] (accepted p.1 p.2).queues (4 * p.1) == [] && (accepted p.1 p.2).accepted.contains p.1
          && tabGet 3 (accepted p.1 p.2).served p.1 == 0) = true
    ∧ ((queued 0 (.cld 0x40 0)).ceReady (unitCmd 0 (.cld 0x40 0)) && (queued 2 (.copy 0 0 0 7)).cpReady 0 0 (unitCmd 2 (.copy 0 0 0 7))) = true
    ∧ (accepted 0 (.mzero 0x50000)).ce.map (fun r => (r.stage, r.wait)) = some (.tail, 2)
    ∧ (accepted 0 (.cld 0x40 0)).ce.map (fun r => (r.stage, r.wait)) = some (.tick, 1)
    ∧ (accepted 1 (.mdrain 0 0 0)).me.map (fun r => r.words.length) = some 1
    ∧ (tabGet [] (accepted 2 (.copy 0 0 (2 <<< 60) 7)).buffers 0).map (fun x => (x.id, x.teff)) = [(0, 7)]
    ∧ (tabGet {} (accepted 2 (.copy 0 0 (2 <<< 60) 7)).tiles 0).state = .filling
    ∧ (let t := tabGet {} (accepted 13 (.tileDecl 0x4000000005 0x400001 0x107)).tiles 7
       (t.base, t.pitch, t.rows, t.rbytes, t.state)) = (5, 0x40, 1, 0x40, .ready)
    ∧ List.map (tabGet 0 ((accepted 14 (.fmtWr 0x80 0x13)).ctx 0).fmt) [3, 4] = [0x80, 0]
    ∧ ((queued 14 (.fmtWr 0x80 0x13)).fmtReader (unitCmd 14 (.fmtWr 0x80 0x13)) 3) = false := by decide +kernel
/-- A channel command of context 0, its channel to device 1 with an element of 64 bytes behind it. -/
def posting (op : CmdOp) (credit : BitVec 16) : State :=
  { queued 11 op with
    routes := [(0, 0)]
    chans := [(4, { kind := 1, peer := 1, credit := credit, elines := 1, depth := 1 }),
      (5, { kind := 2, peer := 1, rtail := 1, elines := 1, depth := 2, buf := 0x80 })] }.sWrite 0x80 [1, 2, 3]
theorem witness_EnginesProceed_channels : (posting (.chPost 0x80 0 4) 1).pushOrdered (unitCmd 11 (.chPost 0x80 0 4)) = true
    ∧ (posting (.chPost 0x80 0 4) 1).fencedOff (unitCmd 11 (.chPost 0x80 0 4)) = false
    ∧ (∀ die ∈ [0, 1], (posting (.chPost 0x80 0 4) 1).routeNone die 1 = false) ∧ (posting (.chPost 0x80 0 4) 1).fabid ≠ 1
    ∧ (let t := run (.engineCommandAccept 0 11) (posting (.chPost 0x80 0 4) 1)
       ((t.chan 4).credit, t.out.map (fun o => (o.op.dst, o.op.data.take 4, o.op.data.length)))) = (0, [(1, [1, 2, 3, 0], 64)])
    ∧ run (.engineCommandAccept 0 11) (posting (.chPost 0x80 0 4) 0) = posting (.chPost 0x80 0 4) 0
    ∧ (let t := run (.engineCommandAccept 0 11) (posting (.chWait 0x100 0 5) 1)
       ((t.chan 5).rhead, t.sRead 0x100 4, t.out.map (fun o => o.op.dst))) = (1, [1, 2, 3, 0], [1])
    ∧ (posting (.chWait 0x100 0 5) 1).anyTagged 0x100 64 = false := by decide +kernel
/-- A copy of 5,000 bytes within S-space, of which 4,096 are moved. -/
def pieces (moved : Nat) : State :=
  { State.reset with cores := [(0, { buffers := [(0, [{ xfer0 .waiting 0 with
      cmd := { copy0 with op := .copy 0 0x10000 4999 0 }, moved := moved }])] })] }.sWrite 0x1000 [7]
theorem witness_EnginesProceed_pieces : ((pieces 4096).pickXfer 0).map (fun p => (p.1, p.2.1, p.2.2.id)) = some (0, 0, 1)
    ∧ copyLen 4999 = 5000 ∧ ctlSsp 4999 = 0 ∧ ctlDsp 4999 = 0 ∧ (pieces 4096).anyTagged 0x11000 904 = false
    ∧ (let t := run (.copyPiece 0 0) (pieces 4096); (t.sRead 0x11000 2, (t.xfer 0 0 1).map (fun x => (x.moved, x.stage)))) = ([7, 0], some (5000, .finished))
    ∧ ((run (.copyPiece 0 0) (pieces 0)).xfer 0 0 1).map (fun x => (x.moved, x.stage)) = some (4096, .waiting) := by decide +kernel
theorem witness_EnginesProceed_chunk : chunkRun.atChunk = true := by decide +kernel
theorem witness_EnginesProceed_gang : ((allCtxs.filterMap (gangStart.gHead 0)).filter (fun m => (gangStart.core 0).gReady.contains m.serial)).length = 1
    ∧ (gangStart.gangHeads { mstart0 with op := .mstart 0 0 0 0 [] [] 0 (some 0), step := some 1 }).isSome = true
    ∧ (allCtxs.filterMap (State.reset.gHead 0)).filter (fun m => (State.reset.core 0).gReady.contains m.serial) = [] := by decide +kernel
theorem witness_EnginesProceed_tiles : (((filler .empty [ring0 none] []).core 0).rings.find? (fun r => r.ring == 5)).isSome = true
    ∧ ((filler .empty [ring0 none] []).core 0).rings.find? (fun r => r.ring == 6) = none
    ∧ (ring0 none).fills * (ring0 none).size < descBytes (ring0 none).ldDesc
    ∧ descBytes (ring0 none).ldDesc ≤ ({ ring0 none with fills := 1 } : LoadRing).fills * (ring0 none).size
    ∧ ((filler .empty [ring0 none] []).tile 0 0).inRing (ring0 none) = true ∧ ({ tile0 .empty with ring := 6 } : Tile).inRing (ring0 none) = false
    ∧ ((filler .empty [ring0 none] []).tile 0 0).state = .empty ∧ ((filler .empty [ring0 none] []).tile 0 0).sub = true
    ∧ (((filler .filling [ring0 (some 0)] []).core 0).rings.find? (fun r => r.filling == some 0)).isSome = true
    ∧ ((filler .draining [] []).tile 0 0).state = .draining ∧ ((filler .ready [] []).tile 0 0).state ≠ .draining
    ∧ ((filler .draining [] []).core 0).rings.find? (fun r => r.wb && (tabGet none r.pos 0).isSome) = none
    ∧ (((filler .ready [] [(0, mstart0)]).core 0).tileRels.find? (fun p => p.1 == 0)).isSome = true
    ∧ ((filler .ready [] [(0, mstart0)]).core 0).tileUse.any (fun p => p.1 == 0) = false
    ∧ (ring0 none).heldVa = none ∧ (ring0 none).hostWait = none ∧ (ring0 none).ready = true ∧ (ring0 none).ended = false
    ∧ ((filler .ready [] [(0, mstart0)]).core 0).tileRels = [] ++ (0, mstart0) :: []
    ∧ 8 * mstart0.ctx + mstart0.relSlot < 8 * ({ mstart0 with ctx := 1 } : Cmd).ctx + ({ mstart0 with ctx := 1 } : Cmd).relSlot := by decide +kernel
/-- A ring whose tile 0 drains into entry 0 of its region, and the device with it where that page is mapped. -/
def wbRing : LoadRing :=
  { ring0 none with wb := true, stVa := 0x100, stDesc := leBytes 0x601 8 ++ leBytes 0x100 8 ++ leBytes 1 8 ++ leBytes 64 104, pos := [(0, some 0)] }
def draining : State :=
  { mapped [] (filler .draining [wbRing] []) with
    tlbBig := [(0, [{ base := 0, level := 4, pte := 0x1F }])], tlb := [(0, [{ base := 0, level := 2, pte := 0x1F }])] }
theorem witness_EnginesProceed_drains : ((draining.core 0).rings.find? (fun r => r.wb && (tabGet none r.pos 0).isSome)) = some wbRing
    ∧ wbRing.heldVa = none ∧ wbRing.hostWait = none ∧ 0 < (draining.tile 0 0).bytes ∧ 0 * (draining.tile 0 0).bytes + 0 < descBytes wbRing.stDesc
    ∧ (draining.tile 0 0).bytes - 0 ≤ (descByte wbRing.stDesc (0 * (draining.tile 0 0).bytes + 0)).2
    ∧ descBytes wbRing.stDesc ≤ 1 * (draining.tile 0 0).bytes + 0
    ∧ (match draining.writeSide (draining.loaderOf 0 wbRing) true (descByte wbRing.stDesc 0).1 (draining.readTile 0 (draining.tile 0 0) 0 64) [] with
        | .done _ => true
        | _ => false) = true := by decide +kernel
/-- An entry of a side log; the logs of the 16 copy engines of die 0, all full. -/
def logEntry (n : Nat) : LogEntry :=
  { unit := .copyEngine 0 n, va := 0, op := .store, data := [], core := 0, ctx := 0, arrival := none, migrating := false, serial := 0 }
def fullLogs : State := { State.reset with sideLogs := (rangeFrom 0 16).flatMap (fun n => List.replicate 512 (logEntry n)) }
theorem witness_EnginesProceed_full : ((rangeFrom 0 16).all (fun n => fullLogs.logFull (.copyEngine 0 n)) && !fullLogs.logFull (.copyEngine 1 0)) = true := by
  decide +kernel
/-- A walk under way on die 1 of a mapped page, and of one that is not. -/
def walking (va : Dword) : State := { mapped [] State.reset with walks := [{ die := 1, va := va, asked := 0, core := some 64 }] }
theorem witness_EnginesProceed_saves : ({ State.reset with cores := [(3, { saving := some saving1 })] } : State).core 3 = { saving := some saving1 }
    ∧ State.reset.saveStatus none 1 (some ((rangeFrom 0 128).map (fun k => tabGet 0 [(1, (0x10000 : Dword))] k))) = .inl 1
    ∧ (match ({ State.reset with cores := [(1, busyCore)], steps := [step1] } : State).saveStatus none 1
          (some ((rangeFrom 0 128).map (fun k => tabGet 0 [(1, (0x10000 : Dword))] k))) with
        | .inr cs => cs == [1]
        | .inl _ => false) = true
    ∧ ((walking 0x12345).walks.find? (fun w => w.die == 1 && w.va.toNat / 0x10000 == 0x10000 / 0x10000)).isSome = true
    ∧ ((walking 0x12345).walk 0x12345).isSome = true ∧ (walking 0x400000000).walk 0x400000000 = none
    ∧ (walking 0x12345).walkHeld 0x12345 = false ∧ ({ walking 0x12345 with sill := { walksHeld := 1 } } : State).walkHeld 0x12345 = true
    ∧ State.reset.session.state ≠ .opened ∧ (walking 0).session.state = .opened := by decide +kernel

/-- A write of stream 2 with a sequence number, at a mapped address. -/
def streamOp (seq : BitVec 24) : RemoteOp := { readOp 0x100 with op := opWrite, stream := 2, seq := seq, data := [1, 2, 3, 4] }
/-- The mapped session with arrivals, and the page in the TLB of die 0. -/
def arrived (qs : List RemoteOp) : State :=
  { mapped [] State.reset with inbox := qs, tlbBig := [(0, [{ base := 0, level := 4, pte := 0x1F }])], tlb := [(0, [{ base := 0, level := 2, pte := 0x1F }])] }
/-- Whether a commit is performed at once. -/
def commits (c : Commit) : Bool :=
  match c with
  | .done _ => true
  | .waits _ => false
/-- A remote operation of the collectives, and the ring channel 4 it reaches. -/
def collective (rop : BitVec 8) (seq : BitVec 24) : RemoteOp :=
  { readOp 5 with op := opCollective, rop := rop, src := 3, auxop := if rop == ropSetup then 4 else seq.zeroExtend 64, tag := 4 <<< 48, data := leBytes 0 64 }
def ringOn (c : Chan) : State := { State.reset with chans := [(4, c)] }
def ringChan : Chan := { kind := 3, prev := 3, origins := [5], running := some mstart0, chunk := 64 }
theorem witness_FabricOperationsAct_arrivals : isStreamOp (streamOp 0) = true ∧ (arrived [streamOp 0]).portStalled 0 = false
    ∧ isStreamOp (readOp 0) = false
    ∧ (∀ p ∈ ([(0, 0), (1, 1), (127, 127), (128, 128), (0xFFFFFF, 2 ^ 24 - 1)] : List (BitVec 24 × Nat)),
        ((streamOp p.1).seq - tabGet 0 (arrived []).expected (commitKey (streamOp p.1))).toNat = p.2)
    ∧ commits ((arrived []).commitOp (streamOp 0)) = true ∧ commits ((arrived []).commitOp { streamOp 0 with stream := 0 }) = true
    ∧ (arrived []).window = [] ∧ (arrived []).sideLogs = []
    ∧ ({ State.reset with out := [{ sentOut with stage := .refused 1 }] } : State).out[0]? = some { sentOut with stage := .refused 1 }
    ∧ State.reset.out[0]? = none ∧ State.reset.cycle.toNat < (1 : Dword).toNat ∧ (0 : Dword).toNat ≤ State.reset.cycle.toNat
    ∧ sentOut.op.dst = State.reset.fabid ∧ ({ sentOut with op := { readOp 0 with dst := 1 } }).op.dst ≠ State.reset.fabid
    ∧ sentOut.firstSent = some 0 ∧ sentOut.kind ≠ .response ∧ (0 : Dword).toNat + 150000000 ≤ (150000000 : Dword).toNat
    ∧ (collective ropSetup 0).op = opCollective ∧ ((ringOn ringChan).chan 4).kind = 3 ∧ (collective ropSetup 0).src = ((ringOn ringChan).chan 4).prev
    ∧ (collective ropSetup 0).vaddr.toNat % 2048 ≠ (ringOn ringChan).fabid.toNat
    ∧ (collective ropSetup 0).vaddr.toNat % 2048 ∈ ((ringOn ringChan).chan 4).origins
    ∧ (collective ropSetup 0).tag ∉ ((ringOn ringChan).chan 4).setupTags
    ∧ (collective ropSetup 0).tag ∈ ((ringOn { ringChan with setupTags := [(collective ropSetup 0).tag] }).chan 4).setupTags
    ∧ (collective ropSetup 0).vaddr.toNat % 2048 ∉ ((ringOn { ringChan with origins := [], setup := true }).chan 4).origins
    ∧ (collective 0 0).rop ≠ ropSetup ∧ bits (collective 0 0).tag.toNat 58 48 = 4 ∧ ((ringOn ringChan).chan 4).setup = false
    ∧ (collective 0 0).auxop.extractLsb' 0 24 = ((ringOn ringChan).chan 4).seq ∧ ((ringOn ringChan).chan 4).running.isSome = true
    ∧ bits (collective 0 0).tag.toNat 47 32 = ((ringOn ringChan).chan 4).step.toNat
    ∧ bits (collective 0 0).tag.toNat 31 0 ∉ ((ringOn ringChan).chan 4).bitmap ∧ ((ringOn { ringChan with setup := true }).chan 4).setup = true
    ∧ ringChan.ownBack = false ∧ ringChan.broken = false ∧ ({ ringChan with broken := true } : Chan).broken = true
    ∧ (2 ^ 23 ≤ ((0xFFFFFF : BitVec 24) - ringChan.seq).toNat ∧ 0 < ((1 : BitVec 24) - ringChan.seq).toNat) := by
  decide +kernel
/-- Arrivals of the other kinds, and an operation that waits behind another of its channel. -/
theorem witness_FabricOperationsAct_kinds : ({ readOp 0 with op := opAck }).op == opAck ∧ ({ readOp 0 with op := opReadData }).op == opReadData
    ∧ (readOp 0).op == opReadReq ∧ ({ readOp 0 with op := opWrite, rop := ropElement } : RemoteOp).isElement = true
    ∧ ({ readOp 0 with op := opWrite, rop := ropElement ||| ropPoison } : RemoteOp).isElement = false
    ∧ (let q : RemoteOp := { readOp 0 with op := opWrite, rop := ropCredit }; q.op == opWrite && q.rop == ropCredit && q.stream == 0) = true
    ∧ State.behind [{ sentOut with kind := .element 4 1 }] { sentOut with kind := .element 4 2 } = true
    ∧ State.behind [] { sentOut with kind := .element 4 2 } = false
    ∧ (∃ h ∈ (({ State.reset with window := [streamOp 1] } : State)).window, h.sameStream (streamOp 1) = true ∧ h.seq = (streamOp 1).seq) := by
  decide +kernel

/-- A flit under the keys of a slot: its tag is the one that its header and a payload of zeros ask for (R216). -/
def sealed (k : KeySlot) (h : BitVec 128) : Flit :=
  { header := h, payload := leBytes 0 224
    tag := BitVec.ofNat 128 (leNat (gcmTag k.gcm (gcmIv k (hIc h)) (leBytes h.toNat 16) (leBytes 0 224))) }
/-- A slot that receives, under key 0. -/
def slot0 : KeySlot := { rxOpen := true, tx := .active }
theorem leBytes_leNat (bs : List Byte) : leBytes (leNat bs) bs.length = bs := by
  induction bs with
  | nil => rfl
  | cons b bs ih =>
    have hb := b.isLt
    have h1 : BitVec.ofNat 8 (b.toNat + 256 * leNat bs) = b := by
      apply BitVec.eq_of_toNat_eq
      rw [BitVec.toNat_ofNat]
      omega
    have h2 : (b.toNat + 256 * leNat bs) / 256 = leNat bs := by omega
    simp only [leNat, List.length_cons, leBytes, h1, h2, ih]
theorem leNat_lt (bs : List Byte) : leNat bs < 256 ^ bs.length := by
  induction bs with
  | nil => simp [leNat]
  | cons b bs ih =>
    have hb := b.isLt
    simp only [leNat, List.length_cons, Nat.pow_succ]
    omega
theorem length_gcmTag (iv aad ct : List Byte) (h : (slot0.gcm.ks.getD 14 []).length = 16) : (gcmTag slot0.gcm iv aad ct).length = 16 := by
  simp only [gcmTag, aesBlock, xorBytes, beBytes, List.length_zipWith, List.length_reverse, Sys2Proof.Machine.length_leBytes, shiftRows, List.length_map,
    length_rangeFrom, h]
  rfl
theorem sealed_verifies (h : BitVec 128) : verifyFlit slot0 (sealed slot0 h) = true := by
  have hk : (slot0.gcm.ks.getD 14 []).length = 16 := by decide +kernel
  have hl := length_gcmTag (gcmIv slot0 (hIc h)) (leBytes h.toNat 16) (leBytes 0 224) hk
  have hlt := leNat_lt (gcmTag slot0.gcm (gcmIv slot0 (hIc h)) (leBytes h.toNat 16) (leBytes 0 224))
  rw [hl] at hlt
  have hr := leBytes_leNat (gcmTag slot0.gcm (gcmIv slot0 (hIc h)) (leBytes h.toNat 16) (leBytes 0 224))
  rw [hl] at hr
  have ht : (BitVec.ofNat 128 (leNat (gcmTag slot0.gcm (gcmIv slot0 (hIc h)) (leBytes h.toNat 16) (leBytes 0 224)))).toNat
      = leNat (gcmTag slot0.gcm (gcmIv slot0 (hIc h)) (leBytes h.toNat 16) (leBytes 0 224)) := by
    rw [BitVec.toNat_ofNat]
    exact Nat.mod_eq_of_lt (by simpa using hlt)
  simp only [verifyFlit, sealed, ht, hr, Sys2Proof.Machine.length_leBytes]
  simp

/-- A header of a kind, with key slot 0 and counter 0. -/
def headerOf (kind : Nat) : BitVec 128 := BitVec.ofNat 128 (kind <<< 120)
/-- Link 46 UP, under key 0. -/
def linkUp : Link := { state := .up, k0 := slot0 }
def onLink (l : Link) : State := { State.reset with links := [(46, l)] }
theorem witness_FabricOperationsAct_flits : (∀ h, hKs h = false → hIc h = 0 → (onLink linkUp).accepts 46 (sealed slot0 h) = true)
    ∧ (∀ k ∈ [kIdle, kData, kAck, kRetry, kCredit, kKeymark, kDrain], hKind (headerOf k) = k ∧ hKs (headerOf k) = false ∧ hIc (headerOf k) = 0)
    ∧ ((onLink linkUp).link 46).listens = true ∧ (onLink linkUp).accepts 46 noFlit = false ∧ (State.reset.link 46).listens = false
    ∧ 8 ≤ hKind (headerOf 8) ∧ hKind (headerOf 8) ≠ kIdle
    ∧ (hKind (headerOf kHello) = kHello ∧ ((onLink { state := .training }).link 46).state = .training ∧ noFlit.tag = 0)
    ∧ carrying (onLink linkUp) 46 ∧ ¬ carrying State.reset 46 := by
  refine ⟨fun h hs hi => ?_, by decide +kernel, by decide +kernel, by decide +kernel, by decide +kernel, by decide +kernel, by decide +kernel,
    by decide +kernel, ?_, ?_⟩
  · have hv := sealed_verifies h
    simp only [State.accepts, sealed, hs, hi] at *
    show (slot0.rxOpen && decide (slot0.rxic.toNat ≤ (0 : BitVec 48).toNat) && verifyFlit slot0 _) = true
    rw [hv]
    rfl
  · unfold carrying; decide +kernel
  · unfold carrying; decide +kernel

/-- A write to device 1 at the port, whose member of the group link 0 reaches; and a flit on its way through. -/
def leaving : State :=
  { State.reset with
    links := [(0, linkUp)], out := [{ sentOut with op := { readOp 0 with dst := 1, data := leBytes 0 200 }, stage := .port 0, firstSent := none }] }
def passing : State :=
  { State.reset with
    links := [(0, linkUp)]
    transit := [{ kind := 1, vc := 0, dst := 1, src := 2, lseq := 0, hops := 0, len := 0, payload := [], resend := false }] }
theorem witness_FabricOperationsAct_sends : ((passing.transit.find? (fun f => (passing.nextHops (linkDie 0) f.dst).contains 0)).isSome = true)
    ∧ State.reset.transit = [] ∧ State.reset.out = [] ∧ leaving.transit = [] ∧ (leaving.out.map (fun o => (leaving.hops o).contains 0)) = [true]
    ∧ (leaving.out.map (fun o => leaving.dataOpen 0 (vcOf o.op.op))) = [true] ∧ 0 + 1 < flitCount 200
    ∧ leaving.cycle.toNat < (leaving.link 0).lastSent.toNat + 1024
    ∧ (({ leaving with cycle := 1024 } : State).link 0).lastSent.toNat + 1024 ≤ ({ leaving with cycle := 1024 } : State).cycle.toNat
    ∧ (leaving.portReady 0 0 = true ∧ leaving.dataOpen 0 (leaving.portVc 0) = true) ∧ flitCount 200 ≤ 1 + 1
    ∧ (onLink linkUp).out = [] ∧ ((onLink linkUp).link 46).sendSlot.isSome = true ∧ ((onLink linkUp).link 46).dueCount = 0
    ∧ ((onLink linkUp).link 46).ackDue = false ∧ ((onLink linkUp).link 46).retryReq = none ∧ ((onLink linkUp).link 46).creditDue = []
    ∧ ((onLink linkUp).link 46).switchDue = false ∧ ((onLink { state := .up }).link 46).sendSlot = none
    ∧ (leaving.link 0).state = .up ∧ ((onLink { state := .training }).link 46).state = .training ∧ (State.reset.link 0).state = .down := by
  decide +kernel

end Sys2Proof.Tests
end

section
/-!
Proofs of the software traps (R336): what a delivered cause leaves in the state (R249), the fields of TRAPINFO (Table 2.7),
and the triggers whose only effect is the cause they raise.
-/

namespace Sys2Proof.Proofs.SoftwareTraps
open Sys2Proof Sys2Proof.Machine Sys2Proof.Claims

/-! ## The fields of TRAPINFO (Table 2.7) -/

/-- TRAPINFO bit by bit; the four fields below are read off it. -/
theorem trapInfoWord_bit (slot : Option Nat) (aux addr i : Nat) :
    (trapInfoWord slot aux addr).getLsbD i =
      if i < 52 then (BitVec.ofNat 52 addr).getLsbD i
      else if i < 60 then (BitVec.ofNat 8 aux).getLsbD (i - 52)
      else if i < 61 then slot.isSome
      else (BitVec.ofNat 3 (slot.getD 0)).getLsbD (i - 61) := by
  refine BitVec.getLsbD_append.trans ?_
  by_cases h1 : i < 52
  · simp [h1]
  · have e2 : i - 52 < 8 ↔ i < 60 := by omega
    have e3 : i - 52 - 8 < 1 ↔ i < 61 := by omega
    have e4 : i - 52 - 8 - 1 = i - 61 := by omega
    simp only [BitVec.getLsbD_append, h1, e2, e3, e4, if_false]
    by_cases h3 : i < 61
    · have e5 : i - 52 - 8 = 0 := by omega
      simp [h3, e5]
    · simp [h3]

theorem trapInfoWord_addr (slot : Option Nat) (aux addr : Nat) :
    (trapInfoWord slot aux addr).extractLsb' 0 52 = BitVec.ofNat 52 addr := by
  apply BitVec.eq_of_getLsbD_eq
  intro i hi
  simp [trapInfoWord_bit, hi]

theorem trapInfoWord_aux (slot : Option Nat) (aux addr : Nat) :
    (trapInfoWord slot aux addr).extractLsb' 52 8 = BitVec.ofNat 8 aux := by
  apply BitVec.eq_of_getLsbD_eq
  intro i hi
  have h : 52 + i < 60 := by omega
  simp [trapInfoWord_bit, hi, h]

theorem trapInfoWord_slotValid (slot : Option Nat) (aux addr : Nat) :
    (trapInfoWord slot aux addr).getLsbD 60 = slot.isSome := by
  rw [trapInfoWord_bit]; rfl

theorem trapInfoWord_slot (slot : Option Nat) (aux addr : Nat) :
    (trapInfoWord slot aux addr).extractLsb' 61 3 = BitVec.ofNat 3 (slot.getD 0) := by
  apply BitVec.eq_of_getLsbD_eq
  intro i hi
  have h : ¬ 61 + i < 52 ∧ ¬ 61 + i < 60 := by omega
  simp [trapInfoWord_bit, hi, h]

/-! ## Delivery of a cause (R249) -/

/-- A context without records and requests of a `task.post` has nothing to drop (R326). -/
theorem dropPost_idle {s : State} {c x : Nat} (hd : ∀ d ∈ s.hostData, d.reader ≠ some (c, x))
    (hp : ∀ r ∈ s.hostPending, ∀ a, r.who ≠ .post c x a) : s.dropPost c x = s := by
  have kept : s.hostData.filter (fun d => d.reader != some (c, x)) = s.hostData :=
    List.filter_eq_self.mpr (fun d h => by simpa using hd d h)
  have same : (s.dropPost c x).hostPending = s.hostPending := by
    refine (List.map_congr_left fun r h => (?_ : _ = id r)).trans (List.map_id _)
    split
    · next d y a e =>
      refine if_neg (fun hq => hp r h a ?_)
      simp only [Bool.and_eq_true, beq_iff_eq] at hq
      rw [e, hq.1, hq.2]
    · rfl
  calc s.dropPost c x
      _ = { s with hostData := s.hostData.filter (fun d => d.reader != some (c, x))
                   hostPending := (s.dropPost c x).hostPending } := rfl
      _ = s := by rw [kept, same]

/-- A delivery touches its context and the event counts; all else is as `dropPost` leaves it. -/
theorem near_deliver (s : State) (c x : Nat) (t : Trap) : Near (s.dropPost c x) (s.deliver c x t) c x :=
  (near_modCtx ..).trans (near_event ..)

theorem ctx_deliver (s : State) (c x : Nat) (t : Trap) : (s.deliver c x t).ctx c x = (s.ctx c x).takeTrap t :=
  (ctx_event ..).trans (ctx_modCtx_same ..)

/-- On the user plane a cause is delivered, with all that `Delivered` says of it. -/
theorem delivered_raise {s : State} (hu : s.hereSys = false) (t : Trap) :
    Delivered s (s.raise s.turn.core s.turn.ctx t) t.cause t.info := by
  have hr : s.raise s.turn.core s.turn.ctx t = s.deliver s.turn.core s.turn.ctx t :=
    if_neg (Bool.eq_false_iff.mp hu)
  have N := near_deliver s s.turn.core s.turn.ctx t
  have hcx : after s (s.deliver s.turn.core s.turn.ctx t) = s.hereCtx.takeTrap t := ctx_deliver ..
  unfold Delivered
  rw [hr, hcx]
  exact ⟨rfl, rfl, rfl, rfl, rfl, rfl, rfl, rfl, rfl, rfl, rfl, rfl, rfl, rfl, rfl, N.device,
    fun hd hp => N.device.trans (congrArg State.aside (dropPost_idle hd hp)), rfl, N.cores, N.core, N.contexts⟩

/-! ## Triggers that raise a cause -/

/-- An operation that does nothing but raise cause c, with bits 7-0 of the moved value as its code (R336). -/
def codeRaiser (c : BitVec 8) : Op := { weight := 2, raises := fun a => some (c, a.val.toNat % 256) }

theorem exec_trapOp (m : Mv) (s : State) : exec (.trapOp m) s = issueTrigger m 0x315 (codeRaiser 0x10) s := exec_trigger rfl s
theorem exec_breakOp (m : Mv) (s : State) : exec (.breakOp m) s = issueTrigger m 0x316 (codeRaiser 0x11) s := exec_trigger rfl s

/-- Its trigger stops at its cause, since it has no other check. -/
theorem codeRaiser_traps {s : State} {m : Mv} {d : BitVec 10} (h : s.ready m d [] = true) (c : BitVec 8) :
    s.Traps (issueTrigger m d (codeRaiser c) s) c ((s.movedVal m d).toNat % 256) 0 :=
  ready_traps h rfl (.inl rfl) rfl (.inl rfl) rfl rfl rfl

/-- What `trap` and `break` do on the user plane: their cause is delivered, and TRAPINFO names the slot and holds the
code. XLATE.PERM alone names no slot (Table 9.2). -/
theorem codeRaiser_delivers {s : State} {m : Mv} {d : BitVec 10} (hu : s.hereSys = false) (h : s.ready m d [] = true)
    {c : BitVec 8} (hc : c ≠ causeXlatePerm) :
    ∃ t info, issueTrigger m d (codeRaiser c) s = .next t ∧ Delivered s t c info
      ∧ info.extractLsb' 52 8 = (s.movedVal m d).extractLsb' 0 8 ∧ info.getLsbD 60 = true
      ∧ info.extractLsb' 61 3 = BitVec.ofNat 3 s.turn.slot ∧ info.extractLsb' 0 52 = 0 := by
  have code : BitVec.ofNat 8 ((s.movedVal m d).toNat % 256) = (s.movedVal m d).extractLsb' 0 8 := by
    apply BitVec.eq_of_toNat_eq
    simp
  refine ⟨_, _, codeRaiser_traps h c, delivered_raise hu _, ?_, ?_, ?_, ?_⟩
  · rw [trapInfoWord_aux, code]
  · rw [trapInfoWord_slotValid, if_neg hc]; rfl
  · rw [trapInfoWord_slot, if_neg hc]; rfl
  · exact trapInfoWord_addr ..

/-- Settles O33: `trap` and `break` are stopped by the cause they raise themselves, and that cause is delivered. -/
theorem softwareTrapsAreTaken : Obligations.SoftwareTrapsAreTaken := by
  intro s m hu _
  rw [exec_trapOp, exec_breakOp]
  exact ⟨fun h => codeRaiser_delivers hu h (by decide), fun h => codeRaiser_delivers hu h (by decide)⟩

end Sys2Proof.Proofs.SoftwareTraps
end

section
/-!
Proofs of the scalar units: what the counts, fields and extensions of Table 14.1 are bit by bit (R361, R362), the minima,
quotients and remainders as integers (R361, R363), and the operations of sa0, sa1 and sm that yield them.
-/

namespace Sys2Proof.Proofs.ScalarUnits
open Sys2Proof Sys2Proof.Machine Sys2Proof.Claims

/-! ## Counts (R361) -/

theorem clz64_zero : clz64 0 = 64 := if_pos rfl

/-- The leading 1 of a value that is not 0 stands at its binary logarithm. -/
theorem sub_clz64_eq_log2 {v : Dword} (h : v ≠ 0) : 63 - (clz64 v).toNat = v.toNat.log2 := by
  have h0 : v.toNat ≠ 0 := BitVec.toNat_ne_iff_ne.mpr h
  have hlog : v.toNat.log2 < 64 := (Nat.log2_lt h0).mpr v.isLt
  rw [clz64, if_neg h, BitVec.toNat_ofNat]
  omega

theorem clz64_bits {v : Dword} (h : v ≠ 0) :
    v.getLsbD (63 - (clz64 v).toNat) = true ∧ ∀ j, 63 - (clz64 v).toNat < j → v.getLsbD j = false := by
  have h0 : v.toNat ≠ 0 := BitVec.toNat_ne_iff_ne.mpr h
  rw [sub_clz64_eq_log2 h]
  refine ⟨Nat.testBit_log2 h0, fun j hj => Nat.testBit_lt_two_pow ?_⟩
  calc v.toNat < 2 ^ (v.toNat.log2 + 1) := Nat.lt_log2_self
    _ ≤ 2 ^ j := Nat.pow_le_pow_right (by decide) hj

theorem ctzFrom_le (k n : Nat) : ctzFrom k n ≤ k := by
  induction k generalizing n with
  | zero => exact Nat.le_refl 0
  | succ k ih =>
    have := ih (n / 2)
    unfold ctzFrom
    split <;> omega

theorem ctzFrom_bits {k n : Nat} (h0 : n ≠ 0) (hk : n < 2 ^ k) :
    n.testBit (ctzFrom k n) = true ∧ ∀ j, j < ctzFrom k n → n.testBit j = false := by
  induction k generalizing n with
  | zero => omega
  | succ k ih =>
    unfold ctzFrom
    split
    · next odd => exact ⟨by simpa using odd, fun j hj => absurd hj (Nat.not_lt_zero j)⟩
    · next even =>
      obtain ⟨one, zeros⟩ := ih (n := n / 2) (by omega) (by omega)
      refine ⟨by rwa [Nat.add_comm, Nat.testBit_add_one], fun j hj => ?_⟩
      cases j with
      | zero => simpa using even
      | succ j => rw [Nat.testBit_add_one]; exact zeros j (by omega)

theorem ctz64_toNat (v : Dword) : (ctz64 v).toNat = ctzFrom 64 v.toNat := by
  have := ctzFrom_le 64 v.toNat
  rw [ctz64, BitVec.toNat_ofNat]
  omega

theorem ctz64_bits {v : Dword} (h : v ≠ 0) :
    v.getLsbD (ctz64 v).toNat = true ∧ ∀ j, j < (ctz64 v).toNat → v.getLsbD j = false := by
  rw [ctz64_toNat]
  exact ctzFrom_bits (BitVec.toNat_ne_iff_ne.mpr h) v.isLt

theorem ctz64_zero : ctz64 0 = 64 := by decide

theorem popFrom_eq_count (k n : Nat) : popFrom k n = (List.range k).countP n.testBit := by
  induction k generalizing n with
  | zero => rfl
  | succ k ih =>
    have tail : (n.testBit ∘ Nat.succ) = (n / 2).testBit := funext (Nat.testBit_add_one n)
    have head : n % 2 = if n.testBit 0 then 1 else 0 := by
      simp only [Nat.testBit_zero, decide_eq_true_eq]
      split <;> omega
    rw [popFrom, ih, List.range_succ_eq_map, List.countP_cons, List.countP_map, tail, ← head, Nat.add_comm]

theorem popc64_toNat (v : Dword) : (popc64 v).toNat = ((List.range 64).filter (fun j => v.getLsbD j)).length := by
  have bound : (List.range 64).countP v.toNat.testBit ≤ 64 := by
    simpa using List.countP_le_length (p := v.toNat.testBit) (l := List.range 64)
  rw [popc64, popFrom_eq_count, BitVec.toNat_ofNat, Nat.mod_eq_of_lt (by omega), List.countP_eq_length_filter]
  rfl

/-! ## Extensions and fields (R361, R362) -/

/-- Sign extension keeps the low bits and copies the topmost of them upward. -/
theorem sextNat_bit (w n j : Nat) (hj : j < 64) :
    (BitVec.ofInt 64 (sextNat (w + 1) n)).getLsbD j = n.testBit (min j w) := by
  have value : sextNat (w + 1) n = (BitVec.ofNat (w + 1) n).toInt := by
    rw [BitVec.toInt_eq_msb_cond, BitVec.msb_eq_decide, BitVec.toNat_ofNat, sextNat]
    simp
  have extended : BitVec.ofInt 64 (sextNat (w + 1) n) = (BitVec.ofNat (w + 1) n).signExtend 64 := by
    rw [value]; rfl
  rw [extended, BitVec.getLsbD_signExtend]
  by_cases h : j < w + 1
  · have least : min j w = j := by omega
    simp only [hj, h, least, decide_true, Bool.true_and, if_true, BitVec.getLsbD_ofNat]
  · have least : min j w = w := by omega
    simp only [hj, h, least, decide_true, Bool.true_and, if_false, BitVec.msb_eq_getLsbD_last, BitVec.getLsbD_ofNat,
      Nat.add_sub_cancel, Nat.lt_succ_self]

theorem sextFrom_bit (a v : Dword) (j : Nat) (hj : j < 64) :
    (sextFrom a v).getLsbD j = a.getLsbD (min j (v.toNat % 64)) :=
  sextNat_bit (v.toNat % 64) a.toNat j hj

theorem zextFrom_bit (a v : Dword) (j : Nat) (hj : j < 64) :
    (zextFrom a v).getLsbD j = (decide (j ≤ v.toNat % 64) && a.getLsbD j) := by
  simp only [zextFrom, BitVec.getLsbD_ofNat, Nat.testBit_mod_two_pow, BitVec.testBit_toNat, hj, decide_true, Bool.true_and,
    Nat.lt_succ_iff]

/-- A field is the bits of its width from its least bit on. -/
theorem fieldOf_bit (a v : Dword) (j : Nat) :
    (fieldOf a v).testBit j = (decide (j ≤ v.toNat / 256 % 64) && a.getLsbD (v.toNat % 64 + j)) := by
  simp only [fieldOf, fieldWidth, fieldLsb, Nat.testBit_mod_two_pow, Nat.testBit_div_two_pow, BitVec.testBit_toNat,
    Nat.lt_succ_iff, Nat.add_comm (v.toNat % 64)]

theorem bfxuVal_bit (a v : Dword) (j : Nat) (hj : j < 64) :
    (bfxuVal a v).getLsbD j = (decide (j ≤ v.toNat / 256 % 64) && a.getLsbD (v.toNat % 64 + j)) := by
  simp only [bfxuVal, BitVec.getLsbD_ofNat, fieldOf_bit, hj, decide_true, Bool.true_and]

theorem bfxVal_bit (a v : Dword) (j : Nat) (hj : j < 64) :
    (bfxVal a v).getLsbD j = a.getLsbD (v.toNat % 64 + min j (v.toNat / 256 % 64)) :=
  calc (bfxVal a v).getLsbD j
    _ = (fieldOf a v).testBit (min j (v.toNat / 256 % 64)) := sextNat_bit (v.toNat / 256 % 64) (fieldOf a v) j hj
    _ = a.getLsbD (v.toNat % 64 + min j (v.toNat / 256 % 64)) := by simp [fieldOf_bit]

/-- The mask of a field has its 1 bits where the field stands. -/
theorem fieldMask_bit (v : Dword) (j : Nat) (hj : j < 64) :
    (BitVec.ofNat 64 ((2 ^ fieldWidth v - 1) * 2 ^ fieldLsb v)).getLsbD j
      = decide (v.toNat % 64 ≤ j ∧ j ≤ v.toNat % 64 + v.toNat / 256 % 64) := by
  have top : j - v.toNat % 64 < v.toNat / 256 % 64 + 1 ↔ j ≤ v.toNat % 64 + v.toNat / 256 % 64 := by omega
  simp only [fieldWidth, fieldLsb, BitVec.getLsbD_ofNat, Nat.testBit_mul_two_pow, Nat.testBit_two_pow_sub_one, hj, top,
    decide_true, Bool.true_and, Bool.decide_and]

theorem bfiVal_bit (a b v : Dword) (j : Nat) (hj : j < 64) :
    (bfiVal a b v).getLsbD j
      = if v.toNat % 64 ≤ j ∧ j ≤ v.toNat % 64 + v.toNat / 256 % 64 then b.getLsbD (j - v.toNat % 64) else a.getLsbD j := by
  simp only [bfiVal, BitVec.getLsbD_or, BitVec.getLsbD_and, BitVec.getLsbD_not, fieldMask_bit v j hj]
  by_cases inside : v.toNat % 64 ≤ j ∧ j ≤ v.toNat % 64 + v.toNat / 256 % 64
  · have least : ¬ j < v.toNat % 64 := by omega
    have below : j - v.toNat % 64 < 64 := by omega
    simp [inside, fieldLsb, hj, least, below]
  · simp [inside, hj]

/-- The slice number and the byte offset share no bit, so their sum is their union. -/
theorem sbaseVal_eq (a v : Dword) : sbaseVal a v = ((a &&& 0x7F) <<< 23) ||| (v &&& 0x7FFFFF) := by
  have core : (a &&& 0x7F).toNat = a.toNat % 2 ^ 7 := Nat.and_two_pow_sub_one_eq_mod a.toNat 7
  have offset : (v &&& 0x7FFFFF).toNat = v.toNat % 2 ^ 23 := Nat.and_two_pow_sub_one_eq_mod v.toNat 23
  have low : v.toNat % 2 ^ 23 < 2 ^ 23 := Nat.mod_lt _ (by decide)
  apply BitVec.eq_of_toNat_eq
  rw [sbaseVal, BitVec.toNat_or, BitVec.toNat_shiftLeft, core, offset, BitVec.toNat_ofNat, Nat.shiftLeft_eq,
    Nat.mod_eq_of_lt (a := a.toNat % 2 ^ 7 * 2 ^ 23) (by omega), ← Nat.shiftLeft_eq, ← Nat.shiftLeft_add_eq_or_of_lt low,
    Nat.shiftLeft_eq]
  omega

/-! ## Minima and maxima (R361) -/

theorem min_signed (a v : Dword) : (if a.slt v then a else v) = BitVec.ofInt 64 (min a.toInt v.toInt) := by
  by_cases h : a.toInt < v.toInt
  · simp [BitVec.slt_eq_decide, h, Int.min_eq_left (Int.le_of_lt h)]
  · simp [BitVec.slt_eq_decide, h, Int.min_eq_right (Int.not_lt.mp h)]

theorem max_signed (a v : Dword) : (if a.slt v then v else a) = BitVec.ofInt 64 (max a.toInt v.toInt) := by
  by_cases h : a.toInt < v.toInt
  · simp [BitVec.slt_eq_decide, h, Int.max_eq_right (Int.le_of_lt h)]
  · simp [BitVec.slt_eq_decide, h, Int.max_eq_left (Int.not_lt.mp h)]

theorem min_unsigned (a v : Dword) : (if a.ult v then a else v) = BitVec.ofNat 64 (min a.toNat v.toNat) := by
  by_cases h : a.toNat < v.toNat
  · simp [BitVec.ult_eq_decide, h, Nat.min_eq_left (Nat.le_of_lt h)]
  · simp [BitVec.ult_eq_decide, h, Nat.min_eq_right (Nat.not_lt.mp h)]

theorem max_unsigned (a v : Dword) : (if a.ult v then v else a) = BitVec.ofNat 64 (max a.toNat v.toNat) := by
  by_cases h : a.toNat < v.toNat
  · simp [BitVec.ult_eq_decide, h, Nat.max_eq_right (Nat.le_of_lt h)]
  · simp [BitVec.ult_eq_decide, h, Nat.max_eq_left (Nat.not_lt.mp h)]

/-! ## Quotients and remainders (R363)

The one quotient out of range, of the least number by -1, is taken modulo 2^64. -/

theorem divVal_eq (a v : Dword) :
    divVal a v = if v = 0 then 0xFFFFFFFFFFFFFFFF else BitVec.ofInt 64 (a.toInt.tdiv v.toInt) := by
  have quotient : a.sdiv v = BitVec.ofInt 64 (a.toInt.tdiv v.toInt) :=
    BitVec.eq_of_toInt_eq (by rw [BitVec.toInt_sdiv, BitVec.toInt_ofInt])
  rw [divVal, quotient]
  rfl

theorem remVal_eq (a v : Dword) : remVal a v = if v = 0 then a else BitVec.ofInt 64 (a.toInt.tmod v.toInt) := by
  rw [remVal, ← BitVec.toInt_srem, BitVec.ofInt_toInt]

theorem divuVal_eq (a v : Dword) :
    divuVal a v = if v = 0 then 0xFFFFFFFFFFFFFFFF else BitVec.ofNat 64 (a.toNat / v.toNat) := by
  rw [divuVal, BitVec.udiv_def]
  rfl

theorem remuVal_eq (a v : Dword) : remuVal a v = if v = 0 then a else BitVec.ofNat 64 (a.toNat % v.toNat) := by
  rw [remuVal, BitVec.umod_def]

/-! ## The operations of the units

An operation whose function is written in Table 14.1 or 14.2 as the model writes it needs no more than its trigger. -/

/-- The trigger of a scalar unit computes every function that agrees with its own. -/
theorem scalar_computes {i : Mv → Instr} {d : BitVec 10} {p q : Nat} {needs : List Nat} {res L : Nat}
    {f g : Dword → Dword → Dword → Dword} (hL : 0 < L ∧ L < 2 ^ 64)
    (trigger : ∀ m, triggerOf (i m) = some (m, d, scalarOp [p, q] needs res L f)) (agree : ∀ a b v, f a b v = g a b v) :
    Scalar i d p q needs res L g := by
  have same : f = g := funext fun a => funext fun b => funext (agree a b)
  exact same ▸ scalar_self hL (fun m => exec_trigger (trigger m))

theorem sa0_computes (i : Mv → Instr) {d : BitVec 10} (needs : List Nat) {f g : Dword → Dword → Dword → Dword}
    (trigger : ∀ m, triggerOf (i m) = some (m, d, sa0Op needs f))
    (agree : ∀ a b v, f a b v = g a b v := by exact fun _ _ _ => rfl) :
    Sa0 i d (needs.map (0x14F + ·)) g :=
  scalar_computes (by decide) trigger agree

theorem sa1_computes (i : Mv → Instr) {d : BitVec 10} (needs : List Nat) {f g : Dword → Dword → Dword → Dword}
    (trigger : ∀ m, triggerOf (i m) = some (m, d, sa1Op needs f))
    (agree : ∀ a b v, f a b v = g a b v := by exact fun _ _ _ => rfl) :
    Sa1 i d (needs.map (0x151 + ·)) g :=
  scalar_computes (by decide) trigger agree

theorem sm_computes (i : Mv → Instr) {d : BitVec 10} (needs : List Nat) {L : Nat} {f g : Dword → Dword → Dword → Dword}
    (trigger : ∀ m, triggerOf (i m) = some (m, d, smOp needs L f))
    (agree : ∀ a b v, f a b v = g a b v := by exact fun _ _ _ => rfl) (hL : 0 < L ∧ L < 2 ^ 64 := by decide) :
    Sm i d (needs.map (0x153 + ·)) L g :=
  scalar_computes hL trigger agree

/-- `sel` and its twin choose by the same condition, told the other way round (R361). -/
theorem select_eq (a b v : Dword) : (if v = 0 then b else a) = if v ≠ 0 then a else b := (ite_not ..).symm

/-- Settles O4: the rows of Table 14.1, one after the other for sa0 and for sa1, and the laws of their values. -/
theorem scalarAluComputes : Obligations.ScalarAluComputes := by
  unfold Obligations.ScalarAluComputes
  exact
   ⟨sa0_computes .add [1] (fun _ => rfl),
    sa0_computes .sub [1] (fun _ => rfl),
    sa0_computes .and [1] (fun _ => rfl),
    sa0_computes .or [1] (fun _ => rfl),
    sa0_computes .xor [1] (fun _ => rfl),
    sa0_computes .andn [1] (fun _ => rfl),
    sa0_computes .shl [1] (fun _ => rfl),
    sa0_computes .shr [1] (fun _ => rfl),
    sa0_computes .sra [1] (fun _ => rfl),
    sa0_computes .min [1] (fun _ => rfl) (fun a _ v => min_signed a v),
    sa0_computes .max [1] (fun _ => rfl) (fun a _ v => max_signed a v),
    sa0_computes .minu [1] (fun _ => rfl) (fun a _ v => min_unsigned a v),
    sa0_computes .maxu [1] (fun _ => rfl) (fun a _ v => max_unsigned a v),
    sa0_computes .clz [] (fun _ => rfl),
    sa0_computes .ctz [] (fun _ => rfl),
    sa0_computes .popc [] (fun _ => rfl),
    sa0_computes .bfx [1] (fun _ => rfl),
    sa0_computes .bfxu [1] (fun _ => rfl),
    sa0_computes .bfi [1, 2] (fun _ => rfl),
    sa0_computes .sel [1, 2] (fun _ => rfl) select_eq,
    sa0_computes .lea [1, 2] (fun _ => rfl),
    sa0_computes .sext [1] (fun _ => rfl),
    sa0_computes .zext [1] (fun _ => rfl),
    sa0_computes .sbase [1] (fun _ => rfl),
    sa1_computes .addB [1] (fun _ => rfl),
    sa1_computes .subB [1] (fun _ => rfl),
    sa1_computes .andB [1] (fun _ => rfl),
    sa1_computes .orB [1] (fun _ => rfl),
    sa1_computes .xorB [1] (fun _ => rfl),
    sa1_computes .andnB [1] (fun _ => rfl),
    sa1_computes .shlB [1] (fun _ => rfl),
    sa1_computes .shrB [1] (fun _ => rfl),
    sa1_computes .sraB [1] (fun _ => rfl),
    sa1_computes .minB [1] (fun _ => rfl) (fun a _ v => min_signed a v),
    sa1_computes .maxB [1] (fun _ => rfl) (fun a _ v => max_signed a v),
    sa1_computes .minuB [1] (fun _ => rfl) (fun a _ v => min_unsigned a v),
    sa1_computes .maxuB [1] (fun _ => rfl) (fun a _ v => max_unsigned a v),
    sa1_computes .clzB [] (fun _ => rfl),
    sa1_computes .ctzB [] (fun _ => rfl),
    sa1_computes .popcB [] (fun _ => rfl),
    sa1_computes .bfxB [1] (fun _ => rfl),
    sa1_computes .bfxuB [1] (fun _ => rfl),
    sa1_computes .bfiB [1, 2] (fun _ => rfl),
    sa1_computes .selB [1, 2] (fun _ => rfl) select_eq,
    sa1_computes .leaB [1, 2] (fun _ => rfl),
    sa1_computes .sextB [1] (fun _ => rfl),
    sa1_computes .zextB [1] (fun _ => rfl),
    sa1_computes .sbaseB [1] (fun _ => rfl),
    fun _ => clz64_bits, fun _ => ctz64_bits, clz64_zero, ctz64_zero, popc64_toNat,
    bfxuVal_bit, bfxVal_bit, bfiVal_bit, sextFrom_bit, zextFrom_bit, sbaseVal_eq⟩

/-- Settles O6: the rows of Table 14.2. -/
theorem scalarMultiplyComputes : Obligations.ScalarMultiplyComputes := by
  unfold Obligations.ScalarMultiplyComputes
  exact
   ⟨sm_computes .mul [1] (fun _ => rfl),
    sm_computes .mulh [1] (fun _ => rfl),
    sm_computes .mulhu [1] (fun _ => rfl),
    sm_computes .mad [1, 2] (fun _ => rfl),
    sm_computes .div [1] (fun _ => rfl) (fun a _ v => divVal_eq a v),
    sm_computes .divu [1] (fun _ => rfl) (fun a _ v => divuVal_eq a v),
    sm_computes .rem [1] (fun _ => rfl) (fun a _ v => remVal_eq a v),
    sm_computes .remu [1] (fun _ => rfl) (fun a _ v => remuVal_eq a v)⟩

end Sys2Proof.Proofs.ScalarUnits
end
